-- ==== Sys2Proof/Word.lean ====
section
/-! DEFINITION. The sizes of the values every other file speaks of (R2, R10, R112, R118): names for bit vectors, nothing more. -/
namespace Sys2Proof

/-- A byte of memory (R5). -/
abbrev Byte := BitVec 8

/-- A dword: the width of a g register, a state register and a token payload (R2). -/
abbrev Dword := BitVec 64

/-- A device virtual address (R112). -/
abbrev VAddr := BitVec 56

/-- A vector register (R147). -/
abbrev VReg := BitVec 1024

/-- A mask register: one bit for each byte lane (R147). -/
abbrev Mask := BitVec 128

end Sys2Proof
end

