-- ==== Sys2Proof/Machine/Payload.lean ====
section
/-! DEFINITION. The structured operands that rows of the opcode table without an encoding carry: what a host command, a link
flit, a tile object, a signed stage or a soft error brings with it. They are plain data; no file format is given to them where
the spec gives none (log entry 14). -/
namespace Sys2Proof

/-- A tile: one quad, named by its 10-bit quad index, or one fabric tile, named by its FTID (R28, Table 12-7). -/
inductive TileRef where
  | quad (q : Nat)
  | fabric (f : Nat)
  deriving DecidableEq, Repr

/-- Who performs a write that arrives at a register window: a context of a core, an engine queue, or an agent outside the
device (R115 to R117, R341). -/
inductive Writer where
  | context (core : Nat) (ctx : Fin 4)
  | engine (q : Nat)
  | outside
  deriving DecidableEq, Repr

/-- The entry of a decode table that a window write names: its table and its code (R102, Table 5-2). -/
structure TableEntry where
  table : Fin 4
  code : Fin 256
  deriving DecidableEq, Repr

/-- What waits behind a marker: input `i` of an actor of a quad, or an element (R89, R294). -/
inductive HoldRef where
  | actor (quad a i : Nat)
  | element (e : Nat)
  deriving DecidableEq, Repr

/-- The parts of a host command that every command has (R401): its ring, CID, JOB and FENCE. -/
structure HostHdr where
  ring : Fin 8
  cid : BitVec 16
  job : BitVec 32
  fence : Bool
  deriving DecidableEq, Repr

/-- One queue port of an actor (Table 2-1, R155). The queue is named by its identifier; `reach` says that the capability which the loading stall
holds for it carries G (R83). `far` is the home of a queue on another module: peer index, identifier there and descriptor (R83, R404). -/
structure PortDecl where
  q : Fin 16
  queue : Nat
  rate : Nat
  type : BitVec 8
  window : Nat
  reach : Bool := false
  far : Option (Fin 16 × BitVec 16 × BitVec 128) := none
  deriving DecidableEq, Repr

/-- One input tile of an actor: whole lines of the quad scratchpad (Table 2-1). -/
structure InTile where
  off : Nat
  lines : Nat
  consume : Bool
  deriving DecidableEq, Repr

/-- An actor declaration (Table 2-1). `home` is `none` for spread; `stateArea` is an offset and a number of lines. -/
structure ActorDecl where
  ins : List PortDecl
  outs : List PortDecl
  entry : Nat
  urgent : Bool
  aff : Nat
  home : Option (Fin 4)
  tiles : List InTile
  stateArea : Option (Nat × Nat)
  conc : Nat
  deriving DecidableEq, Repr

/-- One `set` clause of a launch block (R156): an initial register value of a context. -/
inductive RegInit where
  | g (r : Fin 32) (x : Dword)
  | v (r : Fin 32) (x : VReg)
  | m (r : Fin 8) (x : Mask)
  | k (r : Fin 16) (x : BitVec 128)
  deriving DecidableEq, Repr

/-- One `jobcap` clause (R156): k8 to k11, with the bits that the loading stall mints. -/
structure JobCap where
  k : Fin 16
  bits : BitVec 128
  deriving DecidableEq, Repr

/-- A tile program as the loading stall hands it over (R382): where its code stands, its actors and its launch clauses. The
object file that carries this is not laid out by the spec (log entry 14). -/
structure TileObject where
  codeBase : VAddr
  codeLen : Nat
  code : List Byte
  actors : List ActorDecl
  sets : List (Fin 4 × Fin 4 × RegInit)
  jobcaps : List JobCap
  fullLines : List Nat
  ring : Nat
  stallchk : Bool
  quiesce : Dword
  exq : Nat
  ansq : Nat
  traps : List (Fin 16 × BitVec 18)
  ckptTbl : Dword
  deriving DecidableEq, Repr

/-- A fabric image as bytes (R275), with the extent its launch clause asks for (R156). -/
structure FabricObject where
  widthM1 : Nat
  heightM1 : Nat
  image : List Byte
  exq : Nat
  ansq : Nat
  deriving DecidableEq, Repr

/-- What TILELOAD loads and where (R382, R401). -/
inductive LoadTarget where
  | core (quad : Nat) (obj : TileObject)
  | fabric (ftid : Nat) (obj : FabricObject)
  deriving DecidableEq, Repr

/-- A link flit (Table 22-4): the 256 bytes that crossed the link. -/
structure Flit where
  bytes : List Byte
  deriving DecidableEq, Repr

/-- A signed stage (R410 to R412): its kind, the bytes of its manifest (Table 23-2) and of its body. -/
structure Stage where
  kind : Nat
  manifest : List Byte
  body : List Byte
  deriving DecidableEq, Repr

/-- What a soft error strikes (R374): memory bytes, an element store or node record, or an element FIFO. -/
inductive SoftHit where
  | corrected (die : Fin 4) (kind : Fin 8)
  | poison (addr n : Nat)
  | elementStore (e : Nat)
  | fifo (e port : Nat)
  deriving DecidableEq, Repr

/-- An access of the host to HBM through the HDM range (R395, R396), or one of its AtomicOps of 64 bits, which the device completes (R394). -/
inductive HdmOp where
  | read (offset n : Nat)
  | write (offset : Nat) (data : List Byte)
  | fetchAdd (offset : Nat) (x : Dword)
  | swap (offset : Nat) (x : Dword)
  | cas (offset : Nat) (expected x : Dword)
  deriving DecidableEq, Repr

end Sys2Proof
end

