-- ==== Sys2Proof/Syntax.lean ====
section
/-! DEFINITION. The instructions and steps of the machine: one constructor for each row of the spec's opcode table: the
core's words first, then the element words, then the steps without a word. A row with a word carries the fields of that word (R137 to R139, R148); `st` is STALL. A row without a word is
a step of another agent and carries what that step is about. Commands of the matrix unit act on the core whose turn it is,
element words on the element whose turn it is. -/
namespace Sys2Proof

/-- One row of spec/opcode_table.json each. -/
inductive Instr where
  /-- ILL (R159). The all-zero word, or any word with MAJOR 0x00 and MINOR 0x00, raises ILLEGAL. -/
  | ill (st : Fin 8) (d a b : Fin 32)
  /-- ADD (R159). Writes a + b to gd. -/
  | add (st : Fin 8) (d a b : Fin 32)
  /-- SUB (R159). Writes a - b to gd. -/
  | sub (st : Fin 8) (d a b : Fin 32)
  /-- MUL (R159). Writes the low 64 bits of a × b to gd. -/
  | mul (st : Fin 8) (d a b : Fin 32)
  /-- MULH (R159). Writes the high 64 bits of the signed 128-bit product to gd. -/
  | mulh (st : Fin 8) (d a b : Fin 32)
  /-- MULHU (R159). Writes the high 64 bits of the unsigned 128-bit product to gd. -/
  | mulhu (st : Fin 8) (d a b : Fin 32)
  /-- DIV (R161). Signed division truncating toward zero, with fixed results for division by zero and for overflow. -/
  | div (st : Fin 8) (d a b : Fin 32)
  /-- DIVU (R161). Unsigned division; division by zero gives all ones. -/
  | divu (st : Fin 8) (d a b : Fin 32)
  /-- REM (R161). Signed remainder, taking the sign of the dividend. -/
  | rem (st : Fin 8) (d a b : Fin 32)
  /-- REMU (R161). Unsigned remainder; a remainder by zero gives a. -/
  | remu (st : Fin 8) (d a b : Fin 32)
  /-- AND (R159). Writes a AND b to gd. -/
  | and (st : Fin 8) (d a b : Fin 32)
  /-- OR (R159). Writes a OR b to gd. -/
  | or (st : Fin 8) (d a b : Fin 32)
  /-- XOR (R159). Writes a XOR b to gd. -/
  | xor (st : Fin 8) (d a b : Fin 32)
  /-- ANDN (R159). Writes a AND NOT b to gd. -/
  | andn (st : Fin 8) (d a b : Fin 32)
  /-- SHL (R159). Shifts a left by b[5:0]. -/
  | shl (st : Fin 8) (d a b : Fin 32)
  /-- SHR (R159). Shifts a right logically by b[5:0]. -/
  | shr (st : Fin 8) (d a b : Fin 32)
  /-- SRA (R159). Shifts a right arithmetically by b[5:0]. -/
  | sra (st : Fin 8) (d a b : Fin 32)
  /-- ROL (R159). Rotates a left by b[5:0]. -/
  | rol (st : Fin 8) (d a b : Fin 32)
  /-- SLT (R159). Writes 1 when a < b as signed values, else 0. -/
  | slt (st : Fin 8) (d a b : Fin 32)
  /-- SLTU (R159). Writes 1 when a < b as unsigned values, else 0. -/
  | sltu (st : Fin 8) (d a b : Fin 32)
  /-- MIN (R159). Writes the signed lesser of a and b. -/
  | min (st : Fin 8) (d a b : Fin 32)
  /-- MAX (R159). Writes the signed greater of a and b. -/
  | max (st : Fin 8) (d a b : Fin 32)
  /-- MINU (R159). Writes the unsigned lesser of a and b. -/
  | minu (st : Fin 8) (d a b : Fin 32)
  /-- MAXU (R159). Writes the unsigned greater of a and b. -/
  | maxu (st : Fin 8) (d a b : Fin 32)
  /-- CLZ (R160). Counts the leading zero bits of a. -/
  | clz (st : Fin 8) (d a : Fin 32)
  /-- CTZ (R160). Counts the trailing zero bits of a. -/
  | ctz (st : Fin 8) (d a : Fin 32)
  /-- POPC (R160). Counts the 1 bits of a. -/
  | popc (st : Fin 8) (d a : Fin 32)
  /-- BSWAP (R160). Reverses the byte order of a. -/
  | bswap (st : Fin 8) (d a : Fin 32)
  /-- SEL (R160). Writes a when the old gd is nonzero, else b. -/
  | sel (st : Fin 8) (d a b : Fin 32)
  /-- SEXT (R160). Sign-extends the low w bits of a, where w is 8, 16 or 32. -/
  | sext (st : Fin 8) (d a w : Fin 32)
  /-- ZEXT (R160). Zero-extends the low w bits of a, where w is 8, 16 or 32. -/
  | zext (st : Fin 8) (d a w : Fin 32)
  /-- ADDI (R162). Writes a + imm. -/
  | addi (st : Fin 8) (d a : Fin 32) (i : Fin 8192)
  /-- ANDI (R162). Writes a AND imm. -/
  | andi (st : Fin 8) (d a : Fin 32) (i : Fin 8192)
  /-- ORI (R162). Writes a OR imm. -/
  | ori (st : Fin 8) (d a : Fin 32) (i : Fin 8192)
  /-- XORI (R162). Writes a XOR imm. -/
  | xori (st : Fin 8) (d a : Fin 32) (i : Fin 8192)
  /-- SHLI (R162). Shifts a left by an immediate amount. -/
  | shli (st : Fin 8) (d a : Fin 32) (h : Fin 64)
  /-- SHRI (R162). Shifts a right logically by an immediate amount. -/
  | shri (st : Fin 8) (d a : Fin 32) (h : Fin 64)
  /-- SRAI (R162). Shifts a right arithmetically by an immediate amount. -/
  | srai (st : Fin 8) (d a : Fin 32) (h : Fin 64)
  /-- SLTI (R162). Signed less-than comparison of a with an immediate. -/
  | slti (st : Fin 8) (d a : Fin 32) (i : Fin 8192)
  /-- SLTUI (R162). Unsigned less-than comparison of a with a sign-extended immediate. -/
  | sltui (st : Fin 8) (d a : Fin 32) (i : Fin 8192)
  /-- LUI (R163). Writes SignExtend(imm18) << 13. -/
  | lui (st : Fin 8) (d : Fin 32) (i : Fin 262144)
  /-- ADDPC (R163). Writes pc + (SignExtend(imm18) << 13). -/
  | addpc (st : Fin 8) (d : Fin 32) (i : Fin 262144)
  /-- BEXT (R164). Extracts a bit field of a, zero-extended. -/
  | bext (st : Fin 8) (d a : Fin 32) (p l : Fin 64)
  /-- BINS (R164). Inserts the low bits of a into a field of gd. -/
  | bins (st : Fin 8) (d a : Fin 32) (p l : Fin 64)
  /-- BEQ (R165). Branches when a = b. -/
  | beq (st : Fin 8) (a b : Fin 32) (o : Fin 2048)
  /-- BNE (R165). Branches when a ≠ b. -/
  | bne (st : Fin 8) (a b : Fin 32) (o : Fin 2048)
  /-- BLT (R165). Branches when a < b as signed values. -/
  | blt (st : Fin 8) (a b : Fin 32) (o : Fin 2048)
  /-- BGE (R165). Branches when a ≥ b as signed values. -/
  | bge (st : Fin 8) (a b : Fin 32) (o : Fin 2048)
  /-- BLTU (R165). Branches when a < b as unsigned values. -/
  | bltu (st : Fin 8) (a b : Fin 32) (o : Fin 2048)
  /-- BGEU (R165). Branches when a ≥ b as unsigned values. -/
  | bgeu (st : Fin 8) (a b : Fin 32) (o : Fin 2048)
  /-- JAL (R166). Jumps pc-relative and links to g31. -/
  | jal (st : Fin 8) (o : Fin 8388608)
  /-- JALR (R166). Jumps to a + imm and links to gd. -/
  | jalr (st : Fin 8) (d a : Fin 32) (i : Fin 8192)
  /-- CAP_BND (R169). Narrows ka to n bytes at its cursor, exactly, or clears the tag. -/
  | capBnd (st : Fin 8) (d a : Fin 16) (b : Fin 32)
  /-- CAP_PRM (R168). ANDs the permissions of ka with b[7:0]. -/
  | capPrm (st : Fin 8) (d a : Fin 16) (b : Fin 32)
  /-- CAP_SET (R168). Sets the cursor of ka to b[55:0]. -/
  | capSet (st : Fin 8) (d a : Fin 16) (b : Fin 32)
  /-- CAP_ADD (R168). Adds b to the cursor of ka. -/
  | capAdd (st : Fin 8) (d a : Fin 16) (b : Fin 32)
  /-- CAP_GET (R170). Reads a selected field of ka into gd. -/
  | capGet (st : Fin 8) (d : Fin 32) (a : Fin 16) (c : Fin 32)
  /-- CAP_ADD_IMM (R168). Adds an immediate to the cursor of ka. -/
  | capAddImm (st : Fin 8) (d a : Fin 16) (i : Fin 8192)
  /-- LD_B (R173). Loads a sign-extended byte, addressed by displacement. -/
  | ldB (st : Fin 8) (d : Fin 32) (k : Fin 16) (i : Fin 1024)
  /-- LD_B_IDX (R173). Loads a sign-extended byte, addressed by scaled index. -/
  | ldBIdx (st : Fin 8) (d : Fin 32) (k : Fin 16) (x : Fin 32) (c : Fin 4)
  /-- LD_BU (R173). Loads a zero-extended byte, addressed by displacement. -/
  | ldBu (st : Fin 8) (d : Fin 32) (k : Fin 16) (i : Fin 1024)
  /-- LD_BU_IDX (R173). Loads a zero-extended byte, addressed by scaled index. -/
  | ldBuIdx (st : Fin 8) (d : Fin 32) (k : Fin 16) (x : Fin 32) (c : Fin 4)
  /-- LD_H (R173). Loads a sign-extended halfword, addressed by displacement. -/
  | ldH (st : Fin 8) (d : Fin 32) (k : Fin 16) (i : Fin 1024)
  /-- LD_H_IDX (R173). Loads a sign-extended halfword, addressed by scaled index. -/
  | ldHIdx (st : Fin 8) (d : Fin 32) (k : Fin 16) (x : Fin 32) (c : Fin 4)
  /-- LD_HU (R173). Loads a zero-extended halfword, addressed by displacement. -/
  | ldHu (st : Fin 8) (d : Fin 32) (k : Fin 16) (i : Fin 1024)
  /-- LD_HU_IDX (R173). Loads a zero-extended halfword, addressed by scaled index. -/
  | ldHuIdx (st : Fin 8) (d : Fin 32) (k : Fin 16) (x : Fin 32) (c : Fin 4)
  /-- LD_W (R173). Loads a sign-extended word, addressed by displacement. -/
  | ldW (st : Fin 8) (d : Fin 32) (k : Fin 16) (i : Fin 1024)
  /-- LD_W_IDX (R173). Loads a sign-extended word, addressed by scaled index. -/
  | ldWIdx (st : Fin 8) (d : Fin 32) (k : Fin 16) (x : Fin 32) (c : Fin 4)
  /-- LD_WU (R173). Loads a zero-extended word, addressed by displacement. -/
  | ldWu (st : Fin 8) (d : Fin 32) (k : Fin 16) (i : Fin 1024)
  /-- LD_WU_IDX (R173). Loads a zero-extended word, addressed by scaled index. -/
  | ldWuIdx (st : Fin 8) (d : Fin 32) (k : Fin 16) (x : Fin 32) (c : Fin 4)
  /-- LD_D (R173). Loads a dword, addressed by displacement. -/
  | ldD (st : Fin 8) (d : Fin 32) (k : Fin 16) (i : Fin 1024)
  /-- LD_D_IDX (R173). Loads a dword, addressed by scaled index. -/
  | ldDIdx (st : Fin 8) (d : Fin 32) (k : Fin 16) (x : Fin 32) (c : Fin 4)
  /-- LD_X (R173). Loads 64 bytes into the lower half of vd, addressed by displacement. -/
  | ldX (st : Fin 8) (d : Fin 32) (k : Fin 16) (i : Fin 1024)
  /-- LD_X_IDX (R173). Loads 64 bytes into the lower half of vd, addressed by scaled index. -/
  | ldXIdx (st : Fin 8) (d : Fin 32) (k : Fin 16) (x : Fin 32) (c : Fin 4)
  /-- ST_B (R173). Stores a byte, addressed by displacement. -/
  | stB (st : Fin 8) (d : Fin 32) (k : Fin 16) (i : Fin 1024)
  /-- ST_B_IDX (R173). Stores a byte, addressed by scaled index. -/
  | stBIdx (st : Fin 8) (d : Fin 32) (k : Fin 16) (x : Fin 32) (c : Fin 4)
  /-- ST_H (R173). Stores a halfword, addressed by displacement. -/
  | stH (st : Fin 8) (d : Fin 32) (k : Fin 16) (i : Fin 1024)
  /-- ST_H_IDX (R173). Stores a halfword, addressed by scaled index. -/
  | stHIdx (st : Fin 8) (d : Fin 32) (k : Fin 16) (x : Fin 32) (c : Fin 4)
  /-- ST_W (R173). Stores a word, addressed by displacement. -/
  | stW (st : Fin 8) (d : Fin 32) (k : Fin 16) (i : Fin 1024)
  /-- ST_W_IDX (R173). Stores a word, addressed by scaled index. -/
  | stWIdx (st : Fin 8) (d : Fin 32) (k : Fin 16) (x : Fin 32) (c : Fin 4)
  /-- ST_D (R173). Stores a dword, addressed by displacement. -/
  | stD (st : Fin 8) (d : Fin 32) (k : Fin 16) (i : Fin 1024)
  /-- ST_D_IDX (R173). Stores a dword, addressed by scaled index. -/
  | stDIdx (st : Fin 8) (d : Fin 32) (k : Fin 16) (x : Fin 32) (c : Fin 4)
  /-- ST_X (R173). Stores the lower 64 bytes of vs, addressed by displacement; into the MU page it is a command store. -/
  | stX (st : Fin 8) (d : Fin 32) (k : Fin 16) (i : Fin 1024)
  /-- ST_X_IDX (R173). Stores the lower 64 bytes of vs, addressed by scaled index. -/
  | stXIdx (st : Fin 8) (d : Fin 32) (k : Fin 16) (x : Fin 32) (c : Fin 4)
  /-- LD_B_ACQ (R174). Acquire load of a sign-extended byte at a scope. -/
  | ldBAcq (st : Fin 8) (d : Fin 32) (k : Fin 16) (x : Fin 32) (c : Fin 4) (p : Fin 8)
  /-- LD_BU_ACQ (R174). Acquire load of a zero-extended byte at a scope. -/
  | ldBuAcq (st : Fin 8) (d : Fin 32) (k : Fin 16) (x : Fin 32) (c : Fin 4) (p : Fin 8)
  /-- LD_H_ACQ (R174). Acquire load of a sign-extended halfword at a scope. -/
  | ldHAcq (st : Fin 8) (d : Fin 32) (k : Fin 16) (x : Fin 32) (c : Fin 4) (p : Fin 8)
  /-- LD_HU_ACQ (R174). Acquire load of a zero-extended halfword at a scope. -/
  | ldHuAcq (st : Fin 8) (d : Fin 32) (k : Fin 16) (x : Fin 32) (c : Fin 4) (p : Fin 8)
  /-- LD_W_ACQ (R174). Acquire load of a sign-extended word at a scope. -/
  | ldWAcq (st : Fin 8) (d : Fin 32) (k : Fin 16) (x : Fin 32) (c : Fin 4) (p : Fin 8)
  /-- LD_WU_ACQ (R174). Acquire load of a zero-extended word at a scope. -/
  | ldWuAcq (st : Fin 8) (d : Fin 32) (k : Fin 16) (x : Fin 32) (c : Fin 4) (p : Fin 8)
  /-- LD_D_ACQ (R174). Acquire load of a dword at a scope. -/
  | ldDAcq (st : Fin 8) (d : Fin 32) (k : Fin 16) (x : Fin 32) (c : Fin 4) (p : Fin 8)
  /-- ST_B_REL (R174). Release store of a byte at a scope. -/
  | stBRel (st : Fin 8) (d : Fin 32) (k : Fin 16) (x : Fin 32) (c : Fin 4) (p : Fin 8)
  /-- ST_H_REL (R174). Release store of a halfword at a scope. -/
  | stHRel (st : Fin 8) (d : Fin 32) (k : Fin 16) (x : Fin 32) (c : Fin 4) (p : Fin 8)
  /-- ST_W_REL (R174). Release store of a word at a scope. -/
  | stWRel (st : Fin 8) (d : Fin 32) (k : Fin 16) (x : Fin 32) (c : Fin 4) (p : Fin 8)
  /-- ST_D_REL (R174). Release store of a dword at a scope. -/
  | stDRel (st : Fin 8) (d : Fin 32) (k : Fin 16) (x : Fin 32) (c : Fin 4) (p : Fin 8)
  /-- LD_FE (R175). Waits for the line to be full, reads 8 bytes and sets the line empty, addressed by displacement. -/
  | ldFe (st : Fin 8) (d : Fin 32) (k : Fin 16) (i : Fin 1024)
  /-- LD_FE_IDX (R175). ld.fe addressed by scaled index. -/
  | ldFeIdx (st : Fin 8) (d : Fin 32) (k : Fin 16) (x : Fin 32) (c : Fin 4)
  /-- ST_FE (R175). Waits for the line to be empty, writes 8 bytes and sets the line full, addressed by displacement. -/
  | stFe (st : Fin 8) (d : Fin 32) (k : Fin 16) (i : Fin 1024)
  /-- ST_FE_IDX (R175). st.fe addressed by scaled index. -/
  | stFeIdx (st : Fin 8) (d : Fin 32) (k : Fin 16) (x : Fin 32) (c : Fin 4)
  /-- LD_CAP (R176). Loads a 16-byte granule with its tag into kd, addressed by displacement. -/
  | ldCap (st : Fin 8) (d k : Fin 16) (i : Fin 1024)
  /-- LD_CAP_IDX (R176). ld.cap addressed by scaled index. -/
  | ldCapIdx (st : Fin 8) (d k : Fin 16) (x : Fin 32) (c : Fin 4)
  /-- ST_CAP (R176). Stores a capability and sets the granule tag to its tag, addressed by displacement. -/
  | stCap (st : Fin 8) (d k : Fin 16) (i : Fin 1024)
  /-- ST_CAP_IDX (R176). st.cap addressed by scaled index. -/
  | stCapIdx (st : Fin 8) (d k : Fin 16) (x : Fin 32) (c : Fin 4)
  /-- AMO_ADD (R177). Atomic fetch-and-add on a dword. -/
  | amoAdd (st : Fin 8) (d a b : Fin 32) (k : Fin 16)
  /-- AMO_AND (R177). Atomic fetch-and-AND on a dword. -/
  | amoAnd (st : Fin 8) (d a b : Fin 32) (k : Fin 16)
  /-- AMO_OR (R177). Atomic fetch-and-OR on a dword. -/
  | amoOr (st : Fin 8) (d a b : Fin 32) (k : Fin 16)
  /-- AMO_XOR (R177). Atomic fetch-and-XOR on a dword. -/
  | amoXor (st : Fin 8) (d a b : Fin 32) (k : Fin 16)
  /-- AMO_MIN (R177). Atomic signed minimum on a dword. -/
  | amoMin (st : Fin 8) (d a b : Fin 32) (k : Fin 16)
  /-- AMO_MAX (R177). Atomic signed maximum on a dword. -/
  | amoMax (st : Fin 8) (d a b : Fin 32) (k : Fin 16)
  /-- AMO_MINU (R177). Atomic unsigned minimum on a dword. -/
  | amoMinu (st : Fin 8) (d a b : Fin 32) (k : Fin 16)
  /-- AMO_MAXU (R177). Atomic unsigned maximum on a dword. -/
  | amoMaxu (st : Fin 8) (d a b : Fin 32) (k : Fin 16)
  /-- AMO_SWAP (R177). Atomic swap of a dword. -/
  | amoSwap (st : Fin 8) (d a b : Fin 32) (k : Fin 16)
  /-- AMO_CAS (R177). Atomic compare-and-swap against the old gd. -/
  | amoCas (st : Fin 8) (d a b : Fin 32) (k : Fin 16)
  /-- AMO_TAS (R177). Atomically sets bit b[5:0] and returns its old value. -/
  | amoTas (st : Fin 8) (d a b : Fin 32) (k : Fin 16)
  /-- PF (R179). Prefetches a line into the island cache, addressed by displacement. -/
  | pf (st : Fin 8) (k : Fin 16) (i : Fin 1024)
  /-- PF_IDX (R179). Prefetches a line, addressed by scaled index. -/
  | pfIdx (st : Fin 8) (k : Fin 16) (x : Fin 32) (c : Fin 4)
  /-- FENCE (R180). Waits until the first set of accesses of its kind is globally performed within its scope. -/
  | fence (st f p : Fin 8)
  /-- VADD (R184). Lane-wise integer add. -/
  | vadd (st : Fin 8) (d a b : Fin 32) (w : Fin 4) (m : Fin 8)
  /-- VSUB (R184). Lane-wise integer subtract. -/
  | vsub (st : Fin 8) (d a b : Fin 32) (w : Fin 4) (m : Fin 8)
  /-- VMUL (R184). Lane-wise low multiply. -/
  | vmul (st : Fin 8) (d a b : Fin 32) (w : Fin 4) (m : Fin 8)
  /-- VMULH (R184). Lane-wise signed high multiply. -/
  | vmulh (st : Fin 8) (d a b : Fin 32) (w : Fin 4) (m : Fin 8)
  /-- VADDS (R184). Lane-wise saturating signed add. -/
  | vadds (st : Fin 8) (d a b : Fin 32) (w : Fin 4) (m : Fin 8)
  /-- VSUBS (R184). Lane-wise saturating signed subtract. -/
  | vsubs (st : Fin 8) (d a b : Fin 32) (w : Fin 4) (m : Fin 8)
  /-- VMIN (R184). Lane-wise signed minimum. -/
  | vmin (st : Fin 8) (d a b : Fin 32) (w : Fin 4) (m : Fin 8)
  /-- VMAX (R184). Lane-wise signed maximum. -/
  | vmax (st : Fin 8) (d a b : Fin 32) (w : Fin 4) (m : Fin 8)
  /-- VMINU (R184). Lane-wise unsigned minimum. -/
  | vminu (st : Fin 8) (d a b : Fin 32) (w : Fin 4) (m : Fin 8)
  /-- VMAXU (R184). Lane-wise unsigned maximum. -/
  | vmaxu (st : Fin 8) (d a b : Fin 32) (w : Fin 4) (m : Fin 8)
  /-- VABS (R184). Lane-wise absolute value. -/
  | vabs (st : Fin 8) (d a : Fin 32) (w : Fin 4) (m : Fin 8)
  /-- VAND (R184). Lane-wise AND. -/
  | vand (st : Fin 8) (d a b : Fin 32) (w : Fin 4) (m : Fin 8)
  /-- VOR (R184). Lane-wise OR. -/
  | vor (st : Fin 8) (d a b : Fin 32) (w : Fin 4) (m : Fin 8)
  /-- VXOR (R184). Lane-wise XOR. -/
  | vxor (st : Fin 8) (d a b : Fin 32) (w : Fin 4) (m : Fin 8)
  /-- VSHL (R184). Lane-wise shift left. -/
  | vshl (st : Fin 8) (d a b : Fin 32) (w : Fin 4) (m : Fin 8)
  /-- VSHR (R184). Lane-wise logical shift right. -/
  | vshr (st : Fin 8) (d a b : Fin 32) (w : Fin 4) (m : Fin 8)
  /-- VSRA (R184). Lane-wise arithmetic shift right. -/
  | vsra (st : Fin 8) (d a b : Fin 32) (w : Fin 4) (m : Fin 8)
  /-- VCLZ (R184). Lane-wise count of leading zeros. -/
  | vclz (st : Fin 8) (d a : Fin 32) (w : Fin 4) (m : Fin 8)
  /-- VPOPC (R184). Lane-wise population count. -/
  | vpopc (st : Fin 8) (d a : Fin 32) (w : Fin 4) (m : Fin 8)
  /-- VCMP (R185). Lane-wise eq, ne, lt or ge comparison into a mask. -/
  | vcmp (st : Fin 8) (c : Fin 4) (m : Fin 8) (a b : Fin 32) (w : Fin 4) (k : Fin 8)
  /-- VCMP_UNSIGNED (R185). Lane-wise ltu or geu comparison into a mask. -/
  | vcmpUnsigned (st : Fin 8) (c : Fin 2) (m : Fin 8) (a b : Fin 32) (w : Fin 4) (k : Fin 8)
  /-- VSEL (R185). Selects the lanes of va where the mask is set and the lanes of vb elsewhere. -/
  | vsel (st : Fin 8) (d a b : Fin 32) (w : Fin 4) (m : Fin 8)
  /-- VFADD (R186). Lane-wise floating-point add. -/
  | vfadd (st : Fin 8) (d a b : Fin 32) (w : Fin 4) (m : Fin 8)
  /-- VFSUB (R186). Lane-wise floating-point subtract. -/
  | vfsub (st : Fin 8) (d a b : Fin 32) (w : Fin 4) (m : Fin 8)
  /-- VFMUL (R186). Lane-wise floating-point multiply. -/
  | vfmul (st : Fin 8) (d a b : Fin 32) (w : Fin 4) (m : Fin 8)
  /-- VFMA (R186). Lane-wise fused a × b + d. -/
  | vfma (st : Fin 8) (d a b : Fin 32) (w : Fin 4) (m : Fin 8)
  /-- VFMS (R186). Lane-wise fused a × b - d. -/
  | vfms (st : Fin 8) (d a b : Fin 32) (w : Fin 4) (m : Fin 8)
  /-- VFMIN (R187). Lane-wise floating-point minimum. -/
  | vfmin (st : Fin 8) (d a b : Fin 32) (w : Fin 4) (m : Fin 8)
  /-- VFMAX (R187). Lane-wise floating-point maximum. -/
  | vfmax (st : Fin 8) (d a b : Fin 32) (w : Fin 4) (m : Fin 8)
  /-- VFCMP (R187). Lane-wise floating-point comparison into a mask. -/
  | vfcmp (st : Fin 8) (c : Fin 4) (m : Fin 8) (a b : Fin 32) (w : Fin 4) (k : Fin 8)
  /-- VFABS (R186). Clears the sign of each lane. -/
  | vfabs (st : Fin 8) (d a : Fin 32) (w : Fin 4) (m : Fin 8)
  /-- VFNEG (R186). Inverts the sign of each lane. -/
  | vfneg (st : Fin 8) (d a : Fin 32) (w : Fin 4) (m : Fin 8)
  /-- VFRCPE (R188). Lane-wise reciprocal estimate. -/
  | vfrcpe (st : Fin 8) (d a : Fin 32) (w : Fin 4) (m : Fin 8)
  /-- VFRSQE (R188). Lane-wise reciprocal square-root estimate. -/
  | vfrsqe (st : Fin 8) (d a : Fin 32) (w : Fin 4) (m : Fin 8)
  /-- VCVT (R189). Converts lanes between formats, with part selection. -/
  | vcvt (st : Fin 8) (d a : Fin 32) (t f : Fin 16) (p : Fin 4)
  /-- VDEC (R190). Decodes code8 bytes through a table into float lanes. -/
  | vdec (st : Fin 8) (d a : Fin 32) (t f p : Fin 4) (m : Fin 8)
  /-- VENC (R190). Encodes float lanes to code8 bytes through a table. -/
  | venc (st : Fin 8) (d a : Fin 32) (t f p : Fin 4) (m : Fin 8)
  /-- VBAQ (R191). Adds two scaled reduction blocks and requantises the result. -/
  | vbaq (st : Fin 8) (d a b : Fin 32) (t : Fin 4)
  /-- VBFLY (R192). Performs a butterfly stage across lanes. -/
  | vbfly (st : Fin 8) (d a b : Fin 32) (w : Fin 4) (g : Fin 8)
  /-- VLD (R194). Loads 128 bytes in 8-byte parts, addressed by displacement. -/
  | vld (st : Fin 8) (d : Fin 32) (k : Fin 16) (i : Fin 1024)
  /-- VLD_IDX (R194). Masked vld, addressed by scaled index. -/
  | vldIdx (st : Fin 8) (d : Fin 32) (k : Fin 16) (x : Fin 32) (c : Fin 4) (m : Fin 8)
  /-- VST (R194). Stores 128 bytes in 8-byte parts, addressed by displacement. -/
  | vst (st : Fin 8) (d : Fin 32) (k : Fin 16) (i : Fin 1024)
  /-- VST_IDX (R194). Masked vst, addressed by scaled index. -/
  | vstIdx (st : Fin 8) (d : Fin 32) (k : Fin 16) (x : Fin 32) (c : Fin 4) (m : Fin 8)
  /-- VLDS (R193). Strided vector load. -/
  | vlds (st : Fin 8) (d : Fin 32) (k : Fin 16) (x : Fin 32) (w : Fin 4) (m : Fin 8)
  /-- VSTS (R193). Strided vector store. -/
  | vsts (st : Fin 8) (d : Fin 32) (k : Fin 16) (x : Fin 32) (w : Fin 4) (m : Fin 8)
  /-- VGATH (R193). Gathers elements at indexed addresses. -/
  | vgath (st : Fin 8) (d : Fin 32) (k : Fin 16) (x : Fin 32) (w : Fin 4) (m : Fin 8)
  /-- VSCAT (R196). Scatters elements to indexed addresses; the highest lane wins a collision. -/
  | vscat (st : Fin 8) (d : Fin 32) (k : Fin 16) (x : Fin 32) (w : Fin 4) (m : Fin 8)
  /-- VBCAST (R197). Broadcasts a g register into the active lanes. -/
  | vbcast (st : Fin 8) (d a : Fin 32) (w : Fin 4) (m : Fin 8)
  /-- VPERM (R197). Permutes the lanes of va by the indices in vb. -/
  | vperm (st : Fin 8) (d a b : Fin 32) (w : Fin 4) (m : Fin 8)
  /-- VSLIDE (R197). Slides lanes by a signed count. -/
  | vslide (st : Fin 8) (d a b : Fin 32) (w : Fin 4) (m : Fin 8)
  /-- VCOMP (R197). Compresses the active lanes to the front of vd. -/
  | vcomp (st : Fin 8) (d a : Fin 32) (w : Fin 4) (m : Fin 8)
  /-- VEXPD (R197). Expands leading lanes into the active lanes of vd. -/
  | vexpd (st : Fin 8) (d a : Fin 32) (w : Fin 4) (m : Fin 8)
  /-- VRED (R198). Tree-reduces the lanes into a g register. -/
  | vred (st : Fin 8) (d a o : Fin 32) (w : Fin 4) (m : Fin 8)
  /-- VMRG (R199). Merges two registers of single-lane keys into a register pair. -/
  | vmrg (st : Fin 8) (d a b : Fin 32) (w : Fin 4) (g : Fin 2)
  /-- VMRGP (R199). Merges two registers of key-payload pairs into a register pair. -/
  | vmrgp (st : Fin 8) (d a b : Fin 32) (w : Fin 4) (g : Fin 2)
  /-- VSRT (R199). Stable sort of va by key. -/
  | vsrt (st : Fin 8) (d a : Fin 32) (w : Fin 4) (v g : Fin 2)
  /-- MAND (R200). Mask AND. -/
  | mand (st d a b : Fin 8)
  /-- MOR (R200). Mask OR. -/
  | mor (st d a b : Fin 8)
  /-- MXOR (R200). Mask XOR. -/
  | mxor (st d a b : Fin 8)
  /-- MNOT (R200). Mask NOT. -/
  | mnot (st d a : Fin 8)
  /-- MPOP (R200). Counts the active lanes of a mask. -/
  | mpop (st : Fin 8) (d : Fin 32) (a : Fin 8) (w : Fin 4)
  /-- MFIRST (R200). Finds the first active lane of a mask. -/
  | mfirst (st : Fin 8) (d : Fin 32) (a : Fin 8) (w : Fin 4)
  /-- VREP (R201). Captures the next n words into the repetition buffer and starts a renamed repetition sequence. -/
  | vrep (st : Fin 8) (b a l : Fin 32) (n t : Fin 16)
  /-- MTBL (R220). Loads a whole decode table from memory, addressed by displacement, after earlier MU commands are performed. -/
  | mtbl (st : Fin 8) (k : Fin 16) (t : Fin 4) (i : Fin 1024)
  /-- MTBL_IDX (R220). mtbl addressed by scaled index. -/
  | mtblIdx (st : Fin 8) (k : Fin 16) (x : Fin 32) (c t : Fin 4)
  /-- MRD_ACC (R221). Reads an accumulator element after earlier commands on its tile. -/
  | mrdAcc (st : Fin 8) (d a : Fin 32)
  /-- MRD_TBL (R221). Reads a decode-table entry. -/
  | mrdTbl (st : Fin 8) (d a : Fin 32)
  /-- MRD_STAT (R221). Reads MUSTAT. -/
  | mrdStat (st : Fin 8) (d : Fin 32)
  /-- MWR_ACC (R222). Writes an accumulator element after earlier commands on its tile. -/
  | mwrAcc (st : Fin 8) (a b : Fin 32)
  /-- MWR_TBL (R222). Writes a decode-table entry and reclassifies the table. -/
  | mwrTbl (st : Fin 8) (a b : Fin 32)
  /-- MWR_OVF (R222). Sets the OVF bits of all tiles. -/
  | mwrOvf (st : Fin 8) (b : Fin 32)
  /-- MSEQ (R223). Enqueues n MU commands read from memory, accepted in consecutive cycles. -/
  | mseq (st : Fin 8) (d a b : Fin 32) (k : Fin 16)
  /-- QPOP (R231). Waits for a candidate item, checks its type, takes it and writes it to a register. -/
  | qpop (st : Fin 8) (d : Fin 32) (q : Fin 16) (v : Fin 2) (t : Fin 256)
  /-- QTRY (R232). Takes an item if one is found, without waiting, and writes a status. -/
  | qtry (st : Fin 8) (d : Fin 32) (q : Fin 16) (t : Fin 256)
  /-- QPEEK (R232). Reads the head item without taking it, and writes a status. -/
  | qpeek (st : Fin 8) (d : Fin 32) (q : Fin 16) (t : Fin 256)
  /-- QGET_C (R233). Holds the head item in place and returns its ring address. -/
  | qgetC (st : Fin 8) (d : Fin 32) (q : Fin 16) (t : Fin 256)
  /-- QGET_P (R233). Reserves a free slot in place and returns its data address. -/
  | qgetP (st : Fin 8) (d : Fin 32) (q : Fin 16) (t : Fin 256)
  /-- QDONE_C (R233). Takes the held item and releases the hold. -/
  | qdoneC (st : Fin 8) (q : Fin 16)
  /-- QDONE_P (R233). Publishes the held slot as an item with release semantics. -/
  | qdoneP (st : Fin 8) (q : Fin 16)
  /-- QPUSH (R235). Checks the type, waits for a free slot and pushes an item into the normal lane. -/
  | qpush (st : Fin 8) (d : Fin 32) (q : Fin 16) (v : Fin 2) (t : Fin 256)
  /-- QPUSHU (R235). Pushes an item into the urgent lane, or into the normal lane when there is no urgent lane. -/
  | qpushu (st : Fin 8) (d : Fin 32) (q : Fin 16) (v : Fin 2) (t : Fin 256)
  /-- QMARK (R236). Pushes a marker with MKID into the normal lane of a queue. -/
  | qmark (st : Fin 8) (g : Fin 32) (q : Fin 16) (a : Fin 64)
  /-- QMARK_A (R236). Delivers a marker directly to an actor that has no inputs. -/
  | qmarkA (st : Fin 8) (g : Fin 32) (a : Fin 64)
  /-- QSTAT (R237). Reads a snapshot of the queue state. -/
  | qstat (st : Fin 8) (d : Fin 32) (q : Fin 16)
  /-- QWIN (R238). Rebinds the flow window of the tile's remote producer port. -/
  | qwin (st : Fin 8) (d : Fin 32) (q : Fin 16) (g : Fin 32)
  /-- QFENCE (R239). Pushes a queue-fence wait entry naming up to 8 queues. -/
  | qfence (st : Fin 8) (v : Fin 32) (q : Fin 16) (n : Fin 8)
  /-- QFENCE_SIG (R239). Pushes a signal-wait entry. -/
  | qfenceSig (st : Fin 8) (v : Fin 32) (q k : Fin 16)
  /-- MSEND (R240). Copies a whole active message into an outbox entry. -/
  | msend (st : Fin 8) (t l : Fin 32) (k : Fin 16)
  /-- MHRET (R59). Ends a handler, restores k15 and frees the inbox entry. -/
  | mhret (st : Fin 8)
  /-- TINIT (R244). Writes a counted task block and returns its handle. -/
  | tinit (st : Fin 8) (d a b : Fin 32) (k : Fin 16)
  /-- TDEC (R245). Sends a decrement message for a counted task, with release semantics. -/
  | tdec (st : Fin 8) (a : Fin 32)
  /-- TSPAWN (R246). Pushes a spawned task record onto a core's deque. -/
  | tspawn (st : Fin 8) (a b : Fin 32) (k : Fin 16)
  /-- TEND (R247). Waits for pending results and any vrep sequence, then ends the firing or task. -/
  | tend (st : Fin 8)
  /-- BAR_ARR (R249). Atomically arrives at a barrier and returns the generation. -/
  | barArr (st : Fin 8) (d a : Fin 32) (k : Fin 16)
  /-- BAR_WT (R249). Waits until the barrier generation passes the given value. -/
  | barWt (st : Fin 8) (d a b : Fin 32) (k : Fin 16)
  /-- SIG_SET (R250). Atomically writes a signal and returns its old value. -/
  | sigSet (st : Fin 8) (d a b : Fin 32) (k : Fin 16)
  /-- SIG_ADD (R250). Atomically adds to a signal and returns its old value. -/
  | sigAdd (st : Fin 8) (d a b : Fin 32) (k : Fin 16)
  /-- SIG_WT (R250). Waits until a signal is at least b. -/
  | sigWt (st : Fin 8) (d a b : Fin 32) (k : Fin 16)
  /-- CP (R260). Issues a copy request to the island copy engine. -/
  | cp (st : Fin 8) (d : Fin 32) (k : Fin 16) (v : Fin 32)
  /-- CPG (R262). Issues a gather request. -/
  | cpg (st : Fin 8) (d : Fin 32) (k : Fin 16) (v : Fin 32)
  /-- CPS (R262). Issues a scatter request. -/
  | cps (st : Fin 8) (d : Fin 32) (k : Fin 16) (v : Fin 32)
  /-- LAY (R265). Issues a layout request. -/
  | lay (st : Fin 8) (d : Fin 32) (k : Fin 16) (v : Fin 32)
  /-- DCMP (R267). Issues a decompression request. -/
  | dcmp (st : Fin 8) (d : Fin 32) (k : Fin 16) (v : Fin 32)
  /-- ENG_ST (R259). Reads a snapshot of an engine queue. -/
  | engSt (st : Fin 8) (d : Fin 32) (e : Fin 4) (j : Fin 8)
  /-- FAB_CALL (R296). Appends a call image with capability slots to a fabric tile's call queue. -/
  | fabCall (st : Fin 8) (d : Fin 32) (k : Fin 16) (v : Fin 32)
  /-- FAB_WAIT (R297). Waits for a call to end and writes its status. -/
  | fabWait (st : Fin 8) (d a : Fin 32)
  /-- GR_LOAD (R310). Appends a grove load to a fabric tile's call queue. -/
  | grLoad (st : Fin 8) (d : Fin 32) (k : Fin 16) (v : Fin 32)
  /-- TRAP (R349). Pushes a trap item to the serving stall's queue and enters a trap wait. -/
  | trap (st : Fin 8) (n : Fin 32)
  /-- TRET (R351). Ends a trap wait, writes g1 of that context and resumes it at pc + 4. -/
  | tret (st : Fin 8) (a b : Fin 32)
  /-- CKPT (R352). When a pre-emption is pending, saves the live state named by the live-range table and stops the context. -/
  | ckpt (st : Fin 8)
  /-- HALT (R353). Stops or resumes a core at its next instruction boundary. -/
  | halt (st : Fin 8) (a : Fin 32)
  /-- FRZ (R354). Requests a freeze of the partition, or thaws every gated clock. -/
  | frz (st : Fin 8) (a : Fin 32)
  /-- SCANRD (R355). Reads 64 bits of a scan chain while the partition is frozen. -/
  | scanrd (st : Fin 8) (d a b : Fin 32)
  /-- GRAFT (R356). Queues a graft request for a fabric tile. -/
  | graft (st : Fin 8) (d a : Fin 32) (b : Fin 16)
  /-- PRUNE (R356). Queues a prune request for a fabric tile. -/
  | prune (st : Fin 8) (d a : Fin 32) (b : Fin 16)
  /-- TLB_INV (R357). Removes translations within a scope and waits until they are dropped. -/
  | tlbInv (st : Fin 8) (a b : Fin 32)
  /-- CAP_MINT (R358). Builds a capability from two dwords, tagged when well formed and within the minting range. -/
  | capMint (st : Fin 8) (d : Fin 16) (a b : Fin 32)
  /-- SGET (R348). Reads a state register by its 12-bit index. -/
  | sget (st : Fin 8) (d : Fin 32) (i : Fin 1024) (h : Fin 4)
  /-- SSET (R348). Writes a state register by its 12-bit index, field by field. -/
  | sset (st : Fin 8) (g : Fin 32) (i : Fin 1024) (h : Fin 4)
  /-- FE_ADD (R283). Element add. -/
  | feAdd (d a b : Fin 8) (c : Fin 4) (i : Fin 4096)
  /-- FE_SUB (R283). Element subtract. -/
  | feSub (d a b : Fin 8) (c : Fin 4) (i : Fin 4096)
  /-- FE_AND (R283). Element AND. -/
  | feAnd (d a b : Fin 8) (c : Fin 4) (i : Fin 4096)
  /-- FE_OR (R283). Element OR. -/
  | feOr (d a b : Fin 8) (c : Fin 4) (i : Fin 4096)
  /-- FE_XOR (R283). Element XOR. -/
  | feXor (d a b : Fin 8) (c : Fin 4) (i : Fin 4096)
  /-- FE_SHL (R283). Element shift left. -/
  | feShl (d a b : Fin 8) (c : Fin 4) (i : Fin 4096)
  /-- FE_SHR (R283). Element logical shift right. -/
  | feShr (d a b : Fin 8) (c : Fin 4) (i : Fin 4096)
  /-- FE_SRA (R283). Element arithmetic shift right. -/
  | feSra (d a b : Fin 8) (c : Fin 4) (i : Fin 4096)
  /-- FE_MUL (R283). Element multiply, returning the low or a high half. -/
  | feMul (d a b : Fin 8) (c : Fin 4) (v : Fin 8) (i : Fin 4096)
  /-- FE_MIN (R283). Element minimum, signed or unsigned. -/
  | feMin (d a b : Fin 8) (c : Fin 4) (v : Fin 8) (i : Fin 4096)
  /-- FE_MAX (R283). Element maximum, signed or unsigned. -/
  | feMax (d a b : Fin 8) (c : Fin 4) (v : Fin 8) (i : Fin 4096)
  /-- FE_CMP (R283). Element compare, sending the result bit also as a control token. -/
  | feCmp (d a b : Fin 8) (c : Fin 4) (v : Fin 8) (i : Fin 4096)
  /-- FE_SEL (R283). Element select on a control token. -/
  | feSel (d a b : Fin 8) (i : Fin 4096)
  /-- FE_FADD (R283). Element floating-point add or subtract. -/
  | feFadd (d a b : Fin 8) (c : Fin 4) (v : Fin 8) (i : Fin 4096)
  /-- FE_FMUL (R283). Element floating-point multiply. -/
  | feFmul (d a b : Fin 8) (c : Fin 4) (i : Fin 4096)
  /-- FE_FMA (R283). Element fused multiply-add. -/
  | feFma (d a b : Fin 8) (c : Fin 4) (v : Fin 8) (i : Fin 4096)
  /-- FE_CVT (R283). Element format conversion. -/
  | feCvt (d a b : Fin 8) (c : Fin 4) (v : Fin 8) (i : Fin 4096)
  /-- FE_STEER (R284). Steers a token by a control token to one of two ports. -/
  | feSteer (d a b : Fin 8) (i : Fin 4096)
  /-- FE_OMRG (R285). Ordered merge driven by control tokens. -/
  | feOmrg (d a b : Fin 8) (i : Fin 4096)
  /-- FE_UMRG (R285). Unordered merge taking whichever head arrived first. -/
  | feUmrg (d a b : Fin 8) (c : Fin 4) (i : Fin 4096)
  /-- FE_KMRG (R286). Merges two ascending key streams. -/
  | feKmrg (d a b : Fin 8) (c : Fin 4) (v : Fin 8) (i : Fin 4096)
  /-- FE_CARRY (R287). Loop-carry element with ENTRY and LOOP states, optionally primed. -/
  | feCarry (d a b v : Fin 8) (i : Fin 4096)
  /-- FE_INV (R287). Loop-invariant element that resends a kept value. -/
  | feInv (d a b : Fin 8) (i : Fin 4096)
  /-- FE_PERMIT (R288). Passes tokens while its count of permits is above 0, and counts returns. -/
  | fePermit (d a b : Fin 8) (c : Fin 4) (i : Fin 4096)
  /-- FE_GEN (R289). Generates an arithmetic sequence on each trigger. -/
  | feGen (d a b : Fin 8) (c : Fin 4) (v : Fin 8) (i : Fin 4096)
  /-- FE_LD (R292). Memory-port load through the call capability. -/
  | feLd (d a b : Fin 8) (c : Fin 4) (v : Fin 8) (i : Fin 4096)
  /-- FE_ST (R292). Memory-port store; sends a after the store is globally performed within the die. -/
  | feSt (d a b : Fin 8) (c : Fin 4) (v : Fin 8) (i : Fin 4096)
  /-- FE_TAS (R292). Memory-port atomic test-and-set of one bit. -/
  | feTas (d a b : Fin 8) (c : Fin 4) (i : Fin 4096)
  /-- FE_ORDT (R292). Passes a token once every earlier access of its port has been performed. -/
  | feOrdt (d a b : Fin 8) (c : Fin 4) (i : Fin 4096)
  /-- FE_ISECT (R286). Intersects two coordinate streams. -/
  | feIsect (d a b : Fin 8) (c : Fin 4) (v : Fin 8) (i : Fin 4096)
  /-- FE_CNT (R290). Keeps a signed count and sends done when a nonzero update brings it to zero. -/
  | feCnt (d a b : Fin 8) (c : Fin 4) (i : Fin 4096)
  /-- FE_XFER (R293). Collects four tokens into a copy request and sends back its status. -/
  | feXfer (d a b : Fin 8) (c : Fin 4) (i : Fin 4096)
  /-- FE_SINK (R291). Consumes tokens and optionally counts data; error tokens are posted as fault records. -/
  | feSink (d a b : Fin 8) (c : Fin 4) (v : Fin 8) (i : Fin 4096)
  /-- FE_NOP (R283). Passes a unchanged; with CTL 3 it branches on a control token. -/
  | feNop (d a b : Fin 8) (c : Fin 4) (i : Fin 4096)
  /-- REPETITION_ISSUE (R202). The sequencer issues the next captured instruction of a repetition, with renamed registers. -/
  | repetitionIssue (core : Fin 4096)
  /-- MU_COMMAND_ACCEPT (R206). A command store drains the store buffer, waits for queue room, is checked and is placed in the MU queue with a sequence number. -/
  | muCommandAccept (core : Fin 4096) (ctx : Fin 4) (cmd : List Dword)
  /-- MMA (R211). MU command: n dense steps of C += A × B on a tile. -/
  | mma (tile : Fin 8) (afmt : Fin 8) (km1 : Fin 4096) (aoff astride : Fin 1048576)
  /-- MMAT (R211). MU command: as MMA with A transposed. -/
  | mmat (tile : Fin 8) (afmt : Fin 8) (km1 : Fin 4096) (aoff astride : Fin 1048576)
  /-- MMAS (R212). MU command: one step per nonzero of a sparse A. -/
  | mmas (tile : Fin 8) (afmt : Fin 8) (nm1 : Fin 4096) (voff coff : Fin 1048576)
  /-- AZERO (R214). MU command: zeroes a tile and clears its OVF. -/
  | azero (tile : Fin 8)
  /-- ALOAD (R214). MU command: loads a tile from the scratchpad. -/
  | aload (tile : Fin 8) (sfmt : Fin 8) (off stride : Fin 1048576)
  /-- ASTORE (R215). MU command: stores a tile converted to DFMT, optionally clearing it and setting full bits. -/
  | astore (tile : Fin 8) (dfmt : Fin 8) (atype clr full : Bool) (off stride : Fin 1048576)
  /-- BSEL (R216). MU command: sets BFMT and BOFF. -/
  | bsel (bfmt : Fin 8) (boff : Fin 131072)
  /-- BFILL (R217). MU command: copies B rows into the core's slab slices. -/
  | bfill (esz : Bool) (km1 : Fin 4096) (soff : Fin 1048576) (doff : Fin 131072)
  /-- TBLSEL (R216). MU command: selects ATBL, BTBL and STBL. -/
  | tblsel (atbl btbl stbl : Fin 4)
  /-- MFENCE (R218). MU command: later commands read only after earlier ones are performed. -/
  | mfence
  /-- MSIG (R219). MU command: writes a status word with DONE, ERR and SEQ when earlier commands are performed, and clears ERR. -/
  | msig (greg : Fin 32)
  /-- MU_COMMAND_PERFORMED (R208). An MU command completes its reads and its writes are globally performed within the module. -/
  | muCommandPerformed (core : Fin 4096)
  /-- ITEM_ACCEPT (R76). The queue manager accepts one item into a lane, writing data and then header. -/
  | itemAccept (q port : Nat)
  /-- ACKNOWLEDGEMENT_ARRIVAL (R75). An acknowledgement reaches a remote producer port and lowers its count u_p. -/
  | acknowledgementArrival (q port : Nat)
  /-- WAIT_ENTRY_HOLDS (R85). A wait entry at a consumer port's head comes to hold, and the port passes it. -/
  | waitEntryHolds (q cons : Nat)
  /-- OUTBOX_SEND (R240). A whole message is injected into the network back to back, and its outbox entry frees. -/
  | outboxSend (core : Fin 4096)
  /-- ACTIVE_MESSAGE_ARRIVAL (R58). A message enters a free inbox entry of the target core. -/
  | activeMessageArrival (core : Fin 4096)
  /-- HANDLER_START (R59). The core starts the oldest inbox handler on a free context, setting g1, g2 and k15. -/
  | handlerStart (core : Fin 4096)
  /-- MESSAGE_PART_TIMEOUT (R241). A partly received message has had no beat for 2^16 cycles: it is discarded and MSGLOST is posted. -/
  | messagePartTimeout (core : Fin 4096)
  /-- BARRIER_TIMEOUT (R249). A bar.wt has waited 2^TOEXP cycles and raises BARRIER_TIMEOUT. -/
  | barrierTimeout (core : Fin 4096) (ctx : Fin 4)
  /-- HOST_SIGNAL_POLL (R250). Re-reads a region 0x10 signal at least every 256 cycles while a sig.wt waits. -/
  | hostSignalPoll (core : Fin 4096) (ctx : Fin 4)
  /-- ENGINE_ENTRY_BEGIN (R256). An engine begins the entry at the head of one of its queues. -/
  | engineEntryBegin (q : Nat)
  /-- GATHER_ROW_RETURN (R263). A gathered row returns and is retired in index order. -/
  | gatherRowReturn (q row : Nat)
  /-- ENGINE_ENTRY_PERFORMED (R130). An engine entry is performed, and its status word is written or a fault record is posted. -/
  | engineEntryPerformed (q : Nat)
  /-- ENGINE_MARKER (R253). A marker at the head of an engine queue is pushed to the destination queues and removed. -/
  | engineMarker (q : Nat)
  /-- FLASH_READ_COMPLETE (R261). The storage stall returns NVMe data for a FLASH read, or stops the entry with STORAGE. -/
  | flashReadComplete (q : Nat) (ok : Bool) (data : List Byte)
  /-- CALL_START (R296). The tile takes the next call from its queue, checks it, arms contexts and injects the operands. -/
  | callStart (f : Fin 65536)
  /-- EXIT_TOKEN (R296). A data, stop or error token reaches EXIT: it is counted, and an error sets ERR and posts a record. -/
  | exitToken (f : Fin 65536)
  /-- CALL_END (R296). A done token reaches EXIT: the call ends and every context is disarmed. -/
  | callEnd (f : Fin 65536)
  /-- SPLICE_COMPLETE (R278). D + 8 cycles after its start, a splice is complete and the successor's slots apply. -/
  | spliceComplete (f : Fin 65536)
  /-- GROVE_LOAD (R311). At the head of the call queue, a grove image is read, checked and committed or refused. -/
  | groveLoad (f : Fin 65536)
  /-- NODE_PAIR_FIRE (R300). A grove node pair fires on its FIFO heads. -/
  | nodePairFire (e : Fin 458752)
  /-- ELEMENT_CONTEXT_SWITCH (R282). An element stalls and switches to the next armed context that can fire. -/
  | elementContextSwitch (e : Fin 458752)
  /-- ELEMENT_MARKER_TAKE (R294). An element takes equal markers from every FIFO source and sends the marker on. -/
  | elementMarkerTake (e : Fin 458752)
  /-- FABRIC_MARKER_EXIT (R294). A marker sent on EXIT posts MARKER and holds the tile until the answer. -/
  | fabricMarkerExit (f : Fin 65536)
  /-- PARKED_TOKEN_WAKE (R134). A wake token replays the token parked on a translation miss at a memory port. -/
  | parkedTokenWake (e : Fin 458752)
  /-- CLOCK_GATE (R354). 16 cycles after a freeze request or a machine check, the partition's clocks are gated and FRZSTAT is recorded. -/
  | clockGate (part : Fin 4)
  /-- GRAFT_STAGE (R356). At the head of the call queue, checks an image's header and block records and stages them into a context. -/
  | graftStage (f : Fin 65536)
  /-- GRAFT_COMMIT (R390). Starts a commit wavefront that installs a staged context. -/
  | graftCommit (f : Fin 65536)
  /-- COMMIT_COMPLETE (R390). D + 8 cycles after its start, a commit is complete and the new ENTRY and EXIT slots apply. -/
  | commitComplete (f : Fin 65536)
  /-- GRAFT_DISCARD (R390). Drops every staged block of a context. -/
  | graftDiscard (f : Fin 65536)
  /-- PRUNE_FOLD (R389). Freezes the region, checks a fold image and moves guest state onto hosts. -/
  | pruneFold (f : Fin 65536)
  /-- PRUNE_UNFOLD (R389). Reverses the tile's last fold. -/
  | pruneUnfold (f : Fin 65536)
  /-- PARITY_REGRAFT (R374). At the next point between calls, regrafts a block with a parity error from its committed image and posts PARITY. -/
  | parityRegraft (f : Fin 65536)
  /-- ACTOR_FIRE (R38). The firing unit fires one ready actor, reserves its items and slots, and pushes a firing record. -/
  | actorFire (quad : Fin 1024)
  /-- DISPATCH (R51). A core dispatches a record to a free context, by preference order. -/
  | dispatch (core : Fin 4096)
  /-- TASK_DECREMENT (R46). The home deque unit applies a decrement, pushing the record at 0 or posting TASKCOUNT. -/
  | taskDecrement (core : Fin 4096)
  /-- PENDING_BUFFER_PUSH (R50). A record in the pending buffer enters the deque when room frees. -/
  | pendingBufferPush (core : Fin 4096)
  /-- STEAL_REQUEST (R52). An idle core sends a steal request to the next victim. -/
  | stealRequest (core : Fin 4096)
  /-- STEAL_REQUEST_ARRIVAL (R53). A victim hands over its top record or refuses. -/
  | stealRequestArrival (core : Fin 4096)
  /-- STEAL_REPLY_ARRIVAL (R53). The thief receives the reply, and a stolen record is dispatched. -/
  | stealReplyArrival (core : Fin 4096)
  /-- STEAL_BACKOFF_END (R54). A steal back-off expires, or is ended by arriving work. -/
  | stealBackoffEnd (core : Fin 4096)
  /-- SCOREBOARD_STALL (R55). A scoreboard wait reaches 8 cycles and becomes a stall event. -/
  | scoreboardStall (core : Fin 4096)
  /-- CONTEXT_SWITCH (R56). At a stall event the core switches round-robin to a ready context. -/
  | contextSwitch (core : Fin 4096)
  /-- WAIT_END (R15). A context's wait condition comes to hold, and the waiting instruction proceeds. -/
  | waitEnd (core : Fin 4096) (ctx : Fin 4)
  /-- VARIABLE_RESULT_WRITE (R145). A pending variable-latency result is written to its register. -/
  | variableResultWrite (core : Fin 4096) (ctx : Fin 4) (n : Nat)
  /-- STORE_PERFORMED (R127). The oldest store in a context's store buffer becomes performed. -/
  | storePerformed (core : Fin 4096) (ctx : Fin 4)
  /-- MARKER_ALIGN (R88). An aligned actor drains, moves the marker to its outputs, posts MARKER and is held. -/
  | markerAlign (quad : Fin 1024) (actor : Fin 64)
  /-- QUIESCE_STUCK (R89). A held marker waits longer than QUIESCETO and QUIESCE_STUCK is posted. -/
  | quiesceStuck (ref : HoldRef)
  /-- PAGE_WALK (R364). A walk for a miss-merging entry completes, installing a translation or pushing a page request. -/
  | pageWalk (island : Fin 256) (vpage job : Nat)
  /-- PGWAKE_WRITE (R366). The paging stall's answer retries or fails every access of the entry. -/
  | pgwakeWrite (island : Fin 256) (x : Dword)
  /-- FAULT_RECORD_PUSH (R372). A fault record that waited for a free slot of a full exception queue is pushed. -/
  | faultRecordPush (core : Fin 4096) (ctx : Fin 4)
  /-- ANSWER_RESUME (R373). A resume answer reissues the faulting instruction, or releases the marker hold. -/
  | answerResume (t : TileRef) (rid : Fin 65536)
  /-- ANSWER_SKIP (R373). A skip answer zeroes the destinations and continues at the next instruction. -/
  | answerSkip (t : TileRef) (rid : Fin 65536)
  /-- ANSWER_ABORT (R373). An abort answer ends the firing or handler, or aborts the marker. -/
  | answerAbort (t : TileRef) (rid : Fin 65536)
  /-- LANDING_WRITE (R116). A remote 128-byte write to a landing register lands and sets VALID, or waits while VALID is set. -/
  | landingWrite (w : Writer) (core : Fin 4096) (ctx : Fin 4) (i : Fin 8) (x : VReg)
  /-- ACC_REMOTE_WRITE (R117). A remote write to an accumulator element lands, or raises WINDOW if a command on that tile is in flight. -/
  | accRemoteWrite (w : Writer) (core : Fin 4096) (tile : Fin 8) (el : Fin 256) (x : Dword)
  /-- TABLE_WINDOW_WRITE (R102). A window write to a decode-table entry takes effect wholly before or after each use. -/
  | tableWindowWrite (w : Writer) (core : Fin 4096) (e : TableEntry) (x : BitVec 32)
  /-- WINDOW_WRITE (R115). A write by another agent to a WINDOW-marked core window offset raises WINDOW. -/
  | windowWrite (w : Writer) (pa : Nat)
  /-- PRIV_WINDOW_WRITE (R341). A stall writes another context's registers through region 0x03, landing only when the context is free, pre-empted or in a trap wait. -/
  | privWindowWrite (w : Writer) (pa : Nat) (x : Dword)
  /-- REGISTER_WRITE (R7). A write to a register with no behaviour of its own, applied per its access types. -/
  | registerWrite (w : Writer) (pa : Nat) (x : Dword)
  /-- QMCMD_MAP (R378). QMCMD MAP loads a queue state block into a slot. -/
  | qmcmdMap (island : Fin 256) (slot : Fin 256) (block : BitVec 44)
  /-- QMCMD_UNMAP (R378). QMCMD UNMAP writes a slot's state into the block and clears V. -/
  | qmcmdUnmap (island : Fin 256) (slot : Fin 256)
  /-- QM_COMMAND_COMPLETE (R377). A queue-manager command completes and BUSY clears; after an UNMAP the role checks NOTE and WAKE. -/
  | qmCommandComplete (island : Fin 256)
  /-- MAP_REQUEST (R379). The queue-slot role maps a queue that is needed, choosing a victim slot when none is free. -/
  | mapRequest (q : Nat)
  /-- NOTIFY_WRITE (R399). A write to a notify word sets its bit in the aggregated vector. -/
  | notifyWrite (part : Fin 4) (q : Fin 65536) (x : Dword)
  /-- NOTIFY_SCAN (R399). The role clears a set vector bit, reads its 64 words and applies the changes. -/
  | notifyScan (part : Fin 4) (n : Fin 1024)
  /-- DEADLOCK (R381). After 10 ms of every queue parked and engines idle, DEADLOCK reports are posted. -/
  | deadlock (part : Fin 4)
  /-- TILECTL_TARGET_PREEMPT (R384). TARGET 1 stops dispatch and contexts stop at checkpoints or at once. -/
  | tilectlTargetPreempt (quad : Fin 1024)
  /-- MU_DRAIN_SAVE (R384). When all four contexts are stopped and the MU has drained, the core saves its MU state and the quad completes its save. -/
  | muDrainSave (core : Fin 4096)
  /-- FORCED_SAVE (R384). 1 ms after TARGET 1, the remaining contexts are stopped and saved whole. -/
  | forcedSave (quad : Fin 1024)
  /-- TILECTL_TARGET_RUN (R388). TARGET 0 restores the save image, and the tile runs again. -/
  | tilectlTargetRun (quad : Fin 1024)
  /-- TILE_RELEASE (R382). Once the tile has no remaining work, its queues are unmapped and its resources freed and zeroed. -/
  | tileRelease (t : TileRef)
  /-- SUBMISSION_DOORBELL (R401). An SQTAIL write makes the host-command role begin the new commands. -/
  | submissionDoorbell (ring : Fin 8) (tail : BitVec 32)
  /-- COMPLETION_DOORBELL (R401). A CQHEAD write frees completion entries. -/
  | completionDoorbell (ring : Fin 8) (head : BitVec 32)
  /-- IDENTIFY (R401). Host command: writes the fuse, partition, arbor, porter and notify maps. -/
  | identify (h : HostHdr) (buf : Dword)
  /-- HEALTH (R422). Host command: writes the health record. -/
  | health (h : HostHdr) (buf : Dword)
  /-- JOBNEW (R401). Host command: creates a job. -/
  | jobnew (h : HostHdr) (part root quota : Dword)
  /-- JOBEND (R401). Host command: releases every tile, queue and mapping of a job. -/
  | jobend (h : HostHdr)
  /-- TILELOAD (R382). Host command: loads a tile program and returns a status. -/
  | tileload (h : HostHdr) (target : LoadTarget)
  /-- TILEREL (R382). Host command: releases a tile. -/
  | tilerel (h : HostHdr) (t : TileRef)
  /-- QNEW (R67). Host command: creates a queue from a descriptor. -/
  | qnew (h : HostHdr) (lo hi : Dword)
  /-- QFREE (R401). Host command: frees a queue with no bound port. -/
  | qfree (h : HostHdr) (q : Dword)
  /-- QBIND (R398). Host command: binds or unbinds a host port of a queue. -/
  | qbind (h : HostHdr) (q arg : Dword)
  /-- COPY (R401). Host command: copies between host memory and device memory. -/
  | copy (h : HostHdr) (src dst len dir : Dword)
  /-- FLASHMAP (R401). Host command: creates a flash mapping for a job. -/
  | flashmap (h : HostHdr) (ns lba len va : Dword)
  /-- STALLCTL (R401). Host command: starts or restarts a stall. -/
  | stallctl (h : HostHdr) (kind op : Dword)
  /-- POWER (R423). Host command: sets the module power limit. -/
  | power (h : HostHdr) (limit : Dword)
  /-- LINKCFG (R404). Host command: configures a peer's ports and aperture. -/
  | linkcfg (h : HostHdr) (peer mask base len : Dword)
  /-- DEBUG (R401). Host command: freezes, thaws or reads a scan chain where DBG permits. -/
  | debug (h : HostHdr) (op a b : Dword)
  /-- RESET (R401). Host command: resets a partition after its completion. -/
  | reset (h : HostHdr) (part : Dword)
  /-- HDM_ACCESS (R396). The host reads or writes HBM through the HDM range, tracked by the snoop filter. -/
  | hdmAccess (op : HdmOp)
  /-- STORAGE_TIMEOUT (R402). A controller unresponsive for 100 ms stops the requesting entry with STORAGE. -/
  | storageTimeout (q : Nat)
  /-- LINK_FLIT_RECEIVE (R403). A flit arrives and its CRC is checked; a failed check requests a replay. -/
  | linkFlitReceive (port : Fin 12) (f : Flit)
  /-- MEMORY_REQUEST (R404). Flit TYPE 1: a peer's memory request, refused outside the aperture. -/
  | memoryRequest (port : Fin 12) (f : Flit)
  /-- MEMORY_RESPONSE (R403). Flit TYPE 2: a response to a memory request. -/
  | memoryResponse (port : Fin 12) (f : Flit)
  /-- QUEUE_ITEM (R404). Flit TYPE 3: a queue item from a peer. -/
  | queueItem (port : Fin 12) (f : Flit)
  /-- ACKNOWLEDGEMENT (R403). Flit TYPE 4: an acknowledgement returning credits. -/
  | acknowledgement (port : Fin 12) (f : Flit)
  /-- ACTIVE_MESSAGE (R403). Flit TYPE 5: an active message. -/
  | activeMessage (port : Fin 12) (f : Flit)
  /-- REDUCTION_BLOCK (R406). Flit TYPE 6: a reduction block pushed to porter core b mod NP. -/
  | reductionBlock (port : Fin 12) (f : Flit)
  /-- CONTROL (R403). Flit TYPE 7: link control. -/
  | control (port : Fin 12) (f : Flit)
  /-- LINKDOWN (R403). Failed replays or 2^16 silent cycles put a port down and post LINKDOWN. -/
  | linkdown (port : Fin 12)
  /-- LINK_RECOVERY (R405). Once a port to the peer is up, the firmware recovers the windows of remote producer ports. -/
  | linkRecovery (q port : Nat)
  /-- STALL_CALL (R408). A stall takes a call item and returns a recorded reply, waits, or acts. -/
  | stallCall (part : Fin 4) (kind : Fin 5)
  /-- STALL_COMMIT (R408). A stall commits a call's reply into its completion record and replies. -/
  | stallCommit (part : Fin 4) (kind : Fin 5) (err : BitVec 8) (r2 r3 : Dword)
  /-- STALL_RESTART (R409). A failed or restarted stall answers its popped calls with RESTART. -/
  | stallRestart (part : Fin 4) (kind : Fin 5)
  /-- FIRMWARE_PROGRAM_LOAD (R344). Irfin verifies and loads a program into an arbor quad. -/
  | firmwareProgramLoad (die : Fin 4) (stage : Stage) (quad : Fin 1024) (obj : TileObject)
  /-- DIE_RESET (R410). A die resets and the boot ROM runs its stages. -/
  | dieReset (die : Fin 4) (cfg : List Stage)
  /-- VERIFY (R415). Security controller command: verifies a manifest's ECDSA and LMS signatures. -/
  | verify (die : Fin 4)
  /-- EXTEND (R415). Security controller command: extends an MREG and logs the measurement. -/
  | extend (die : Fin 4)
  /-- SIGN (R416). Security controller command: advances the HSS counter durably, then signs. -/
  | sign (die : Fin 4)
  /-- READMREG (R415). Security controller command: returns an MREG. -/
  | readmreg (die : Fin 4)
  /-- LMSSTAT (R415). Security controller command: returns the next free HSS index. -/
  | lmsstat (die : Fin 4)
  /-- SC_COMMAND_COMPLETE (R414). A security controller command completes, writing RES, incrementing SEQ and clearing BUSY. -/
  | scCommandComplete (die : Fin 4)
  /-- SCBUF_WRITE (R414). A write to SCBUF while BUSY is set raises WINDOW. -/
  | scbufWrite (w : Writer) (die : Fin 4) (off : Fin 4096) (x : Dword)
  /-- GET_VERSION (R417). SPDM request over DOE. -/
  | getVersion
  /-- GET_CAPABILITIES (R417). SPDM request over DOE. -/
  | getCapabilities
  /-- NEGOTIATE_ALGORITHMS (R417). SPDM request over DOE. -/
  | negotiateAlgorithms (asym hash : BitVec 32)
  /-- GET_DIGESTS (R417). SPDM request over DOE. -/
  | getDigests
  /-- GET_CERTIFICATE (R417). SPDM request over DOE. -/
  | getCertificate (slot : BitVec 8) (off len : BitVec 16)
  /-- CHALLENGE (R418). SPDM request answered with a signed CHALLENGE_AUTH carrying an HSS signature. -/
  | challenge (die : Fin 4) (nonce : List Byte)
  /-- GET_MEASUREMENTS (R418). SPDM request answered with signed MREG measurements. -/
  | getMeasurements (die : Fin 4) (signed : Bool) (index : BitVec 8) (nonce : List Byte)
  /-- PATH_SWEEP (R419). In an idle window, an at-speed sweep of an island's critical paths is run. -/
  | pathSweep (island : Fin 256) (ok : Bool)
  /-- REPLAN (R420). Hourly re-plan: raises supply, lowers margin bins or retires islands. -/
  | replan (die : Fin 4) (short : Fin 64)
  /-- POWER_SAMPLE (R423). Every 100 µs, module power is sampled and island bins are lowered when needed. -/
  | powerSample (watts : Nat) (island : Fin 256)
  /-- BIN_RAISE (R423). No faster than once per millisecond, the power manager raises an island bin by 50 MHz. -/
  | binRaise (island : Fin 256)
  /-- THERMAL_THROTTLE (R424). A junction reaching 105 °C lowers bins and logs an event. -/
  | thermalThrottle (die : Fin 4)
  /-- THERMAL_SHUTDOWN (R424). A junction reaching 115 °C removes the core supply. -/
  | thermalShutdown (die : Fin 4)
  /-- MACHINE_CHECK (R375). An uncorrectable error in critical state freezes the partition and sends MCHECK to role 4. -/
  | machineCheck (island : Fin 256)
  /-- BACK_INVALIDATE_RESPONSE (R396). The host's response to a back-invalidate snoop arrives, merging any modified data, and the device write waiting on it may be performed. -/
  | backInvalidateResponse (line : Nat) (data : Option (List Byte))
  /-- SOFT_ERROR (R374). A bit of protected storage is upset: a single-bit error is corrected and counted, an uncorrectable one poisons its data, and an element-store or node-record parity error marks its block for regraft and a PARITY report. -/
  | softError (hit : SoftHit)
  /-- HOST_PORT_TRAINING (R394). The host PCIe port trains or retrains at some width and rate, and the result is reported in the health record as a link-width event. -/
  | hostPortTraining (width rate : Nat)
  deriving DecidableEq, Repr

end Sys2Proof
end

