-- ==== Sys2Proof/WellFormed.lean ====
section
/-! DEFINITION. Which instructions are well formed: the field values that the spec reserves in an encoding (R9, R141 step 4) and
the port rules of element words (R149, R276). -/
namespace Sys2Proof

/-- The port rules of an element word (R149): K never in DST, and never L together with K. `d`, `a` and `b` are the codes of
Table 6-7: 4 is L, 5 is K. -/
def portsOk (d a b : Fin 8) : Bool :=
  d != 5 && !((d == 4 || a == 4 || b == 4) && (a == 5 || b == 5))

/-- A word whose CTL may be 0, 1 or 2: CTL 3 is for `nop` alone (R280). -/
def ctlOk (c : Fin 4) : Bool := c != 3

/-- Widths in bits of the formats of Table 8-5, codes 0 to 12. -/
def fmtBits (f : Nat) : Nat :=
  match f with
  | 0 | 1 => 8
  | 2 | 3 | 8 | 9 => 16
  | 4 | 5 | 10 | 12 => 32
  | 6 | 7 | 11 => 64
  | _ => 0

/-- R189: codes 13 to 15 are reserved, and P must be less than the ratio of the lane widths, whichever is the wider. -/
def cvtOk (t f : Fin 16) (p : Fin 4) : Bool :=
  t.val ≤ 12 && f.val ≤ 12 &&
    (if fmtBits f.val ≤ fmtBits t.val then p.val * fmtBits f.val < fmtBits t.val
     else p.val * fmtBits t.val < fmtBits f.val)

/-- Widths in bits of FMT in `vdec` and `venc` (R190). -/
def codeFmtBits (f : Fin 4) : Nat := if f.val ≤ 1 then 16 else 32

/-- Lanes of a vector register for a floating-point W (Table 8-1). -/
def fpLanes (w : Fin 4) : Nat := match w.val with | 0 => 64 | 1 => 64 | 2 => 32 | _ => 16

/-- Whether no field of the instruction holds a value that its entry reserves. -/
def Instr.wf : Instr → Bool
  -- R160
  | .sext _ _ _ w | .zext _ _ _ w => w.val ≤ 2
  -- R164
  | .bext _ _ _ p l | .bins _ _ _ p l => p.val + (l.val + 1) ≤ 64
  -- R170
  | .capGet _ _ _ c => c.val ≤ 5
  -- R174
  | .ldBAcq _ _ _ _ _ p | .ldBuAcq _ _ _ _ _ p | .ldHAcq _ _ _ _ _ p | .ldHuAcq _ _ _ _ _ p
  | .ldWAcq _ _ _ _ _ p | .ldWuAcq _ _ _ _ _ p | .ldDAcq _ _ _ _ _ p
  | .stBRel _ _ _ _ _ p | .stHRel _ _ _ _ _ p | .stWRel _ _ _ _ _ p | .stDRel _ _ _ _ _ p => p.val ≤ 6
  -- R180
  | .fence _ f p => f.val ≤ 3 && p.val ≤ 6
  -- R189 to R192
  | .vcvt _ _ _ t f p => cvtOk t f p
  | .vdec _ _ _ _ f p _ | .venc _ _ _ _ f p _ => p.val < codeFmtBits f / 8
  | .vbfly _ _ _ _ w g => 2 ^ g.val < fpLanes w
  -- R198
  | .vred _ _ _ o _ _ => o.val ≤ 10
  -- R199
  | .vmrg _ d _ _ _ _ | .vmrgp _ d _ _ _ _ => d.val % 2 == 0
  -- R201
  | .vrep _ b _ l _ _ => b.val + (l.val + 1) ≤ 32
  -- R255, R259
  | .cp _ _ k _ | .cpg _ _ k _ | .cps _ _ k _ | .lay _ _ k _ | .dcmp _ _ k _ => 1 ≤ k.val && k.val ≤ 14
  | .engSt _ _ e j => e.val ≤ 2 && (e.val == 0 || j.val ≤ 3)
  -- R296, R310
  | .fabCall _ _ k _ => k.val ≤ 12
  | .grLoad _ _ k _ => k.val != 0
  -- Table 19-5
  | .trap _ n => n.val ≤ 15
  -- element words
  | .feAdd d a b c _ | .feSub d a b c _ | .feAnd d a b c _ | .feOr d a b c _ | .feXor d a b c _
  | .feShl d a b c _ | .feShr d a b c _ | .feSra d a b c _ | .feFmul d a b c _ => portsOk d a b && ctlOk c
  | .feMul d a b c v _ => portsOk d a b && ctlOk c && v.val ≤ 2
  | .feMin d a b c v _ | .feMax d a b c v _ | .feFadd d a b c v _ | .feKmrg d a b c v _
  | .feIsect d a b c v _ | .feSink d a b c v _ => portsOk d a b && ctlOk c && v.val ≤ 1
  | .feCmp d a b c v _ => portsOk d a b && ctlOk c && v.val ≤ 5
  | .feFma d a b c v _ => portsOk d a b && ctlOk c && v.val ≤ 1 && !(v.val == 1 && (a == 5 || b == 5))
  | .feCvt d a b c v _ => portsOk d a b && ctlOk c && v.val ≤ 6
  | .feSel d a b _ | .feOmrg d a b _ | .feInv d a b _ => portsOk d a b
  | .feSteer d a b i => portsOk d a b && (i.val % 8 ≤ 3 || i.val % 8 == 7)
  | .feCarry d a b v _ => portsOk d a b && v.val ≤ 1
  | .feUmrg d a b c _ | .fePermit d a b c _ | .feTas d a b c _ | .feOrdt d a b c _ | .feCnt d a b c _
  | .feXfer d a b c _ => portsOk d a b && ctlOk c
  | .feGen d a b c v i =>
      portsOk d a b && ctlOk c && i.val % 32 + 2 ≤ 31 && (v.val / 2 % 2 == 0 || a == 7)
  | .feLd d a b c _ _ => portsOk d a b && ctlOk c
  | .feSt d a b c v _ => portsOk d a b && ctlOk c && v.val ≤ 3
  | .feNop d a b c _ => portsOk d a b && (c != 3 || (d == 7 && a == 7 && b == 7))
  -- a command is eight dwords (R210)
  | .muCommandAccept _ _ cmd => cmd.length == 8
  | _ => true

end Sys2Proof
end

