-- ==== Sys2Proof/Decode.lean ====
section
/-! DEFINITION. Decoding of instruction words (R137 to R141) and of element words (R148 to R150), total on every word and
rejecting by name; after it the encoder, written from the same encoding tables. A word is a number below 2^32 whose bit 0 is
its least significant bit (R4); fields are read with `fld`. -/
namespace Sys2Proof

/-- The field of `w` whose lowest bit is `lo` and whose width is `n` bits (R4). -/
def fld (w lo n : Nat) : Nat := w / 2 ^ lo % 2 ^ n

/-- The same field as an index below `2 ^ n`. -/
def fn (w lo n : Nat) : Fin (2 ^ n) := ⟨fld w lo n, Nat.mod_lt _ (Nat.two_pow_pos n)⟩

/-- Why a word has no instruction (R141); every one of these raises ILLEGAL, except that a privileged MINOR may raise PRIV
first. `cfgFormat` is the refusal of an element word (R149). -/
inductive Reject where
  | allOnes
  | reservedMajor (major : Nat)
  | unassigned (major : Nat)
  | reservedField
  | notWhole
  | cfgFormat
  deriving DecidableEq, Repr

/-- What decoding answers. -/
inductive Decoded where
  | ok (i : Instr)
  | reject (r : Reject)
  deriving DecidableEq, Repr

/-- An instruction whose selectors are assigned, unless a field of it holds a reserved value (R141 step 4). -/
def checked (i : Instr) : Decoded := if i.wf then .ok i else .reject .reservedField

/-- MAJOR 0x00 (Table 6-2). -/
def decodeMajor00 (w : Nat) : Decoded :=
  if fld w 0 8 = 0 then checked (.ill (fn w 29 3) (fn w 18 5) (fn w 13 5) (fn w 8 5)) else
  if fld w 0 8 = 1 then checked (.add (fn w 29 3) (fn w 18 5) (fn w 13 5) (fn w 8 5)) else
  if fld w 0 8 = 2 then checked (.sub (fn w 29 3) (fn w 18 5) (fn w 13 5) (fn w 8 5)) else
  if fld w 0 8 = 3 then checked (.mul (fn w 29 3) (fn w 18 5) (fn w 13 5) (fn w 8 5)) else
  if fld w 0 8 = 4 then checked (.mulh (fn w 29 3) (fn w 18 5) (fn w 13 5) (fn w 8 5)) else
  if fld w 0 8 = 5 then checked (.mulhu (fn w 29 3) (fn w 18 5) (fn w 13 5) (fn w 8 5)) else
  if fld w 0 8 = 6 then checked (.div (fn w 29 3) (fn w 18 5) (fn w 13 5) (fn w 8 5)) else
  if fld w 0 8 = 7 then checked (.divu (fn w 29 3) (fn w 18 5) (fn w 13 5) (fn w 8 5)) else
  if fld w 0 8 = 8 then checked (.rem (fn w 29 3) (fn w 18 5) (fn w 13 5) (fn w 8 5)) else
  if fld w 0 8 = 9 then checked (.remu (fn w 29 3) (fn w 18 5) (fn w 13 5) (fn w 8 5)) else
  if fld w 0 8 = 10 then checked (.and (fn w 29 3) (fn w 18 5) (fn w 13 5) (fn w 8 5)) else
  if fld w 0 8 = 11 then checked (.or (fn w 29 3) (fn w 18 5) (fn w 13 5) (fn w 8 5)) else
  if fld w 0 8 = 12 then checked (.xor (fn w 29 3) (fn w 18 5) (fn w 13 5) (fn w 8 5)) else
  if fld w 0 8 = 13 then checked (.andn (fn w 29 3) (fn w 18 5) (fn w 13 5) (fn w 8 5)) else
  if fld w 0 8 = 14 then checked (.shl (fn w 29 3) (fn w 18 5) (fn w 13 5) (fn w 8 5)) else
  if fld w 0 8 = 15 then checked (.shr (fn w 29 3) (fn w 18 5) (fn w 13 5) (fn w 8 5)) else
  if fld w 0 8 = 16 then checked (.sra (fn w 29 3) (fn w 18 5) (fn w 13 5) (fn w 8 5)) else
  if fld w 0 8 = 17 then checked (.rol (fn w 29 3) (fn w 18 5) (fn w 13 5) (fn w 8 5)) else
  if fld w 0 8 = 18 then checked (.slt (fn w 29 3) (fn w 18 5) (fn w 13 5) (fn w 8 5)) else
  if fld w 0 8 = 19 then checked (.sltu (fn w 29 3) (fn w 18 5) (fn w 13 5) (fn w 8 5)) else
  if fld w 0 8 = 20 then checked (.min (fn w 29 3) (fn w 18 5) (fn w 13 5) (fn w 8 5)) else
  if fld w 0 8 = 21 then checked (.max (fn w 29 3) (fn w 18 5) (fn w 13 5) (fn w 8 5)) else
  if fld w 0 8 = 22 then checked (.minu (fn w 29 3) (fn w 18 5) (fn w 13 5) (fn w 8 5)) else
  if fld w 0 8 = 23 then checked (.maxu (fn w 29 3) (fn w 18 5) (fn w 13 5) (fn w 8 5)) else
  if fld w 0 13 = 24 then checked (.clz (fn w 29 3) (fn w 18 5) (fn w 13 5)) else
  if fld w 0 13 = 25 then checked (.ctz (fn w 29 3) (fn w 18 5) (fn w 13 5)) else
  if fld w 0 13 = 26 then checked (.popc (fn w 29 3) (fn w 18 5) (fn w 13 5)) else
  if fld w 0 13 = 27 then checked (.bswap (fn w 29 3) (fn w 18 5) (fn w 13 5)) else
  if fld w 0 8 = 28 then checked (.sel (fn w 29 3) (fn w 18 5) (fn w 13 5) (fn w 8 5)) else
  if fld w 0 8 = 29 then checked (.sext (fn w 29 3) (fn w 18 5) (fn w 13 5) (fn w 8 5)) else
  if fld w 0 8 = 30 then checked (.zext (fn w 29 3) (fn w 18 5) (fn w 13 5) (fn w 8 5)) else
  .reject (.unassigned 0x00)

/-- MAJOR 0x01 (Table 6-2). -/
def decodeMajor01 (w : Nat) : Decoded :=
  checked (.addi (fn w 29 3) (fn w 18 5) (fn w 13 5) (fn w 0 13))

/-- MAJOR 0x02 (Table 6-2). -/
def decodeMajor02 (w : Nat) : Decoded :=
  checked (.andi (fn w 29 3) (fn w 18 5) (fn w 13 5) (fn w 0 13))

/-- MAJOR 0x03 (Table 6-2). -/
def decodeMajor03 (w : Nat) : Decoded :=
  checked (.ori (fn w 29 3) (fn w 18 5) (fn w 13 5) (fn w 0 13))

/-- MAJOR 0x04 (Table 6-2). -/
def decodeMajor04 (w : Nat) : Decoded :=
  checked (.xori (fn w 29 3) (fn w 18 5) (fn w 13 5) (fn w 0 13))

/-- MAJOR 0x05 (Table 6-2). -/
def decodeMajor05 (w : Nat) : Decoded :=
  if fld w 6 7 = 0 then checked (.shli (fn w 29 3) (fn w 18 5) (fn w 13 5) (fn w 0 6)) else
  .reject (.unassigned 0x05)

/-- MAJOR 0x06 (Table 6-2). -/
def decodeMajor06 (w : Nat) : Decoded :=
  if fld w 6 7 = 0 then checked (.shri (fn w 29 3) (fn w 18 5) (fn w 13 5) (fn w 0 6)) else
  .reject (.unassigned 0x06)

/-- MAJOR 0x07 (Table 6-2). -/
def decodeMajor07 (w : Nat) : Decoded :=
  if fld w 6 7 = 0 then checked (.srai (fn w 29 3) (fn w 18 5) (fn w 13 5) (fn w 0 6)) else
  .reject (.unassigned 0x07)

/-- MAJOR 0x08 (Table 6-2). -/
def decodeMajor08 (w : Nat) : Decoded :=
  checked (.slti (fn w 29 3) (fn w 18 5) (fn w 13 5) (fn w 0 13))

/-- MAJOR 0x09 (Table 6-2). -/
def decodeMajor09 (w : Nat) : Decoded :=
  checked (.sltui (fn w 29 3) (fn w 18 5) (fn w 13 5) (fn w 0 13))

/-- MAJOR 0x0A (Table 6-2). -/
def decodeMajor0A (w : Nat) : Decoded :=
  checked (.lui (fn w 29 3) (fn w 18 5) (fn w 0 18))

/-- MAJOR 0x0B (Table 6-2). -/
def decodeMajor0B (w : Nat) : Decoded :=
  checked (.addpc (fn w 29 3) (fn w 18 5) (fn w 0 18))

/-- MAJOR 0x0C (Table 6-2). -/
def decodeMajor0C (w : Nat) : Decoded :=
  if fld w 12 1 = 0 then checked (.bext (fn w 29 3) (fn w 18 5) (fn w 13 5) (fn w 6 6) (fn w 0 6)) else
  if fld w 12 1 = 1 then checked (.bins (fn w 29 3) (fn w 18 5) (fn w 13 5) (fn w 6 6) (fn w 0 6)) else
  .reject (.unassigned 0x0C)

/-- MAJOR 0x10 (Table 6-2). -/
def decodeMajor10 (w : Nat) : Decoded :=
  if fld w 11 2 = 0 then checked (.beq (fn w 29 3) (fn w 18 5) (fn w 13 5) (fn w 0 11)) else
  if fld w 11 2 = 1 then checked (.bne (fn w 29 3) (fn w 18 5) (fn w 13 5) (fn w 0 11)) else
  if fld w 11 2 = 2 then checked (.blt (fn w 29 3) (fn w 18 5) (fn w 13 5) (fn w 0 11)) else
  if fld w 11 2 = 3 then checked (.bge (fn w 29 3) (fn w 18 5) (fn w 13 5) (fn w 0 11)) else
  .reject (.unassigned 0x10)

/-- MAJOR 0x11 (Table 6-2). -/
def decodeMajor11 (w : Nat) : Decoded :=
  if fld w 11 2 = 0 then checked (.bltu (fn w 29 3) (fn w 18 5) (fn w 13 5) (fn w 0 11)) else
  if fld w 11 2 = 1 then checked (.bgeu (fn w 29 3) (fn w 18 5) (fn w 13 5) (fn w 0 11)) else
  .reject (.unassigned 0x11)

/-- MAJOR 0x12 (Table 6-2). -/
def decodeMajor12 (w : Nat) : Decoded :=
  checked (.jal (fn w 29 3) (fn w 0 23))

/-- MAJOR 0x13 (Table 6-2). -/
def decodeMajor13 (w : Nat) : Decoded :=
  checked (.jalr (fn w 29 3) (fn w 18 5) (fn w 13 5) (fn w 0 13))

/-- MAJOR 0x14 (Table 6-2). -/
def decodeMajor14 (w : Nat) : Decoded :=
  if fld w 0 8 = 1 ∧ fld w 17 1 = 0 ∧ fld w 22 1 = 0 then checked (.capBnd (fn w 29 3) (fn w 18 4) (fn w 13 4) (fn w 8 5)) else
  if fld w 0 8 = 2 ∧ fld w 17 1 = 0 ∧ fld w 22 1 = 0 then checked (.capPrm (fn w 29 3) (fn w 18 4) (fn w 13 4) (fn w 8 5)) else
  if fld w 0 8 = 3 ∧ fld w 17 1 = 0 ∧ fld w 22 1 = 0 then checked (.capSet (fn w 29 3) (fn w 18 4) (fn w 13 4) (fn w 8 5)) else
  if fld w 0 8 = 4 ∧ fld w 17 1 = 0 ∧ fld w 22 1 = 0 then checked (.capAdd (fn w 29 3) (fn w 18 4) (fn w 13 4) (fn w 8 5)) else
  if fld w 0 8 = 5 ∧ fld w 17 1 = 0 then checked (.capGet (fn w 29 3) (fn w 18 5) (fn w 13 4) (fn w 8 5)) else
  .reject (.unassigned 0x14)

/-- MAJOR 0x15 (Table 6-2). -/
def decodeMajor15 (w : Nat) : Decoded :=
  if fld w 17 1 = 0 ∧ fld w 22 1 = 0 then checked (.capAddImm (fn w 29 3) (fn w 18 4) (fn w 13 4) (fn w 0 13)) else
  .reject (.unassigned 0x15)

/-- MAJOR 0x18 (Table 6-2). -/
def decodeMajor18 (w : Nat) : Decoded :=
  if fld w 10 4 = 0 then checked (.ldB (fn w 29 3) (fn w 18 5) (fn w 14 4) (fn w 0 10)) else
  if fld w 0 6 = 0 ∧ fld w 13 1 = 1 then checked (.ldBIdx (fn w 29 3) (fn w 18 5) (fn w 14 4) (fn w 8 5) (fn w 6 2)) else
  if fld w 10 4 = 1 then checked (.ldBu (fn w 29 3) (fn w 18 5) (fn w 14 4) (fn w 0 10)) else
  if fld w 0 6 = 1 ∧ fld w 13 1 = 1 then checked (.ldBuIdx (fn w 29 3) (fn w 18 5) (fn w 14 4) (fn w 8 5) (fn w 6 2)) else
  if fld w 10 4 = 2 then checked (.ldH (fn w 29 3) (fn w 18 5) (fn w 14 4) (fn w 0 10)) else
  if fld w 0 6 = 2 ∧ fld w 13 1 = 1 then checked (.ldHIdx (fn w 29 3) (fn w 18 5) (fn w 14 4) (fn w 8 5) (fn w 6 2)) else
  if fld w 10 4 = 3 then checked (.ldHu (fn w 29 3) (fn w 18 5) (fn w 14 4) (fn w 0 10)) else
  if fld w 0 6 = 3 ∧ fld w 13 1 = 1 then checked (.ldHuIdx (fn w 29 3) (fn w 18 5) (fn w 14 4) (fn w 8 5) (fn w 6 2)) else
  if fld w 10 4 = 4 then checked (.ldW (fn w 29 3) (fn w 18 5) (fn w 14 4) (fn w 0 10)) else
  if fld w 0 6 = 4 ∧ fld w 13 1 = 1 then checked (.ldWIdx (fn w 29 3) (fn w 18 5) (fn w 14 4) (fn w 8 5) (fn w 6 2)) else
  if fld w 10 4 = 5 then checked (.ldWu (fn w 29 3) (fn w 18 5) (fn w 14 4) (fn w 0 10)) else
  if fld w 0 6 = 5 ∧ fld w 13 1 = 1 then checked (.ldWuIdx (fn w 29 3) (fn w 18 5) (fn w 14 4) (fn w 8 5) (fn w 6 2)) else
  if fld w 10 4 = 6 then checked (.ldD (fn w 29 3) (fn w 18 5) (fn w 14 4) (fn w 0 10)) else
  if fld w 0 6 = 6 ∧ fld w 13 1 = 1 then checked (.ldDIdx (fn w 29 3) (fn w 18 5) (fn w 14 4) (fn w 8 5) (fn w 6 2)) else
  if fld w 10 4 = 7 then checked (.ldX (fn w 29 3) (fn w 18 5) (fn w 14 4) (fn w 0 10)) else
  if fld w 0 6 = 7 ∧ fld w 13 1 = 1 then checked (.ldXIdx (fn w 29 3) (fn w 18 5) (fn w 14 4) (fn w 8 5) (fn w 6 2)) else
  .reject (.unassigned 0x18)

/-- MAJOR 0x19 (Table 6-2). -/
def decodeMajor19 (w : Nat) : Decoded :=
  if fld w 10 4 = 0 then checked (.stB (fn w 29 3) (fn w 18 5) (fn w 14 4) (fn w 0 10)) else
  if fld w 0 6 = 0 ∧ fld w 13 1 = 1 then checked (.stBIdx (fn w 29 3) (fn w 18 5) (fn w 14 4) (fn w 8 5) (fn w 6 2)) else
  if fld w 10 4 = 1 then checked (.stH (fn w 29 3) (fn w 18 5) (fn w 14 4) (fn w 0 10)) else
  if fld w 0 6 = 1 ∧ fld w 13 1 = 1 then checked (.stHIdx (fn w 29 3) (fn w 18 5) (fn w 14 4) (fn w 8 5) (fn w 6 2)) else
  if fld w 10 4 = 2 then checked (.stW (fn w 29 3) (fn w 18 5) (fn w 14 4) (fn w 0 10)) else
  if fld w 0 6 = 2 ∧ fld w 13 1 = 1 then checked (.stWIdx (fn w 29 3) (fn w 18 5) (fn w 14 4) (fn w 8 5) (fn w 6 2)) else
  if fld w 10 4 = 3 then checked (.stD (fn w 29 3) (fn w 18 5) (fn w 14 4) (fn w 0 10)) else
  if fld w 0 6 = 3 ∧ fld w 13 1 = 1 then checked (.stDIdx (fn w 29 3) (fn w 18 5) (fn w 14 4) (fn w 8 5) (fn w 6 2)) else
  if fld w 10 4 = 4 then checked (.stX (fn w 29 3) (fn w 18 5) (fn w 14 4) (fn w 0 10)) else
  if fld w 0 6 = 4 ∧ fld w 13 1 = 1 then checked (.stXIdx (fn w 29 3) (fn w 18 5) (fn w 14 4) (fn w 8 5) (fn w 6 2)) else
  .reject (.unassigned 0x19)

/-- MAJOR 0x1A (Table 6-2). -/
def decodeMajor1A (w : Nat) : Decoded :=
  if fld w 0 3 = 0 ∧ fld w 13 1 = 1 then checked (.ldBAcq (fn w 29 3) (fn w 18 5) (fn w 14 4) (fn w 8 5) (fn w 6 2) (fn w 3 3)) else
  if fld w 0 3 = 1 ∧ fld w 13 1 = 1 then checked (.ldBuAcq (fn w 29 3) (fn w 18 5) (fn w 14 4) (fn w 8 5) (fn w 6 2) (fn w 3 3)) else
  if fld w 0 3 = 2 ∧ fld w 13 1 = 1 then checked (.ldHAcq (fn w 29 3) (fn w 18 5) (fn w 14 4) (fn w 8 5) (fn w 6 2) (fn w 3 3)) else
  if fld w 0 3 = 3 ∧ fld w 13 1 = 1 then checked (.ldHuAcq (fn w 29 3) (fn w 18 5) (fn w 14 4) (fn w 8 5) (fn w 6 2) (fn w 3 3)) else
  if fld w 0 3 = 4 ∧ fld w 13 1 = 1 then checked (.ldWAcq (fn w 29 3) (fn w 18 5) (fn w 14 4) (fn w 8 5) (fn w 6 2) (fn w 3 3)) else
  if fld w 0 3 = 5 ∧ fld w 13 1 = 1 then checked (.ldWuAcq (fn w 29 3) (fn w 18 5) (fn w 14 4) (fn w 8 5) (fn w 6 2) (fn w 3 3)) else
  if fld w 0 3 = 6 ∧ fld w 13 1 = 1 then checked (.ldDAcq (fn w 29 3) (fn w 18 5) (fn w 14 4) (fn w 8 5) (fn w 6 2) (fn w 3 3)) else
  .reject (.unassigned 0x1A)

/-- MAJOR 0x1B (Table 6-2). -/
def decodeMajor1B (w : Nat) : Decoded :=
  if fld w 0 3 = 0 ∧ fld w 13 1 = 1 then checked (.stBRel (fn w 29 3) (fn w 18 5) (fn w 14 4) (fn w 8 5) (fn w 6 2) (fn w 3 3)) else
  if fld w 0 3 = 1 ∧ fld w 13 1 = 1 then checked (.stHRel (fn w 29 3) (fn w 18 5) (fn w 14 4) (fn w 8 5) (fn w 6 2) (fn w 3 3)) else
  if fld w 0 3 = 2 ∧ fld w 13 1 = 1 then checked (.stWRel (fn w 29 3) (fn w 18 5) (fn w 14 4) (fn w 8 5) (fn w 6 2) (fn w 3 3)) else
  if fld w 0 3 = 3 ∧ fld w 13 1 = 1 then checked (.stDRel (fn w 29 3) (fn w 18 5) (fn w 14 4) (fn w 8 5) (fn w 6 2) (fn w 3 3)) else
  .reject (.unassigned 0x1B)

/-- MAJOR 0x1C (Table 6-2). -/
def decodeMajor1C (w : Nat) : Decoded :=
  if fld w 10 4 = 0 then checked (.ldFe (fn w 29 3) (fn w 18 5) (fn w 14 4) (fn w 0 10)) else
  if fld w 0 6 = 0 ∧ fld w 13 1 = 1 then checked (.ldFeIdx (fn w 29 3) (fn w 18 5) (fn w 14 4) (fn w 8 5) (fn w 6 2)) else
  if fld w 10 4 = 1 then checked (.stFe (fn w 29 3) (fn w 18 5) (fn w 14 4) (fn w 0 10)) else
  if fld w 0 6 = 1 ∧ fld w 13 1 = 1 then checked (.stFeIdx (fn w 29 3) (fn w 18 5) (fn w 14 4) (fn w 8 5) (fn w 6 2)) else
  if fld w 10 4 = 2 ∧ fld w 22 1 = 0 then checked (.ldCap (fn w 29 3) (fn w 18 4) (fn w 14 4) (fn w 0 10)) else
  if fld w 0 6 = 2 ∧ fld w 13 1 = 1 ∧ fld w 22 1 = 0 then checked (.ldCapIdx (fn w 29 3) (fn w 18 4) (fn w 14 4) (fn w 8 5) (fn w 6 2)) else
  if fld w 10 4 = 3 ∧ fld w 22 1 = 0 then checked (.stCap (fn w 29 3) (fn w 18 4) (fn w 14 4) (fn w 0 10)) else
  if fld w 0 6 = 3 ∧ fld w 13 1 = 1 ∧ fld w 22 1 = 0 then checked (.stCapIdx (fn w 29 3) (fn w 18 4) (fn w 14 4) (fn w 8 5) (fn w 6 2)) else
  .reject (.unassigned 0x1C)

/-- MAJOR 0x1D (Table 6-2). -/
def decodeMajor1D (w : Nat) : Decoded :=
  if fld w 0 4 = 0 then checked (.amoAdd (fn w 29 3) (fn w 18 5) (fn w 13 5) (fn w 8 5) (fn w 4 4)) else
  if fld w 0 4 = 1 then checked (.amoAnd (fn w 29 3) (fn w 18 5) (fn w 13 5) (fn w 8 5) (fn w 4 4)) else
  if fld w 0 4 = 2 then checked (.amoOr (fn w 29 3) (fn w 18 5) (fn w 13 5) (fn w 8 5) (fn w 4 4)) else
  if fld w 0 4 = 3 then checked (.amoXor (fn w 29 3) (fn w 18 5) (fn w 13 5) (fn w 8 5) (fn w 4 4)) else
  if fld w 0 4 = 4 then checked (.amoMin (fn w 29 3) (fn w 18 5) (fn w 13 5) (fn w 8 5) (fn w 4 4)) else
  if fld w 0 4 = 5 then checked (.amoMax (fn w 29 3) (fn w 18 5) (fn w 13 5) (fn w 8 5) (fn w 4 4)) else
  if fld w 0 4 = 6 then checked (.amoMinu (fn w 29 3) (fn w 18 5) (fn w 13 5) (fn w 8 5) (fn w 4 4)) else
  if fld w 0 4 = 7 then checked (.amoMaxu (fn w 29 3) (fn w 18 5) (fn w 13 5) (fn w 8 5) (fn w 4 4)) else
  if fld w 0 4 = 8 then checked (.amoSwap (fn w 29 3) (fn w 18 5) (fn w 13 5) (fn w 8 5) (fn w 4 4)) else
  if fld w 0 4 = 9 then checked (.amoCas (fn w 29 3) (fn w 18 5) (fn w 13 5) (fn w 8 5) (fn w 4 4)) else
  if fld w 0 4 = 10 then checked (.amoTas (fn w 29 3) (fn w 18 5) (fn w 13 5) (fn w 8 5) (fn w 4 4)) else
  .reject (.unassigned 0x1D)

/-- MAJOR 0x1E (Table 6-2). -/
def decodeMajor1E (w : Nat) : Decoded :=
  if fld w 10 4 = 0 ∧ fld w 18 5 = 0 then checked (.pf (fn w 29 3) (fn w 14 4) (fn w 0 10)) else
  if fld w 0 6 = 0 ∧ fld w 13 1 = 1 ∧ fld w 18 5 = 0 then checked (.pfIdx (fn w 29 3) (fn w 14 4) (fn w 8 5) (fn w 6 2)) else
  if fld w 0 3 = 7 ∧ fld w 6 12 = 128 ∧ fld w 21 2 = 0 then checked (.fence (fn w 29 3) (fn w 18 3) (fn w 3 3)) else
  .reject (.unassigned 0x1E)

/-- MAJOR 0x20 (Table 6-2). -/
def decodeMajor20 (w : Nat) : Decoded :=
  if fld w 0 3 = 0 then checked (.vadd (fn w 29 3) (fn w 18 5) (fn w 13 5) (fn w 8 5) (fn w 6 2) (fn w 3 3)) else
  if fld w 0 3 = 1 then checked (.vsub (fn w 29 3) (fn w 18 5) (fn w 13 5) (fn w 8 5) (fn w 6 2) (fn w 3 3)) else
  if fld w 0 3 = 2 then checked (.vmul (fn w 29 3) (fn w 18 5) (fn w 13 5) (fn w 8 5) (fn w 6 2) (fn w 3 3)) else
  if fld w 0 3 = 3 then checked (.vmulh (fn w 29 3) (fn w 18 5) (fn w 13 5) (fn w 8 5) (fn w 6 2) (fn w 3 3)) else
  if fld w 0 3 = 4 then checked (.vadds (fn w 29 3) (fn w 18 5) (fn w 13 5) (fn w 8 5) (fn w 6 2) (fn w 3 3)) else
  if fld w 0 3 = 5 then checked (.vsubs (fn w 29 3) (fn w 18 5) (fn w 13 5) (fn w 8 5) (fn w 6 2) (fn w 3 3)) else
  if fld w 0 3 = 6 then checked (.vmin (fn w 29 3) (fn w 18 5) (fn w 13 5) (fn w 8 5) (fn w 6 2) (fn w 3 3)) else
  if fld w 0 3 = 7 then checked (.vmax (fn w 29 3) (fn w 18 5) (fn w 13 5) (fn w 8 5) (fn w 6 2) (fn w 3 3)) else
  .reject (.unassigned 0x20)

/-- MAJOR 0x21 (Table 6-2). -/
def decodeMajor21 (w : Nat) : Decoded :=
  if fld w 0 3 = 0 then checked (.vminu (fn w 29 3) (fn w 18 5) (fn w 13 5) (fn w 8 5) (fn w 6 2) (fn w 3 3)) else
  if fld w 0 3 = 1 then checked (.vmaxu (fn w 29 3) (fn w 18 5) (fn w 13 5) (fn w 8 5) (fn w 6 2) (fn w 3 3)) else
  if fld w 0 3 = 2 ∧ fld w 8 5 = 0 then checked (.vabs (fn w 29 3) (fn w 18 5) (fn w 13 5) (fn w 6 2) (fn w 3 3)) else
  if fld w 0 3 = 3 then checked (.vand (fn w 29 3) (fn w 18 5) (fn w 13 5) (fn w 8 5) (fn w 6 2) (fn w 3 3)) else
  if fld w 0 3 = 4 then checked (.vor (fn w 29 3) (fn w 18 5) (fn w 13 5) (fn w 8 5) (fn w 6 2) (fn w 3 3)) else
  if fld w 0 3 = 5 then checked (.vxor (fn w 29 3) (fn w 18 5) (fn w 13 5) (fn w 8 5) (fn w 6 2) (fn w 3 3)) else
  if fld w 0 3 = 6 then checked (.vshl (fn w 29 3) (fn w 18 5) (fn w 13 5) (fn w 8 5) (fn w 6 2) (fn w 3 3)) else
  if fld w 0 3 = 7 then checked (.vshr (fn w 29 3) (fn w 18 5) (fn w 13 5) (fn w 8 5) (fn w 6 2) (fn w 3 3)) else
  .reject (.unassigned 0x21)

/-- MAJOR 0x22 (Table 6-2). -/
def decodeMajor22 (w : Nat) : Decoded :=
  if fld w 0 3 = 0 then checked (.vsra (fn w 29 3) (fn w 18 5) (fn w 13 5) (fn w 8 5) (fn w 6 2) (fn w 3 3)) else
  if fld w 0 3 = 1 ∧ fld w 8 5 = 0 then checked (.vclz (fn w 29 3) (fn w 18 5) (fn w 13 5) (fn w 6 2) (fn w 3 3)) else
  if fld w 0 3 = 2 ∧ fld w 8 5 = 0 then checked (.vpopc (fn w 29 3) (fn w 18 5) (fn w 13 5) (fn w 6 2) (fn w 3 3)) else
  if fld w 0 3 = 3 then checked (.vcmp (fn w 29 3) (fn w 21 2) (fn w 18 3) (fn w 13 5) (fn w 8 5) (fn w 6 2) (fn w 3 3)) else
  if fld w 0 3 = 4 ∧ fld w 22 1 = 1 then checked (.vcmpUnsigned (fn w 29 3) (fn w 21 1) (fn w 18 3) (fn w 13 5) (fn w 8 5) (fn w 6 2) (fn w 3 3)) else
  if fld w 0 3 = 5 then checked (.vsel (fn w 29 3) (fn w 18 5) (fn w 13 5) (fn w 8 5) (fn w 6 2) (fn w 3 3)) else
  .reject (.unassigned 0x22)

/-- MAJOR 0x23 (Table 6-2). -/
def decodeMajor23 (w : Nat) : Decoded :=
  if fld w 0 3 = 0 then checked (.vfadd (fn w 29 3) (fn w 18 5) (fn w 13 5) (fn w 8 5) (fn w 6 2) (fn w 3 3)) else
  if fld w 0 3 = 1 then checked (.vfsub (fn w 29 3) (fn w 18 5) (fn w 13 5) (fn w 8 5) (fn w 6 2) (fn w 3 3)) else
  if fld w 0 3 = 2 then checked (.vfmul (fn w 29 3) (fn w 18 5) (fn w 13 5) (fn w 8 5) (fn w 6 2) (fn w 3 3)) else
  if fld w 0 3 = 3 then checked (.vfma (fn w 29 3) (fn w 18 5) (fn w 13 5) (fn w 8 5) (fn w 6 2) (fn w 3 3)) else
  if fld w 0 3 = 4 then checked (.vfms (fn w 29 3) (fn w 18 5) (fn w 13 5) (fn w 8 5) (fn w 6 2) (fn w 3 3)) else
  if fld w 0 3 = 5 then checked (.vfmin (fn w 29 3) (fn w 18 5) (fn w 13 5) (fn w 8 5) (fn w 6 2) (fn w 3 3)) else
  if fld w 0 3 = 6 then checked (.vfmax (fn w 29 3) (fn w 18 5) (fn w 13 5) (fn w 8 5) (fn w 6 2) (fn w 3 3)) else
  if fld w 0 3 = 7 then checked (.vfcmp (fn w 29 3) (fn w 21 2) (fn w 18 3) (fn w 13 5) (fn w 8 5) (fn w 6 2) (fn w 3 3)) else
  .reject (.unassigned 0x23)

/-- MAJOR 0x24 (Table 6-2). -/
def decodeMajor24 (w : Nat) : Decoded :=
  if fld w 0 3 = 0 ∧ fld w 8 5 = 0 then checked (.vfabs (fn w 29 3) (fn w 18 5) (fn w 13 5) (fn w 6 2) (fn w 3 3)) else
  if fld w 0 3 = 1 ∧ fld w 8 5 = 0 then checked (.vfneg (fn w 29 3) (fn w 18 5) (fn w 13 5) (fn w 6 2) (fn w 3 3)) else
  if fld w 0 3 = 2 ∧ fld w 8 5 = 0 then checked (.vfrcpe (fn w 29 3) (fn w 18 5) (fn w 13 5) (fn w 6 2) (fn w 3 3)) else
  if fld w 0 3 = 3 ∧ fld w 8 5 = 0 then checked (.vfrsqe (fn w 29 3) (fn w 18 5) (fn w 13 5) (fn w 6 2) (fn w 3 3)) else
  .reject (.unassigned 0x24)

/-- MAJOR 0x26 (Table 6-2). -/
def decodeMajor26 (w : Nat) : Decoded :=
  if fld w 0 3 = 0 then checked (.vcvt (fn w 29 3) (fn w 18 5) (fn w 13 5) (fn w 9 4) (fn w 5 4) (fn w 3 2)) else
  if fld w 0 3 = 1 ∧ fld w 6 1 = 0 then checked (.vdec (fn w 29 3) (fn w 18 5) (fn w 13 5) (fn w 11 2) (fn w 9 2) (fn w 7 2) (fn w 3 3)) else
  if fld w 0 3 = 2 ∧ fld w 6 1 = 0 then checked (.venc (fn w 29 3) (fn w 18 5) (fn w 13 5) (fn w 11 2) (fn w 9 2) (fn w 7 2) (fn w 3 3)) else
  if fld w 0 6 = 3 then checked (.vbaq (fn w 29 3) (fn w 18 5) (fn w 13 5) (fn w 8 5) (fn w 6 2)) else
  if fld w 0 3 = 4 then checked (.vbfly (fn w 29 3) (fn w 18 5) (fn w 13 5) (fn w 8 5) (fn w 6 2) (fn w 3 3)) else
  .reject (.unassigned 0x26)

/-- MAJOR 0x27 (Table 6-2). -/
def decodeMajor27 (w : Nat) : Decoded :=
  if fld w 10 4 = 0 then checked (.vld (fn w 29 3) (fn w 18 5) (fn w 14 4) (fn w 0 10)) else
  if fld w 0 3 = 0 ∧ fld w 13 1 = 1 then checked (.vldIdx (fn w 29 3) (fn w 18 5) (fn w 14 4) (fn w 8 5) (fn w 6 2) (fn w 3 3)) else
  if fld w 10 4 = 1 then checked (.vst (fn w 29 3) (fn w 18 5) (fn w 14 4) (fn w 0 10)) else
  if fld w 0 3 = 1 ∧ fld w 13 1 = 1 then checked (.vstIdx (fn w 29 3) (fn w 18 5) (fn w 14 4) (fn w 8 5) (fn w 6 2) (fn w 3 3)) else
  .reject (.unassigned 0x27)

/-- MAJOR 0x28 (Table 6-2). -/
def decodeMajor28 (w : Nat) : Decoded :=
  if fld w 0 3 = 0 ∧ fld w 13 1 = 1 then checked (.vlds (fn w 29 3) (fn w 18 5) (fn w 14 4) (fn w 8 5) (fn w 6 2) (fn w 3 3)) else
  if fld w 0 3 = 1 ∧ fld w 13 1 = 1 then checked (.vsts (fn w 29 3) (fn w 18 5) (fn w 14 4) (fn w 8 5) (fn w 6 2) (fn w 3 3)) else
  .reject (.unassigned 0x28)

/-- MAJOR 0x29 (Table 6-2). -/
def decodeMajor29 (w : Nat) : Decoded :=
  if fld w 0 3 = 0 ∧ fld w 13 1 = 1 then checked (.vgath (fn w 29 3) (fn w 18 5) (fn w 14 4) (fn w 8 5) (fn w 6 2) (fn w 3 3)) else
  if fld w 0 3 = 1 ∧ fld w 13 1 = 1 then checked (.vscat (fn w 29 3) (fn w 18 5) (fn w 14 4) (fn w 8 5) (fn w 6 2) (fn w 3 3)) else
  .reject (.unassigned 0x29)

/-- MAJOR 0x2A (Table 6-2). -/
def decodeMajor2A (w : Nat) : Decoded :=
  if fld w 0 3 = 0 ∧ fld w 8 5 = 0 then checked (.vbcast (fn w 29 3) (fn w 18 5) (fn w 13 5) (fn w 6 2) (fn w 3 3)) else
  if fld w 0 3 = 1 then checked (.vperm (fn w 29 3) (fn w 18 5) (fn w 13 5) (fn w 8 5) (fn w 6 2) (fn w 3 3)) else
  if fld w 0 3 = 2 then checked (.vslide (fn w 29 3) (fn w 18 5) (fn w 13 5) (fn w 8 5) (fn w 6 2) (fn w 3 3)) else
  if fld w 0 3 = 3 ∧ fld w 8 5 = 0 then checked (.vcomp (fn w 29 3) (fn w 18 5) (fn w 13 5) (fn w 6 2) (fn w 3 3)) else
  if fld w 0 3 = 4 ∧ fld w 8 5 = 0 then checked (.vexpd (fn w 29 3) (fn w 18 5) (fn w 13 5) (fn w 6 2) (fn w 3 3)) else
  .reject (.unassigned 0x2A)

/-- MAJOR 0x2B (Table 6-2). -/
def decodeMajor2B (w : Nat) : Decoded :=
  if fld w 0 3 = 0 then checked (.vred (fn w 29 3) (fn w 18 5) (fn w 13 5) (fn w 8 5) (fn w 6 2) (fn w 3 3)) else
  .reject (.unassigned 0x2B)

/-- MAJOR 0x2C (Table 6-2). -/
def decodeMajor2C (w : Nat) : Decoded :=
  if fld w 0 3 = 0 ∧ fld w 4 2 = 0 then checked (.vmrg (fn w 29 3) (fn w 18 5) (fn w 13 5) (fn w 8 5) (fn w 6 2) (fn w 3 1)) else
  if fld w 0 3 = 1 ∧ fld w 4 2 = 0 then checked (.vmrgp (fn w 29 3) (fn w 18 5) (fn w 13 5) (fn w 8 5) (fn w 6 2) (fn w 3 1)) else
  if fld w 0 3 = 2 ∧ fld w 5 1 = 0 ∧ fld w 8 5 = 0 then checked (.vsrt (fn w 29 3) (fn w 18 5) (fn w 13 5) (fn w 6 2) (fn w 4 1) (fn w 3 1)) else
  .reject (.unassigned 0x2C)

/-- MAJOR 0x2D (Table 6-2). -/
def decodeMajor2D (w : Nat) : Decoded :=
  if fld w 0 8 = 0 ∧ fld w 11 2 = 0 ∧ fld w 16 2 = 0 ∧ fld w 21 2 = 0 then checked (.mand (fn w 29 3) (fn w 18 3) (fn w 13 3) (fn w 8 3)) else
  if fld w 0 8 = 1 ∧ fld w 11 2 = 0 ∧ fld w 16 2 = 0 ∧ fld w 21 2 = 0 then checked (.mor (fn w 29 3) (fn w 18 3) (fn w 13 3) (fn w 8 3)) else
  if fld w 0 8 = 2 ∧ fld w 11 2 = 0 ∧ fld w 16 2 = 0 ∧ fld w 21 2 = 0 then checked (.mxor (fn w 29 3) (fn w 18 3) (fn w 13 3) (fn w 8 3)) else
  if fld w 0 13 = 3 ∧ fld w 16 2 = 0 ∧ fld w 21 2 = 0 then checked (.mnot (fn w 29 3) (fn w 18 3) (fn w 13 3)) else
  if fld w 0 6 = 4 ∧ fld w 8 5 = 0 ∧ fld w 16 2 = 0 then checked (.mpop (fn w 29 3) (fn w 18 5) (fn w 13 3) (fn w 6 2)) else
  if fld w 0 6 = 5 ∧ fld w 8 5 = 0 ∧ fld w 16 2 = 0 then checked (.mfirst (fn w 29 3) (fn w 18 5) (fn w 13 3) (fn w 6 2)) else
  .reject (.unassigned 0x2D)

/-- MAJOR 0x2E (Table 6-2). -/
def decodeMajor2E (w : Nat) : Decoded :=
  checked (.vrep (fn w 29 3) (fn w 18 5) (fn w 13 5) (fn w 8 5) (fn w 4 4) (fn w 0 4))

/-- MAJOR 0x30 (Table 6-2). -/
def decodeMajor30 (w : Nat) : Decoded :=
  if fld w 12 2 = 0 ∧ fld w 18 5 = 0 then checked (.mtbl (fn w 29 3) (fn w 14 4) (fn w 10 2) (fn w 0 10)) else
  if fld w 2 4 = 0 ∧ fld w 13 1 = 1 ∧ fld w 18 5 = 0 then checked (.mtblIdx (fn w 29 3) (fn w 14 4) (fn w 8 5) (fn w 6 2) (fn w 0 2)) else
  .reject (.unassigned 0x30)

/-- MAJOR 0x31 (Table 6-2). -/
def decodeMajor31 (w : Nat) : Decoded :=
  if fld w 0 13 = 0 then checked (.mrdAcc (fn w 29 3) (fn w 18 5) (fn w 13 5)) else
  if fld w 0 13 = 64 then checked (.mrdTbl (fn w 29 3) (fn w 18 5) (fn w 13 5)) else
  if fld w 0 18 = 128 then checked (.mrdStat (fn w 29 3) (fn w 18 5)) else
  .reject (.unassigned 0x31)

/-- MAJOR 0x32 (Table 6-2). -/
def decodeMajor32 (w : Nat) : Decoded :=
  if fld w 0 8 = 0 ∧ fld w 18 5 = 0 then checked (.mwrAcc (fn w 29 3) (fn w 13 5) (fn w 8 5)) else
  if fld w 0 8 = 64 ∧ fld w 18 5 = 0 then checked (.mwrTbl (fn w 29 3) (fn w 13 5) (fn w 8 5)) else
  if fld w 0 8 = 128 ∧ fld w 13 10 = 0 then checked (.mwrOvf (fn w 29 3) (fn w 8 5)) else
  .reject (.unassigned 0x32)

/-- MAJOR 0x33 (Table 6-2). -/
def decodeMajor33 (w : Nat) : Decoded :=
  if fld w 0 4 = 0 then checked (.mseq (fn w 29 3) (fn w 18 5) (fn w 13 5) (fn w 8 5) (fn w 4 4)) else
  .reject (.unassigned 0x33)

/-- MAJOR 0x34 (Table 6-2). -/
def decodeMajor34 (w : Nat) : Decoded :=
  if fld w 8 1 = 0 ∧ fld w 10 4 = 0 then checked (.qpop (fn w 29 3) (fn w 18 5) (fn w 14 4) (fn w 9 1) (fn w 0 8)) else
  if fld w 8 6 = 4 then checked (.qtry (fn w 29 3) (fn w 18 5) (fn w 14 4) (fn w 0 8)) else
  if fld w 8 6 = 8 then checked (.qpeek (fn w 29 3) (fn w 18 5) (fn w 14 4) (fn w 0 8)) else
  if fld w 8 6 = 12 then checked (.qgetC (fn w 29 3) (fn w 18 5) (fn w 14 4) (fn w 0 8)) else
  if fld w 8 6 = 14 then checked (.qgetP (fn w 29 3) (fn w 18 5) (fn w 14 4) (fn w 0 8)) else
  if fld w 0 14 = 4096 ∧ fld w 18 5 = 0 then checked (.qdoneC (fn w 29 3) (fn w 14 4)) else
  if fld w 0 14 = 4608 ∧ fld w 18 5 = 0 then checked (.qdoneP (fn w 29 3) (fn w 14 4)) else
  .reject (.unassigned 0x34)

/-- MAJOR 0x35 (Table 6-2). -/
def decodeMajor35 (w : Nat) : Decoded :=
  if fld w 8 1 = 0 ∧ fld w 10 4 = 0 then checked (.qpush (fn w 29 3) (fn w 18 5) (fn w 14 4) (fn w 9 1) (fn w 0 8)) else
  if fld w 8 1 = 0 ∧ fld w 10 4 = 1 then checked (.qpushu (fn w 29 3) (fn w 18 5) (fn w 14 4) (fn w 9 1) (fn w 0 8)) else
  if fld w 6 8 = 32 then checked (.qmark (fn w 29 3) (fn w 18 5) (fn w 14 4) (fn w 0 6)) else
  if fld w 6 12 = 40 then checked (.qmarkA (fn w 29 3) (fn w 18 5) (fn w 0 6)) else
  .reject (.unassigned 0x35)

/-- MAJOR 0x36 (Table 6-2). -/
def decodeMajor36 (w : Nat) : Decoded :=
  if fld w 0 14 = 0 then checked (.qstat (fn w 29 3) (fn w 18 5) (fn w 14 4)) else
  if fld w 0 5 = 0 ∧ fld w 10 4 = 1 then checked (.qwin (fn w 29 3) (fn w 18 5) (fn w 14 4) (fn w 5 5)) else
  .reject (.unassigned 0x36)

/-- MAJOR 0x37 (Table 6-2). -/
def decodeMajor37 (w : Nat) : Decoded :=
  if fld w 3 11 = 0 then checked (.qfence (fn w 29 3) (fn w 18 5) (fn w 14 4) (fn w 0 3)) else
  if fld w 0 3 = 0 ∧ fld w 7 7 = 4 then checked (.qfenceSig (fn w 29 3) (fn w 18 5) (fn w 14 4) (fn w 3 4)) else
  .reject (.unassigned 0x37)

/-- MAJOR 0x38 (Table 6-2). -/
def decodeMajor38 (w : Nat) : Decoded :=
  if fld w 0 4 = 0 ∧ fld w 8 5 = 0 then checked (.msend (fn w 29 3) (fn w 18 5) (fn w 13 5) (fn w 4 4)) else
  if fld w 0 23 = 1 then checked (.mhret (fn w 29 3)) else
  .reject (.unassigned 0x38)

/-- MAJOR 0x39 (Table 6-2). -/
def decodeMajor39 (w : Nat) : Decoded :=
  if fld w 0 4 = 0 then checked (.tinit (fn w 29 3) (fn w 18 5) (fn w 13 5) (fn w 8 5) (fn w 4 4)) else
  if fld w 0 13 = 1 ∧ fld w 18 5 = 0 then checked (.tdec (fn w 29 3) (fn w 13 5)) else
  if fld w 0 4 = 2 ∧ fld w 18 5 = 0 then checked (.tspawn (fn w 29 3) (fn w 13 5) (fn w 8 5) (fn w 4 4)) else
  if fld w 0 23 = 3 then checked (.tend (fn w 29 3)) else
  .reject (.unassigned 0x39)

/-- MAJOR 0x3A (Table 6-2). -/
def decodeMajor3A (w : Nat) : Decoded :=
  if fld w 0 4 = 0 ∧ fld w 8 5 = 0 then checked (.barArr (fn w 29 3) (fn w 18 5) (fn w 13 5) (fn w 4 4)) else
  if fld w 0 4 = 1 then checked (.barWt (fn w 29 3) (fn w 18 5) (fn w 13 5) (fn w 8 5) (fn w 4 4)) else
  .reject (.unassigned 0x3A)

/-- MAJOR 0x3B (Table 6-2). -/
def decodeMajor3B (w : Nat) : Decoded :=
  if fld w 0 4 = 0 then checked (.sigSet (fn w 29 3) (fn w 18 5) (fn w 13 5) (fn w 8 5) (fn w 4 4)) else
  if fld w 0 4 = 1 then checked (.sigAdd (fn w 29 3) (fn w 18 5) (fn w 13 5) (fn w 8 5) (fn w 4 4)) else
  if fld w 0 4 = 2 then checked (.sigWt (fn w 29 3) (fn w 18 5) (fn w 13 5) (fn w 8 5) (fn w 4 4)) else
  .reject (.unassigned 0x3B)

/-- MAJOR 0x3C (Table 6-2). -/
def decodeMajor3C (w : Nat) : Decoded :=
  if fld w 0 5 = 0 ∧ fld w 10 4 = 0 then checked (.cp (fn w 29 3) (fn w 18 5) (fn w 14 4) (fn w 5 5)) else
  if fld w 0 5 = 0 ∧ fld w 10 4 = 1 then checked (.cpg (fn w 29 3) (fn w 18 5) (fn w 14 4) (fn w 5 5)) else
  if fld w 0 5 = 0 ∧ fld w 10 4 = 2 then checked (.cps (fn w 29 3) (fn w 18 5) (fn w 14 4) (fn w 5 5)) else
  .reject (.unassigned 0x3C)

/-- MAJOR 0x3D (Table 6-2). -/
def decodeMajor3D (w : Nat) : Decoded :=
  if fld w 0 5 = 0 ∧ fld w 10 4 = 0 then checked (.lay (fn w 29 3) (fn w 18 5) (fn w 14 4) (fn w 5 5)) else
  if fld w 0 5 = 0 ∧ fld w 10 4 = 1 then checked (.dcmp (fn w 29 3) (fn w 18 5) (fn w 14 4) (fn w 5 5)) else
  if fld w 3 5 = 0 ∧ fld w 10 8 = 2 then checked (.engSt (fn w 29 3) (fn w 18 5) (fn w 8 2) (fn w 0 3)) else
  .reject (.unassigned 0x3D)

/-- MAJOR 0x3E (Table 6-2). -/
def decodeMajor3E (w : Nat) : Decoded :=
  if fld w 0 5 = 0 ∧ fld w 10 4 = 0 then checked (.fabCall (fn w 29 3) (fn w 18 5) (fn w 14 4) (fn w 5 5)) else
  if fld w 0 5 = 0 ∧ fld w 10 8 = 1 then checked (.fabWait (fn w 29 3) (fn w 18 5) (fn w 5 5)) else
  if fld w 0 5 = 0 ∧ fld w 10 4 = 2 then checked (.grLoad (fn w 29 3) (fn w 18 5) (fn w 14 4) (fn w 5 5)) else
  .reject (.unassigned 0x3E)

/-- MAJOR 0x3F (Table 6-2). -/
def decodeMajor3F (w : Nat) : Decoded :=
  if fld w 0 13 = 1 ∧ fld w 18 5 = 0 then checked (.trap (fn w 29 3) (fn w 13 5)) else
  if fld w 0 8 = 2 ∧ fld w 18 5 = 0 then checked (.tret (fn w 29 3) (fn w 13 5) (fn w 8 5)) else
  if fld w 0 23 = 3 then checked (.ckpt (fn w 29 3)) else
  if fld w 0 13 = 4 ∧ fld w 18 5 = 0 then checked (.halt (fn w 29 3) (fn w 13 5)) else
  if fld w 0 13 = 5 ∧ fld w 18 5 = 0 then checked (.frz (fn w 29 3) (fn w 13 5)) else
  if fld w 0 8 = 6 then checked (.scanrd (fn w 29 3) (fn w 18 5) (fn w 13 5) (fn w 8 5)) else
  if fld w 0 8 = 8 ∧ fld w 12 1 = 0 then checked (.graft (fn w 29 3) (fn w 18 5) (fn w 13 5) (fn w 8 4)) else
  if fld w 0 8 = 9 ∧ fld w 12 1 = 0 then checked (.prune (fn w 29 3) (fn w 18 5) (fn w 13 5) (fn w 8 4)) else
  if fld w 0 8 = 10 ∧ fld w 18 5 = 0 then checked (.tlbInv (fn w 29 3) (fn w 13 5) (fn w 8 5)) else
  if fld w 0 8 = 11 ∧ fld w 22 1 = 0 then checked (.capMint (fn w 29 3) (fn w 18 4) (fn w 13 5) (fn w 8 5)) else
  if fld w 2 6 = 4 then checked (.sget (fn w 29 3) (fn w 18 5) (fn w 8 10) (fn w 0 2)) else
  if fld w 2 6 = 5 then checked (.sset (fn w 29 3) (fn w 18 5) (fn w 8 10) (fn w 0 2)) else
  .reject (.unassigned 0x3F)

/-- A core instruction word (R141 steps 1, 2 and 4). -/
def decodeCore (w : Nat) : Decoded :=
  if w = 0xFFFFFFFF then .reject .allOnes else
  match fld w 23 6 with
  | 0x00 => decodeMajor00 w
  | 0x01 => decodeMajor01 w
  | 0x02 => decodeMajor02 w
  | 0x03 => decodeMajor03 w
  | 0x04 => decodeMajor04 w
  | 0x05 => decodeMajor05 w
  | 0x06 => decodeMajor06 w
  | 0x07 => decodeMajor07 w
  | 0x08 => decodeMajor08 w
  | 0x09 => decodeMajor09 w
  | 0x0A => decodeMajor0A w
  | 0x0B => decodeMajor0B w
  | 0x0C => decodeMajor0C w
  | 0x10 => decodeMajor10 w
  | 0x11 => decodeMajor11 w
  | 0x12 => decodeMajor12 w
  | 0x13 => decodeMajor13 w
  | 0x14 => decodeMajor14 w
  | 0x15 => decodeMajor15 w
  | 0x18 => decodeMajor18 w
  | 0x19 => decodeMajor19 w
  | 0x1A => decodeMajor1A w
  | 0x1B => decodeMajor1B w
  | 0x1C => decodeMajor1C w
  | 0x1D => decodeMajor1D w
  | 0x1E => decodeMajor1E w
  | 0x20 => decodeMajor20 w
  | 0x21 => decodeMajor21 w
  | 0x22 => decodeMajor22 w
  | 0x23 => decodeMajor23 w
  | 0x24 => decodeMajor24 w
  | 0x26 => decodeMajor26 w
  | 0x27 => decodeMajor27 w
  | 0x28 => decodeMajor28 w
  | 0x29 => decodeMajor29 w
  | 0x2A => decodeMajor2A w
  | 0x2B => decodeMajor2B w
  | 0x2C => decodeMajor2C w
  | 0x2D => decodeMajor2D w
  | 0x2E => decodeMajor2E w
  | 0x30 => decodeMajor30 w
  | 0x31 => decodeMajor31 w
  | 0x32 => decodeMajor32 w
  | 0x33 => decodeMajor33 w
  | 0x34 => decodeMajor34 w
  | 0x35 => decodeMajor35 w
  | 0x36 => decodeMajor36 w
  | 0x37 => decodeMajor37 w
  | 0x38 => decodeMajor38 w
  | 0x39 => decodeMajor39 w
  | 0x3A => decodeMajor3A w
  | 0x3B => decodeMajor3B w
  | 0x3C => decodeMajor3C w
  | 0x3D => decodeMajor3D w
  | 0x3E => decodeMajor3E w
  | 0x3F => decodeMajor3F w
  | m => .reject (.reservedMajor m)

/-- An element word whose operation is assigned, unless its ports, VAR or CTL break the operation's rule (R149, R276). -/
def checkedElement (i : Instr) : Decoded := if i.wf then .ok i else .reject .cfgFormat

/-- An element word (Table 6-6), valid only inside an element instruction store (R148). -/
noncomputable def decodeElement (w : Nat) : Decoded :=
  match fld w 26 6 with
  | 0x00 => if fld w 12 3 = 0 then checkedElement (.feAdd (fn w 23 3) (fn w 20 3) (fn w 17 3) (fn w 15 2) (fn w 0 12)) else .reject .cfgFormat
  | 0x01 => if fld w 12 3 = 0 then checkedElement (.feSub (fn w 23 3) (fn w 20 3) (fn w 17 3) (fn w 15 2) (fn w 0 12)) else .reject .cfgFormat
  | 0x02 => if fld w 12 3 = 0 then checkedElement (.feAnd (fn w 23 3) (fn w 20 3) (fn w 17 3) (fn w 15 2) (fn w 0 12)) else .reject .cfgFormat
  | 0x03 => if fld w 12 3 = 0 then checkedElement (.feOr (fn w 23 3) (fn w 20 3) (fn w 17 3) (fn w 15 2) (fn w 0 12)) else .reject .cfgFormat
  | 0x04 => if fld w 12 3 = 0 then checkedElement (.feXor (fn w 23 3) (fn w 20 3) (fn w 17 3) (fn w 15 2) (fn w 0 12)) else .reject .cfgFormat
  | 0x05 => if fld w 12 3 = 0 then checkedElement (.feShl (fn w 23 3) (fn w 20 3) (fn w 17 3) (fn w 15 2) (fn w 0 12)) else .reject .cfgFormat
  | 0x06 => if fld w 12 3 = 0 then checkedElement (.feShr (fn w 23 3) (fn w 20 3) (fn w 17 3) (fn w 15 2) (fn w 0 12)) else .reject .cfgFormat
  | 0x07 => if fld w 12 3 = 0 then checkedElement (.feSra (fn w 23 3) (fn w 20 3) (fn w 17 3) (fn w 15 2) (fn w 0 12)) else .reject .cfgFormat
  | 0x08 => checkedElement (.feMul (fn w 23 3) (fn w 20 3) (fn w 17 3) (fn w 15 2) (fn w 12 3) (fn w 0 12))
  | 0x09 => checkedElement (.feMin (fn w 23 3) (fn w 20 3) (fn w 17 3) (fn w 15 2) (fn w 12 3) (fn w 0 12))
  | 0x0A => checkedElement (.feMax (fn w 23 3) (fn w 20 3) (fn w 17 3) (fn w 15 2) (fn w 12 3) (fn w 0 12))
  | 0x0B => checkedElement (.feCmp (fn w 23 3) (fn w 20 3) (fn w 17 3) (fn w 15 2) (fn w 12 3) (fn w 0 12))
  | 0x0C => if fld w 12 5 = 0 then checkedElement (.feSel (fn w 23 3) (fn w 20 3) (fn w 17 3) (fn w 0 12)) else .reject .cfgFormat
  | 0x10 => checkedElement (.feFadd (fn w 23 3) (fn w 20 3) (fn w 17 3) (fn w 15 2) (fn w 12 3) (fn w 0 12))
  | 0x11 => if fld w 12 3 = 0 then checkedElement (.feFmul (fn w 23 3) (fn w 20 3) (fn w 17 3) (fn w 15 2) (fn w 0 12)) else .reject .cfgFormat
  | 0x12 => checkedElement (.feFma (fn w 23 3) (fn w 20 3) (fn w 17 3) (fn w 15 2) (fn w 12 3) (fn w 0 12))
  | 0x13 => checkedElement (.feCvt (fn w 23 3) (fn w 20 3) (fn w 17 3) (fn w 15 2) (fn w 12 3) (fn w 0 12))
  | 0x18 => if fld w 12 5 = 0 then checkedElement (.feSteer (fn w 23 3) (fn w 20 3) (fn w 17 3) (fn w 0 12)) else .reject .cfgFormat
  | 0x19 => if fld w 12 5 = 0 then checkedElement (.feOmrg (fn w 23 3) (fn w 20 3) (fn w 17 3) (fn w 0 12)) else .reject .cfgFormat
  | 0x1A => if fld w 12 3 = 1 then checkedElement (.feUmrg (fn w 23 3) (fn w 20 3) (fn w 17 3) (fn w 15 2) (fn w 0 12)) else .reject .cfgFormat
  | 0x1B => checkedElement (.feKmrg (fn w 23 3) (fn w 20 3) (fn w 17 3) (fn w 15 2) (fn w 12 3) (fn w 0 12))
  | 0x1C => if fld w 15 2 = 0 then checkedElement (.feCarry (fn w 23 3) (fn w 20 3) (fn w 17 3) (fn w 12 3) (fn w 0 12)) else .reject .cfgFormat
  | 0x1D => if fld w 12 5 = 0 then checkedElement (.feInv (fn w 23 3) (fn w 20 3) (fn w 17 3) (fn w 0 12)) else .reject .cfgFormat
  | 0x1E => if fld w 12 3 = 0 then checkedElement (.fePermit (fn w 23 3) (fn w 20 3) (fn w 17 3) (fn w 15 2) (fn w 0 12)) else .reject .cfgFormat
  | 0x1F => checkedElement (.feGen (fn w 23 3) (fn w 20 3) (fn w 17 3) (fn w 15 2) (fn w 12 3) (fn w 0 12))
  | 0x20 => checkedElement (.feLd (fn w 23 3) (fn w 20 3) (fn w 17 3) (fn w 15 2) (fn w 12 3) (fn w 0 12))
  | 0x21 => checkedElement (.feSt (fn w 23 3) (fn w 20 3) (fn w 17 3) (fn w 15 2) (fn w 12 3) (fn w 0 12))
  | 0x22 => if fld w 12 3 = 0 then checkedElement (.feTas (fn w 23 3) (fn w 20 3) (fn w 17 3) (fn w 15 2) (fn w 0 12)) else .reject .cfgFormat
  | 0x23 => if fld w 12 3 = 0 then checkedElement (.feOrdt (fn w 23 3) (fn w 20 3) (fn w 17 3) (fn w 15 2) (fn w 0 12)) else .reject .cfgFormat
  | 0x28 => checkedElement (.feIsect (fn w 23 3) (fn w 20 3) (fn w 17 3) (fn w 15 2) (fn w 12 3) (fn w 0 12))
  | 0x29 => if fld w 12 3 = 0 then checkedElement (.feCnt (fn w 23 3) (fn w 20 3) (fn w 17 3) (fn w 15 2) (fn w 0 12)) else .reject .cfgFormat
  | 0x2A => if fld w 12 3 = 0 then checkedElement (.feXfer (fn w 23 3) (fn w 20 3) (fn w 17 3) (fn w 15 2) (fn w 0 12)) else .reject .cfgFormat
  | 0x2B => checkedElement (.feSink (fn w 23 3) (fn w 20 3) (fn w 17 3) (fn w 15 2) (fn w 12 3) (fn w 0 12))
  | 0x3F => if fld w 12 3 = 0 then checkedElement (.feNop (fn w 23 3) (fn w 20 3) (fn w 17 3) (fn w 15 2) (fn w 0 12)) else .reject .cfgFormat
  | _ => .reject .cfgFormat

/-- The word that four bytes at rising addresses hold (R5, R137). -/
def wordOfBytes (b0 b1 b2 b3 : Byte) : Nat :=
  b0.toNat + 2 ^ 8 * b1.toNat + 2 ^ 16 * b2.toNat + 2 ^ 24 * b3.toNat

/-- Decoding of any bytes: the first four make the word; fewer are no instruction. -/
def decodeBytes : List Byte → Decoded × List Byte
  | b0 :: b1 :: b2 :: b3 :: rest => (decodeCore (wordOfBytes b0 b1 b2 b3), rest)
  | short => (.reject .notWhole, short)

/-- The core instruction that a word holds where it has one other than a word of major 0x00 and MINOR 0x00. -/
def coreOnly (w : Nat) : Option Instr :=
  match decodeCore w with
  | .ok (.ill _ _ _ _) => if w = 0 then some (.ill 0 0 0 0) else none
  | .ok i => some i
  | .reject _ => none

/-- The host's question for one row of the opcode table: what the decoder reads from `nbits` bits `w`. Every instruction is one
32-bit word (R137). The core's decoder is asked first; a word in which it finds no instruction is read as an element word
(R148), and what is left is a word of major 0x00 and MINOR 0x00. -/
noncomputable def decodeTableWord (nbits w : Nat) : Option Instr :=
  if nbits = 0 ∨ 32 < nbits ∨ 2 ^ 32 ≤ w then none else
  match coreOnly w with
  | some i => some i
  | none =>
    match decodeElement w with
    | .ok i => some i
    | .reject _ =>
      match decodeCore w with
      | .ok i => some i
      | .reject _ => none

/-- Table 6-1, format A: `minor` is bits [7:0]. -/
def encA (maj st d a b minor : Nat) : Nat := 2 ^ 29 * st + 2 ^ 23 * maj + 2 ^ 18 * d + 2 ^ 13 * a + 2 ^ 8 * b + minor
/-- Table 6-1, format I. -/
def encI (maj st d a imm : Nat) : Nat := 2 ^ 29 * st + 2 ^ 23 * maj + 2 ^ 18 * d + 2 ^ 13 * a + imm
/-- Table 6-1, format U. -/
def encU (maj st d imm : Nat) : Nat := 2 ^ 29 * st + 2 ^ 23 * maj + 2 ^ 18 * d + imm
/-- Table 6-1, format B. -/
def encB (maj st a b cond off : Nat) : Nat :=
  2 ^ 29 * st + 2 ^ 23 * maj + 2 ^ 18 * a + 2 ^ 13 * b + 2 ^ 11 * cond + off
/-- Table 6-1, format J. -/
def encJ (maj st off : Nat) : Nat := 2 ^ 29 * st + 2 ^ 23 * maj + off
/-- Table 6-1, format M, MODE 0. -/
def encM0 (maj st r k kind disp : Nat) : Nat :=
  2 ^ 29 * st + 2 ^ 23 * maj + 2 ^ 18 * r + 2 ^ 14 * k + 2 ^ 10 * kind + disp
/-- Table 6-1, format M, MODE 1: index, SCALE (or W), SCOPE (or MASK), KIND. -/
def encM1 (maj st r k x scale scope kind : Nat) : Nat :=
  2 ^ 29 * st + 2 ^ 23 * maj + 2 ^ 18 * r + 2 ^ 14 * k + 2 ^ 13 + 2 ^ 8 * x + 2 ^ 6 * scale + 2 ^ 3 * scope + kind
/-- Table 6-1, formats Q and E: `p` is the queue port or the capability register. -/
def encQ (maj st r p op low : Nat) : Nat :=
  2 ^ 29 * st + 2 ^ 23 * maj + 2 ^ 18 * r + 2 ^ 14 * p + 2 ^ 10 * op + low
/-- Table 6-6: an element word. -/
def encFe (op d a b c v i : Nat) : Nat :=
  2 ^ 26 * op + 2 ^ 23 * d + 2 ^ 20 * a + 2 ^ 17 * b + 2 ^ 15 * c + 2 ^ 12 * v + i

/-- The words of majors 0x00 to 0x1F (chapter 07). -/
def encodeScalar : Instr → Option Nat
  | .ill st d a b => some (encA 0x00 st.val d.val a.val b.val 0)
  | .add st d a b => some (encA 0x00 st.val d.val a.val b.val 1)
  | .sub st d a b => some (encA 0x00 st.val d.val a.val b.val 2)
  | .mul st d a b => some (encA 0x00 st.val d.val a.val b.val 3)
  | .mulh st d a b => some (encA 0x00 st.val d.val a.val b.val 4)
  | .mulhu st d a b => some (encA 0x00 st.val d.val a.val b.val 5)
  | .div st d a b => some (encA 0x00 st.val d.val a.val b.val 6)
  | .divu st d a b => some (encA 0x00 st.val d.val a.val b.val 7)
  | .rem st d a b => some (encA 0x00 st.val d.val a.val b.val 8)
  | .remu st d a b => some (encA 0x00 st.val d.val a.val b.val 9)
  | .and st d a b => some (encA 0x00 st.val d.val a.val b.val 10)
  | .or st d a b => some (encA 0x00 st.val d.val a.val b.val 11)
  | .xor st d a b => some (encA 0x00 st.val d.val a.val b.val 12)
  | .andn st d a b => some (encA 0x00 st.val d.val a.val b.val 13)
  | .shl st d a b => some (encA 0x00 st.val d.val a.val b.val 14)
  | .shr st d a b => some (encA 0x00 st.val d.val a.val b.val 15)
  | .sra st d a b => some (encA 0x00 st.val d.val a.val b.val 16)
  | .rol st d a b => some (encA 0x00 st.val d.val a.val b.val 17)
  | .slt st d a b => some (encA 0x00 st.val d.val a.val b.val 18)
  | .sltu st d a b => some (encA 0x00 st.val d.val a.val b.val 19)
  | .min st d a b => some (encA 0x00 st.val d.val a.val b.val 20)
  | .max st d a b => some (encA 0x00 st.val d.val a.val b.val 21)
  | .minu st d a b => some (encA 0x00 st.val d.val a.val b.val 22)
  | .maxu st d a b => some (encA 0x00 st.val d.val a.val b.val 23)
  | .clz st d a => some (encA 0x00 st.val d.val a.val 0 24)
  | .ctz st d a => some (encA 0x00 st.val d.val a.val 0 25)
  | .popc st d a => some (encA 0x00 st.val d.val a.val 0 26)
  | .bswap st d a => some (encA 0x00 st.val d.val a.val 0 27)
  | .sel st d a b => some (encA 0x00 st.val d.val a.val b.val 28)
  | .sext st d a w => some (encA 0x00 st.val d.val a.val w.val 29)
  | .zext st d a w => some (encA 0x00 st.val d.val a.val w.val 30)
  | .addi st d a i => some (encI 0x01 st.val d.val a.val i.val)
  | .andi st d a i => some (encI 0x02 st.val d.val a.val i.val)
  | .ori st d a i => some (encI 0x03 st.val d.val a.val i.val)
  | .xori st d a i => some (encI 0x04 st.val d.val a.val i.val)
  | .shli st d a h => some (encI 0x05 st.val d.val a.val h.val)
  | .shri st d a h => some (encI 0x06 st.val d.val a.val h.val)
  | .srai st d a h => some (encI 0x07 st.val d.val a.val h.val)
  | .slti st d a i => some (encI 0x08 st.val d.val a.val i.val)
  | .sltui st d a i => some (encI 0x09 st.val d.val a.val i.val)
  | .lui st d i => some (encU 0x0A st.val d.val i.val)
  | .addpc st d i => some (encU 0x0B st.val d.val i.val)
  | .bext st d a p l => some (encI 0x0C st.val d.val a.val (2 ^ 6 * p.val + l.val))
  | .bins st d a p l => some (encI 0x0C st.val d.val a.val (2 ^ 6 * p.val + l.val + 4096))
  | .beq st a b o => some (encB 0x10 st.val a.val b.val 0 o.val)
  | .bne st a b o => some (encB 0x10 st.val a.val b.val 1 o.val)
  | .blt st a b o => some (encB 0x10 st.val a.val b.val 2 o.val)
  | .bge st a b o => some (encB 0x10 st.val a.val b.val 3 o.val)
  | .bltu st a b o => some (encB 0x11 st.val a.val b.val 0 o.val)
  | .bgeu st a b o => some (encB 0x11 st.val a.val b.val 1 o.val)
  | .jal st o => some (encJ 0x12 st.val o.val)
  | .jalr st d a i => some (encI 0x13 st.val d.val a.val i.val)
  | .capBnd st d a b => some (encA 0x14 st.val d.val a.val b.val 1)
  | .capPrm st d a b => some (encA 0x14 st.val d.val a.val b.val 2)
  | .capSet st d a b => some (encA 0x14 st.val d.val a.val b.val 3)
  | .capAdd st d a b => some (encA 0x14 st.val d.val a.val b.val 4)
  | .capGet st d a c => some (encA 0x14 st.val d.val a.val c.val 5)
  | .capAddImm st d a i => some (encI 0x15 st.val d.val a.val i.val)
  | .ldB st d k i => some (encM0 0x18 st.val d.val k.val 0 i.val)
  | .ldBIdx st d k x c => some (encM1 0x18 st.val d.val k.val x.val c.val 0 0)
  | .ldBu st d k i => some (encM0 0x18 st.val d.val k.val 1 i.val)
  | .ldBuIdx st d k x c => some (encM1 0x18 st.val d.val k.val x.val c.val 0 1)
  | .ldH st d k i => some (encM0 0x18 st.val d.val k.val 2 i.val)
  | .ldHIdx st d k x c => some (encM1 0x18 st.val d.val k.val x.val c.val 0 2)
  | .ldHu st d k i => some (encM0 0x18 st.val d.val k.val 3 i.val)
  | .ldHuIdx st d k x c => some (encM1 0x18 st.val d.val k.val x.val c.val 0 3)
  | .ldW st d k i => some (encM0 0x18 st.val d.val k.val 4 i.val)
  | .ldWIdx st d k x c => some (encM1 0x18 st.val d.val k.val x.val c.val 0 4)
  | .ldWu st d k i => some (encM0 0x18 st.val d.val k.val 5 i.val)
  | .ldWuIdx st d k x c => some (encM1 0x18 st.val d.val k.val x.val c.val 0 5)
  | .ldD st d k i => some (encM0 0x18 st.val d.val k.val 6 i.val)
  | .ldDIdx st d k x c => some (encM1 0x18 st.val d.val k.val x.val c.val 0 6)
  | .ldX st d k i => some (encM0 0x18 st.val d.val k.val 7 i.val)
  | .ldXIdx st d k x c => some (encM1 0x18 st.val d.val k.val x.val c.val 0 7)
  | .stB st d k i => some (encM0 0x19 st.val d.val k.val 0 i.val)
  | .stBIdx st d k x c => some (encM1 0x19 st.val d.val k.val x.val c.val 0 0)
  | .stH st d k i => some (encM0 0x19 st.val d.val k.val 1 i.val)
  | .stHIdx st d k x c => some (encM1 0x19 st.val d.val k.val x.val c.val 0 1)
  | .stW st d k i => some (encM0 0x19 st.val d.val k.val 2 i.val)
  | .stWIdx st d k x c => some (encM1 0x19 st.val d.val k.val x.val c.val 0 2)
  | .stD st d k i => some (encM0 0x19 st.val d.val k.val 3 i.val)
  | .stDIdx st d k x c => some (encM1 0x19 st.val d.val k.val x.val c.val 0 3)
  | .stX st d k i => some (encM0 0x19 st.val d.val k.val 4 i.val)
  | .stXIdx st d k x c => some (encM1 0x19 st.val d.val k.val x.val c.val 0 4)
  | .ldBAcq st d k x c p => some (encM1 0x1A st.val d.val k.val x.val c.val p.val 0)
  | .ldBuAcq st d k x c p => some (encM1 0x1A st.val d.val k.val x.val c.val p.val 1)
  | .ldHAcq st d k x c p => some (encM1 0x1A st.val d.val k.val x.val c.val p.val 2)
  | .ldHuAcq st d k x c p => some (encM1 0x1A st.val d.val k.val x.val c.val p.val 3)
  | .ldWAcq st d k x c p => some (encM1 0x1A st.val d.val k.val x.val c.val p.val 4)
  | .ldWuAcq st d k x c p => some (encM1 0x1A st.val d.val k.val x.val c.val p.val 5)
  | .ldDAcq st d k x c p => some (encM1 0x1A st.val d.val k.val x.val c.val p.val 6)
  | .stBRel st d k x c p => some (encM1 0x1B st.val d.val k.val x.val c.val p.val 0)
  | .stHRel st d k x c p => some (encM1 0x1B st.val d.val k.val x.val c.val p.val 1)
  | .stWRel st d k x c p => some (encM1 0x1B st.val d.val k.val x.val c.val p.val 2)
  | .stDRel st d k x c p => some (encM1 0x1B st.val d.val k.val x.val c.val p.val 3)
  | .ldFe st d k i => some (encM0 0x1C st.val d.val k.val 0 i.val)
  | .ldFeIdx st d k x c => some (encM1 0x1C st.val d.val k.val x.val c.val 0 0)
  | .stFe st d k i => some (encM0 0x1C st.val d.val k.val 1 i.val)
  | .stFeIdx st d k x c => some (encM1 0x1C st.val d.val k.val x.val c.val 0 1)
  | .ldCap st d k i => some (encM0 0x1C st.val d.val k.val 2 i.val)
  | .ldCapIdx st d k x c => some (encM1 0x1C st.val d.val k.val x.val c.val 0 2)
  | .stCap st d k i => some (encM0 0x1C st.val d.val k.val 3 i.val)
  | .stCapIdx st d k x c => some (encM1 0x1C st.val d.val k.val x.val c.val 0 3)
  | .amoAdd st d a b k => some (encA 0x1D st.val d.val a.val b.val (2 ^ 4 * k.val))
  | .amoAnd st d a b k => some (encA 0x1D st.val d.val a.val b.val (2 ^ 4 * k.val + 1))
  | .amoOr st d a b k => some (encA 0x1D st.val d.val a.val b.val (2 ^ 4 * k.val + 2))
  | .amoXor st d a b k => some (encA 0x1D st.val d.val a.val b.val (2 ^ 4 * k.val + 3))
  | .amoMin st d a b k => some (encA 0x1D st.val d.val a.val b.val (2 ^ 4 * k.val + 4))
  | .amoMax st d a b k => some (encA 0x1D st.val d.val a.val b.val (2 ^ 4 * k.val + 5))
  | .amoMinu st d a b k => some (encA 0x1D st.val d.val a.val b.val (2 ^ 4 * k.val + 6))
  | .amoMaxu st d a b k => some (encA 0x1D st.val d.val a.val b.val (2 ^ 4 * k.val + 7))
  | .amoSwap st d a b k => some (encA 0x1D st.val d.val a.val b.val (2 ^ 4 * k.val + 8))
  | .amoCas st d a b k => some (encA 0x1D st.val d.val a.val b.val (2 ^ 4 * k.val + 9))
  | .amoTas st d a b k => some (encA 0x1D st.val d.val a.val b.val (2 ^ 4 * k.val + 10))
  | .pf st k i => some (encM0 0x1E st.val 0 k.val 0 i.val)
  | .pfIdx st k x c => some (encM1 0x1E st.val 0 k.val x.val c.val 0 0)
  | .fence st f p => some (encM1 0x1E st.val f.val 0 0 0 p.val 7)
  | _ => none

/-- The words of majors 0x20 to 0x2F (chapter 08). -/
def encodeVector : Instr → Option Nat
  | .vadd st d a b w m => some (encA 0x20 st.val d.val a.val b.val (2 ^ 6 * w.val + 2 ^ 3 * m.val))
  | .vsub st d a b w m => some (encA 0x20 st.val d.val a.val b.val (2 ^ 6 * w.val + 2 ^ 3 * m.val + 1))
  | .vmul st d a b w m => some (encA 0x20 st.val d.val a.val b.val (2 ^ 6 * w.val + 2 ^ 3 * m.val + 2))
  | .vmulh st d a b w m => some (encA 0x20 st.val d.val a.val b.val (2 ^ 6 * w.val + 2 ^ 3 * m.val + 3))
  | .vadds st d a b w m => some (encA 0x20 st.val d.val a.val b.val (2 ^ 6 * w.val + 2 ^ 3 * m.val + 4))
  | .vsubs st d a b w m => some (encA 0x20 st.val d.val a.val b.val (2 ^ 6 * w.val + 2 ^ 3 * m.val + 5))
  | .vmin st d a b w m => some (encA 0x20 st.val d.val a.val b.val (2 ^ 6 * w.val + 2 ^ 3 * m.val + 6))
  | .vmax st d a b w m => some (encA 0x20 st.val d.val a.val b.val (2 ^ 6 * w.val + 2 ^ 3 * m.val + 7))
  | .vminu st d a b w m => some (encA 0x21 st.val d.val a.val b.val (2 ^ 6 * w.val + 2 ^ 3 * m.val))
  | .vmaxu st d a b w m => some (encA 0x21 st.val d.val a.val b.val (2 ^ 6 * w.val + 2 ^ 3 * m.val + 1))
  | .vabs st d a w m => some (encA 0x21 st.val d.val a.val 0 (2 ^ 6 * w.val + 2 ^ 3 * m.val + 2))
  | .vand st d a b w m => some (encA 0x21 st.val d.val a.val b.val (2 ^ 6 * w.val + 2 ^ 3 * m.val + 3))
  | .vor st d a b w m => some (encA 0x21 st.val d.val a.val b.val (2 ^ 6 * w.val + 2 ^ 3 * m.val + 4))
  | .vxor st d a b w m => some (encA 0x21 st.val d.val a.val b.val (2 ^ 6 * w.val + 2 ^ 3 * m.val + 5))
  | .vshl st d a b w m => some (encA 0x21 st.val d.val a.val b.val (2 ^ 6 * w.val + 2 ^ 3 * m.val + 6))
  | .vshr st d a b w m => some (encA 0x21 st.val d.val a.val b.val (2 ^ 6 * w.val + 2 ^ 3 * m.val + 7))
  | .vsra st d a b w m => some (encA 0x22 st.val d.val a.val b.val (2 ^ 6 * w.val + 2 ^ 3 * m.val))
  | .vclz st d a w m => some (encA 0x22 st.val d.val a.val 0 (2 ^ 6 * w.val + 2 ^ 3 * m.val + 1))
  | .vpopc st d a w m => some (encA 0x22 st.val d.val a.val 0 (2 ^ 6 * w.val + 2 ^ 3 * m.val + 2))
  | .vcmp st c m a b w k => some (encA 0x22 st.val (2 ^ 3 * c.val + m.val) a.val b.val (2 ^ 6 * w.val + 2 ^ 3 * k.val + 3))
  | .vcmpUnsigned st c m a b w k => some (encA 0x22 st.val (2 ^ 3 * c.val + m.val + 16) a.val b.val (2 ^ 6 * w.val + 2 ^ 3 * k.val + 4))
  | .vsel st d a b w m => some (encA 0x22 st.val d.val a.val b.val (2 ^ 6 * w.val + 2 ^ 3 * m.val + 5))
  | .vfadd st d a b w m => some (encA 0x23 st.val d.val a.val b.val (2 ^ 6 * w.val + 2 ^ 3 * m.val))
  | .vfsub st d a b w m => some (encA 0x23 st.val d.val a.val b.val (2 ^ 6 * w.val + 2 ^ 3 * m.val + 1))
  | .vfmul st d a b w m => some (encA 0x23 st.val d.val a.val b.val (2 ^ 6 * w.val + 2 ^ 3 * m.val + 2))
  | .vfma st d a b w m => some (encA 0x23 st.val d.val a.val b.val (2 ^ 6 * w.val + 2 ^ 3 * m.val + 3))
  | .vfms st d a b w m => some (encA 0x23 st.val d.val a.val b.val (2 ^ 6 * w.val + 2 ^ 3 * m.val + 4))
  | .vfmin st d a b w m => some (encA 0x23 st.val d.val a.val b.val (2 ^ 6 * w.val + 2 ^ 3 * m.val + 5))
  | .vfmax st d a b w m => some (encA 0x23 st.val d.val a.val b.val (2 ^ 6 * w.val + 2 ^ 3 * m.val + 6))
  | .vfcmp st c m a b w k => some (encA 0x23 st.val (2 ^ 3 * c.val + m.val) a.val b.val (2 ^ 6 * w.val + 2 ^ 3 * k.val + 7))
  | .vfabs st d a w m => some (encA 0x24 st.val d.val a.val 0 (2 ^ 6 * w.val + 2 ^ 3 * m.val))
  | .vfneg st d a w m => some (encA 0x24 st.val d.val a.val 0 (2 ^ 6 * w.val + 2 ^ 3 * m.val + 1))
  | .vfrcpe st d a w m => some (encA 0x24 st.val d.val a.val 0 (2 ^ 6 * w.val + 2 ^ 3 * m.val + 2))
  | .vfrsqe st d a w m => some (encA 0x24 st.val d.val a.val 0 (2 ^ 6 * w.val + 2 ^ 3 * m.val + 3))
  | .vcvt st d a t f p => some (encA 0x26 st.val d.val a.val (2 ^ 1 * t.val) (2 ^ 5 * f.val + 2 ^ 3 * p.val))
  | .vdec st d a t f p m => some (encA 0x26 st.val d.val a.val (2 ^ 3 * t.val + 2 ^ 1 * f.val) (2 ^ 7 * p.val + 2 ^ 3 * m.val + 1))
  | .venc st d a t f p m => some (encA 0x26 st.val d.val a.val (2 ^ 3 * t.val + 2 ^ 1 * f.val) (2 ^ 7 * p.val + 2 ^ 3 * m.val + 2))
  | .vbaq st d a b t => some (encA 0x26 st.val d.val a.val b.val (2 ^ 6 * t.val + 3))
  | .vbfly st d a b w g => some (encA 0x26 st.val d.val a.val b.val (2 ^ 6 * w.val + 2 ^ 3 * g.val + 4))
  | .vld st d k i => some (encM0 0x27 st.val d.val k.val 0 i.val)
  | .vldIdx st d k x c m => some (encM1 0x27 st.val d.val k.val x.val c.val m.val 0)
  | .vst st d k i => some (encM0 0x27 st.val d.val k.val 1 i.val)
  | .vstIdx st d k x c m => some (encM1 0x27 st.val d.val k.val x.val c.val m.val 1)
  | .vlds st d k x w m => some (encM1 0x28 st.val d.val k.val x.val w.val m.val 0)
  | .vsts st d k x w m => some (encM1 0x28 st.val d.val k.val x.val w.val m.val 1)
  | .vgath st d k x w m => some (encM1 0x29 st.val d.val k.val x.val w.val m.val 0)
  | .vscat st d k x w m => some (encM1 0x29 st.val d.val k.val x.val w.val m.val 1)
  | .vbcast st d a w m => some (encA 0x2A st.val d.val a.val 0 (2 ^ 6 * w.val + 2 ^ 3 * m.val))
  | .vperm st d a b w m => some (encA 0x2A st.val d.val a.val b.val (2 ^ 6 * w.val + 2 ^ 3 * m.val + 1))
  | .vslide st d a b w m => some (encA 0x2A st.val d.val a.val b.val (2 ^ 6 * w.val + 2 ^ 3 * m.val + 2))
  | .vcomp st d a w m => some (encA 0x2A st.val d.val a.val 0 (2 ^ 6 * w.val + 2 ^ 3 * m.val + 3))
  | .vexpd st d a w m => some (encA 0x2A st.val d.val a.val 0 (2 ^ 6 * w.val + 2 ^ 3 * m.val + 4))
  | .vred st d a o w m => some (encA 0x2B st.val d.val a.val o.val (2 ^ 6 * w.val + 2 ^ 3 * m.val))
  | .vmrg st d a b w g => some (encA 0x2C st.val d.val a.val b.val (2 ^ 6 * w.val + 2 ^ 3 * g.val))
  | .vmrgp st d a b w g => some (encA 0x2C st.val d.val a.val b.val (2 ^ 6 * w.val + 2 ^ 3 * g.val + 1))
  | .vsrt st d a w v g => some (encA 0x2C st.val d.val a.val 0 (2 ^ 6 * w.val + 2 ^ 4 * v.val + 2 ^ 3 * g.val + 2))
  | .mand st d a b => some (encA 0x2D st.val d.val a.val b.val 0)
  | .mor st d a b => some (encA 0x2D st.val d.val a.val b.val 1)
  | .mxor st d a b => some (encA 0x2D st.val d.val a.val b.val 2)
  | .mnot st d a => some (encA 0x2D st.val d.val a.val 0 3)
  | .mpop st d a w => some (encA 0x2D st.val d.val a.val 0 (2 ^ 6 * w.val + 4))
  | .mfirst st d a w => some (encA 0x2D st.val d.val a.val 0 (2 ^ 6 * w.val + 5))
  | .vrep st b a l n t => some (encA 0x2E st.val b.val a.val l.val (2 ^ 4 * n.val + t.val))
  | _ => none

/-- The words of majors 0x30 to 0x3F (chapters 09 to 13 and 19). -/
def encodeSystem : Instr → Option Nat
  | .mtbl st k t i => some (encM0 0x30 st.val 0 k.val t.val i.val)
  | .mtblIdx st k x c t => some (encM1 0x30 st.val 0 k.val x.val c.val 0 t.val)
  | .mrdAcc st d a => some (encA 0x31 st.val d.val a.val 0 0)
  | .mrdTbl st d a => some (encA 0x31 st.val d.val a.val 0 64)
  | .mrdStat st d => some (encA 0x31 st.val d.val 0 0 128)
  | .mwrAcc st a b => some (encA 0x32 st.val 0 a.val b.val 0)
  | .mwrTbl st a b => some (encA 0x32 st.val 0 a.val b.val 64)
  | .mwrOvf st b => some (encA 0x32 st.val 0 0 b.val 128)
  | .mseq st d a b k => some (encA 0x33 st.val d.val a.val b.val (2 ^ 4 * k.val))
  | .qpop st d q v t => some (encQ 0x34 st.val d.val q.val 0 (2 ^ 9 * v.val + t.val))
  | .qtry st d q t => some (encQ 0x34 st.val d.val q.val 1 t.val)
  | .qpeek st d q t => some (encQ 0x34 st.val d.val q.val 2 t.val)
  | .qgetC st d q t => some (encQ 0x34 st.val d.val q.val 3 t.val)
  | .qgetP st d q t => some (encQ 0x34 st.val d.val q.val 3 (t.val + 512))
  | .qdoneC st q => some (encQ 0x34 st.val 0 q.val 4 0)
  | .qdoneP st q => some (encQ 0x34 st.val 0 q.val 4 512)
  | .qpush st d q v t => some (encQ 0x35 st.val d.val q.val 0 (2 ^ 9 * v.val + t.val))
  | .qpushu st d q v t => some (encQ 0x35 st.val d.val q.val 1 (2 ^ 9 * v.val + t.val))
  | .qmark st g q a => some (encQ 0x35 st.val g.val q.val 2 a.val)
  | .qmarkA st g a => some (encQ 0x35 st.val g.val 0 2 (a.val + 512))
  | .qstat st d q => some (encQ 0x36 st.val d.val q.val 0 0)
  | .qwin st d q g => some (encQ 0x36 st.val d.val q.val 1 (2 ^ 5 * g.val))
  | .qfence st v q n => some (encQ 0x37 st.val v.val q.val 0 n.val)
  | .qfenceSig st v q k => some (encQ 0x37 st.val v.val q.val 0 (2 ^ 3 * k.val + 512))
  | .msend st t l k => some (encA 0x38 st.val t.val l.val 0 (2 ^ 4 * k.val))
  | .mhret st => some (encA 0x38 st.val 0 0 0 1)
  | .tinit st d a b k => some (encA 0x39 st.val d.val a.val b.val (2 ^ 4 * k.val))
  | .tdec st a => some (encA 0x39 st.val 0 a.val 0 1)
  | .tspawn st a b k => some (encA 0x39 st.val 0 a.val b.val (2 ^ 4 * k.val + 2))
  | .tend st => some (encA 0x39 st.val 0 0 0 3)
  | .barArr st d a k => some (encA 0x3A st.val d.val a.val 0 (2 ^ 4 * k.val))
  | .barWt st d a b k => some (encA 0x3A st.val d.val a.val b.val (2 ^ 4 * k.val + 1))
  | .sigSet st d a b k => some (encA 0x3B st.val d.val a.val b.val (2 ^ 4 * k.val))
  | .sigAdd st d a b k => some (encA 0x3B st.val d.val a.val b.val (2 ^ 4 * k.val + 1))
  | .sigWt st d a b k => some (encA 0x3B st.val d.val a.val b.val (2 ^ 4 * k.val + 2))
  | .cp st d k v => some (encQ 0x3C st.val d.val k.val 0 (2 ^ 5 * v.val))
  | .cpg st d k v => some (encQ 0x3C st.val d.val k.val 1 (2 ^ 5 * v.val))
  | .cps st d k v => some (encQ 0x3C st.val d.val k.val 2 (2 ^ 5 * v.val))
  | .lay st d k v => some (encQ 0x3D st.val d.val k.val 0 (2 ^ 5 * v.val))
  | .dcmp st d k v => some (encQ 0x3D st.val d.val k.val 1 (2 ^ 5 * v.val))
  | .engSt st d e j => some (encQ 0x3D st.val d.val 0 2 (2 ^ 8 * e.val + j.val))
  | .fabCall st d k v => some (encQ 0x3E st.val d.val k.val 0 (2 ^ 5 * v.val))
  | .fabWait st d a => some (encQ 0x3E st.val d.val 0 1 (2 ^ 5 * a.val))
  | .grLoad st d k v => some (encQ 0x3E st.val d.val k.val 2 (2 ^ 5 * v.val))
  | .trap st n => some (encA 0x3F st.val 0 n.val 0 1)
  | .tret st a b => some (encA 0x3F st.val 0 a.val b.val 2)
  | .ckpt st => some (encA 0x3F st.val 0 0 0 3)
  | .halt st a => some (encA 0x3F st.val 0 a.val 0 4)
  | .frz st a => some (encA 0x3F st.val 0 a.val 0 5)
  | .scanrd st d a b => some (encA 0x3F st.val d.val a.val b.val 6)
  | .graft st d a b => some (encA 0x3F st.val d.val a.val b.val 8)
  | .prune st d a b => some (encA 0x3F st.val d.val a.val b.val 9)
  | .tlbInv st a b => some (encA 0x3F st.val 0 a.val b.val 10)
  | .capMint st d a b => some (encA 0x3F st.val d.val a.val b.val 11)
  | .sget st d i h => some (encA 0x3F st.val d.val (i.val / 32) (i.val % 32) (h.val + 16))
  | .sset st g i h => some (encA 0x3F st.val g.val (i.val / 32) (i.val % 32) (h.val + 20))
  | _ => none

/-- The words of the element operations (chapter 12). -/
def encodeElement : Instr → Option Nat
  | .feAdd d a b c i => some (encFe 0 d.val a.val b.val c.val 0 i.val)
  | .feSub d a b c i => some (encFe 1 d.val a.val b.val c.val 0 i.val)
  | .feAnd d a b c i => some (encFe 2 d.val a.val b.val c.val 0 i.val)
  | .feOr d a b c i => some (encFe 3 d.val a.val b.val c.val 0 i.val)
  | .feXor d a b c i => some (encFe 4 d.val a.val b.val c.val 0 i.val)
  | .feShl d a b c i => some (encFe 5 d.val a.val b.val c.val 0 i.val)
  | .feShr d a b c i => some (encFe 6 d.val a.val b.val c.val 0 i.val)
  | .feSra d a b c i => some (encFe 7 d.val a.val b.val c.val 0 i.val)
  | .feMul d a b c v i => some (encFe 8 d.val a.val b.val c.val v.val i.val)
  | .feMin d a b c v i => some (encFe 9 d.val a.val b.val c.val v.val i.val)
  | .feMax d a b c v i => some (encFe 10 d.val a.val b.val c.val v.val i.val)
  | .feCmp d a b c v i => some (encFe 11 d.val a.val b.val c.val v.val i.val)
  | .feSel d a b i => some (encFe 12 d.val a.val b.val 0 0 i.val)
  | .feFadd d a b c v i => some (encFe 16 d.val a.val b.val c.val v.val i.val)
  | .feFmul d a b c i => some (encFe 17 d.val a.val b.val c.val 0 i.val)
  | .feFma d a b c v i => some (encFe 18 d.val a.val b.val c.val v.val i.val)
  | .feCvt d a b c v i => some (encFe 19 d.val a.val b.val c.val v.val i.val)
  | .feSteer d a b i => some (encFe 24 d.val a.val b.val 0 0 i.val)
  | .feOmrg d a b i => some (encFe 25 d.val a.val b.val 0 0 i.val)
  | .feUmrg d a b c i => some (encFe 26 d.val a.val b.val c.val 1 i.val)
  | .feKmrg d a b c v i => some (encFe 27 d.val a.val b.val c.val v.val i.val)
  | .feCarry d a b v i => some (encFe 28 d.val a.val b.val 0 v.val i.val)
  | .feInv d a b i => some (encFe 29 d.val a.val b.val 0 0 i.val)
  | .fePermit d a b c i => some (encFe 30 d.val a.val b.val c.val 0 i.val)
  | .feGen d a b c v i => some (encFe 31 d.val a.val b.val c.val v.val i.val)
  | .feLd d a b c v i => some (encFe 32 d.val a.val b.val c.val v.val i.val)
  | .feSt d a b c v i => some (encFe 33 d.val a.val b.val c.val v.val i.val)
  | .feTas d a b c i => some (encFe 34 d.val a.val b.val c.val 0 i.val)
  | .feOrdt d a b c i => some (encFe 35 d.val a.val b.val c.val 0 i.val)
  | .feIsect d a b c v i => some (encFe 40 d.val a.val b.val c.val v.val i.val)
  | .feCnt d a b c i => some (encFe 41 d.val a.val b.val c.val 0 i.val)
  | .feXfer d a b c i => some (encFe 42 d.val a.val b.val c.val 0 i.val)
  | .feSink d a b c v i => some (encFe 43 d.val a.val b.val c.val v.val i.val)
  | .feNop d a b c i => some (encFe 63 d.val a.val b.val c.val 0 i.val)
  | _ => none

/-- The word of an instruction, from the encoding tables of the spec: its constants and each field at its place. A step that
has no word encodes to nothing. -/
def encode (i : Instr) : Option Nat :=
  match encodeScalar i with
  | some w => some w
  | none =>
    match encodeVector i with
    | some w => some w
    | none =>
      match encodeSystem i with
      | some w => some w
      | none => encodeElement i

end Sys2Proof
end

