-- ==== Sys2Proof/Config.lean ====
section
/-! DEFINITION. What an implementation fixes and the values the spec leaves open: constants without a body, so that nothing can
be proved about which value they take (log entries 3 and 5). -/
namespace Sys2Proof.Config

/-- A fresh dword for each `n`: a value the spec leaves open (log entry 3). -/
opaque freeDword : Nat → Dword

/-- A fresh number for each `n`: a choice the spec leaves open, such as a steal victim (R52, log entry 3). -/
opaque freeNat : Nat → Nat

/-- Bits of the scan chain `chain` of island `island` of die `die` during one freeze (R355): the scan map stands in the firmware
image. -/
opaque scanBit : (freeze die island chain bit : Nat) → Bool

/-- Bits of scan chain `chain` of island `island` of die `die` (R355), 0 for a chain that the island lacks. -/
opaque scanLength : (die island chain : Nat) → Nat

/-- What depends on a die's HSS secret (R413, R416): `what` tells keys of a level from signatures, `index` which, and the message signed. -/
opaque hssSecret : (die what index : Nat) → (message : List Byte) → List Byte

/-- The digests fused into a key slot (R412): of its ECDSA key and of its HSS key; the same on every die, since one boot flash boots them all. -/
opaque fusedDigest : (slot : Nat) → (hss : Bool) → List Byte

/-- The public keys of a key slot in the key block of the boot flash (R412). -/
opaque flashKey : (slot : Nat) → (hss : Bool) → List Byte

/-- The 96 bytes of the die's ECDSA signature of a digest (R416). -/
opaque ecdsaSign : (die : Nat) → (digest : List Byte) → List Byte

/-- How many of the items that a port has sent over a failed link the home on the other module has accepted (R405). -/
opaque farAccepted : (n : Nat) → Nat

/-- Where the porter quad of each of the twelve link ports and of the eight ends of die bridges stands (R406): the spec does not say where ports and
bridges meet the mesh. -/
opaque porterPlace : (port : Nat) → Nat

/-- Whether a peer refuses a request of this module at the offset of its region: its aperture for this module is not known here (R404). -/
opaque peerRefuses : (turn peer off : Nat) → Bool

/-- The code of a die's ring oscillators at a time (R419, R422). -/
opaque ringOscillator : (die micros : Nat) → Nat

/-- Watts that the module's draw falls by when an island goes down from a bin (R423). -/
opaque stepSaves : (island bin : Nat) → Nat

/-- The protection unit that a byte of memory belongs to (R374). -/
opaque protUnit : (addr : Nat) → Nat

/-- Bytes of the device identity chain of certificate slot 0 (R417). -/
opaque certificate : List Byte

/-- The IDENTIFY buffer as one command `n` writes it: 4 KiB whose layout the spec does not give (R401). -/
opaque identifyByte : (n off : Nat) → Byte

/-- The identity digest fused into a die, 48 bytes (Table 23-1). -/
opaque romDigest : (die : Nat) → List Byte

/-- The bytes of an SPDM request as it came, from its code and the fields that the machine looks at (R417). -/
opaque spdmRequest : (code : Nat) → (known : List Byte) → List Byte

/-- CTExponent and the two message sizes of a CAPABILITIES response: 9 bytes (R417). -/
opaque spdmLimits : List Byte

/-- The 32 bytes of a responder's nonce and the 8 of a requester's context, for the `n`-th signed response (R418). -/
opaque spdmFresh : (n : Nat) → List Byte

/-- Gyzia's vendor identifier with the registry that it stands in (R418). -/
opaque vendorId : Nat × List Byte

/-- A byte of a part of the health record whose layout within Table 23-5 the spec does not give, from the values that stand in it
(R422). -/
opaque healthByte : (off : Nat) → (values : List Nat) → Byte

end Sys2Proof.Config
end

