-- ==== Sys2Proof/Machine/Bits.lean ====
section
/-! DEFINITION. Bit fields, sign extension, byte order and checksums (R4, R5, R13), on natural numbers where a width varies. -/
namespace Sys2Proof.Machine

/-- Bits [lo + n - 1 : lo] of a number (R4). -/
def bitsOf (x lo n : Nat) : Nat := x / 2 ^ lo % 2 ^ n

/-- A number with its bits [lo + n - 1 : lo] replaced by `y`. -/
def putBits (x lo n y : Nat) : Nat := x - bitsOf x lo n * 2 ^ lo + y % 2 ^ n * 2 ^ lo

/-- The integer value of an `n`-bit field read as two's complement (Signed, R13). -/
def signedOf (n x : Nat) : Int := if x % 2 ^ n < 2 ^ (n - 1) then (x % 2 ^ n : Nat) else (x % 2 ^ n : Nat) - (2 ^ n : Nat)

/-- The `n`-bit two's complement pattern of an integer (R11). -/
def patternOf (n : Nat) (x : Int) : Nat := (x % (2 ^ n : Nat)).toNat

/-- An `n`-bit field sign-extended to a dword (SignExtend, R13). -/
def sextTo64 (n x : Nat) : Dword := BitVec.ofInt 64 (signedOf n x)

/-- The `n` low bytes of a number, lowest first (R5). -/
def leBytes : Nat → Nat → List Byte
  | 0, _ => []
  | n + 1, x => BitVec.ofNat 8 x :: leBytes n (x / 256)

/-- The number that bytes stand for, lowest first (R5). -/
def leNat : List Byte → Nat
  | [] => 0
  | b :: r => b.toNat + 256 * leNat r

/-- A byte string cut or filled with zeros to `n` bytes. -/
def padTo (n : Nat) (l : List Byte) : List Byte := l.take n ++ List.replicate (n - l.length) 0

/-- A dword's 8 bytes. -/
def dwordBytes (x : Dword) : List Byte := leBytes 8 x.toNat

/-- The dword at byte offset `off` of a byte string; bytes beyond the end read as zero. -/
def dwordAt (bs : List Byte) (off : Nat) : Dword := BitVec.ofNat 64 (leNat ((bs.drop off).take 8))

/-- A byte string as dwords. -/
def dwordsOf : Nat → List Byte → List Dword
  | 0, _ => []
  | n + 1, bs => BitVec.ofNat 64 (leNat (bs.take 8)) :: dwordsOf n (bs.drop 8)

/-- Number of leading zeros of an `n`-bit field. -/
def clzN : Nat → Nat → Nat
  | 0, _ => 0
  | n + 1, x => if x.testBit n then 0 else 1 + clzN n x

/-- Number of trailing zeros of an `n`-bit field. -/
def ctzN : Nat → Nat → Nat
  | 0, _ => 0
  | n + 1, x => if x % 2 = 1 then 0 else 1 + ctzN n (x / 2)

/-- Number of ones of an `n`-bit field. -/
def popcN : Nat → Nat → Nat
  | 0, _ => 0
  | n + 1, x => x % 2 + popcN n (x / 2)

/-- The least `i < n` (from `i`) with the property. -/
def leastFrom (p : Nat → Bool) : Nat → Nat → Option Nat
  | _, 0 => none
  | i, n + 1 => if p i then some i else leastFrom p (i + 1) n

/-- One bit step of a reflected CRC. -/
def crcStep (poly : Nat) : Nat → Nat → Nat
  | 0, c => c
  | n + 1, c => crcStep poly n (if c % 2 = 1 then (c / 2) ^^^ poly else c / 2)

/-- A reflected CRC over bytes, from a start value. -/
def crcBytes (poly : Nat) : Nat → List Byte → Nat
  | c, [] => c
  | c, b :: r => crcBytes poly (crcStep poly 8 (c ^^^ b.toNat)) r

/-- CRC-32C: polynomial 0x1EDC6F41 reflected, start and final complement (R276). -/
def crc32c (bs : List Byte) : Nat := crcBytes 0x82F63B78 0xFFFFFFFF bs ^^^ 0xFFFFFFFF

/-- An element of a vector replaced. -/
def vset {α : Type} {n : Nat} (v : Vector α n) (i : Fin n) (x : α) : Vector α n := v.set i.1 x i.2

/-- A list element replaced by a function of itself. -/
def listModify {α : Type} (f : α → α) : Nat → List α → List α
  | _, [] => []
  | 0, a :: r => f a :: r
  | n + 1, a :: r => a :: listModify f n r

end Sys2Proof.Machine
end

