-- ==== Sys2Proof/Machine/Flags.lean ====
section
/-! DEFINITION. Number formats and their arithmetic (chapter 4): exact values, one rounding, the FPFLAGS bits an operation raises
(R91 to R98), the estimates (R188), decode tables and the encode search (R99 to R104), the window sum (R107), block reduction
(R111). A flag set is NV 16, DZ 8, OF 4, UF 2, NX 1 (Table 4-4). -/
namespace Sys2Proof.Machine

/-- A floating-point format: exponent and fraction widths (Table 4-1). -/
structure Fmt where
  ebits : Nat
  fbits : Nat
  deriving DecidableEq, Repr

def binary64 : Fmt := ⟨11, 52⟩
def binary32 : Fmt := ⟨8, 23⟩
def binary16 : Fmt := ⟨5, 10⟩
def bfloat16 : Fmt := ⟨8, 7⟩
def e8m10 : Fmt := ⟨8, 10⟩

/-- Width in bits. -/
def Fmt.width (f : Fmt) : Nat := 1 + f.ebits + f.fbits
/-- Bias. -/
def Fmt.bias (f : Fmt) : Nat := 2 ^ (f.ebits - 1) - 1
/-- emax, the exponent field of infinities and NaNs. -/
def Fmt.emax (f : Fmt) : Nat := 2 ^ f.ebits - 1
/-- Canonical NaN (Table 4-1). -/
def Fmt.nan (f : Fmt) : Nat := f.emax * 2 ^ f.fbits + 2 ^ (f.fbits - 1)
/-- Weight exponent of the least subnormal. -/
def Fmt.emin (f : Fmt) : Int := 1 - (f.bias : Int) - f.fbits
/-- The sign bit in place. -/
def Fmt.signBit (f : Fmt) (neg : Bool) : Nat := if neg then 2 ^ (f.ebits + f.fbits) else 0
/-- An infinity. -/
def Fmt.infBits (f : Fmt) (neg : Bool) : Nat := f.signBit neg + f.emax * 2 ^ f.fbits

/-- A value: a NaN, an infinity, or ± m × 2^e. -/
inductive FVal where
  | nan (signalling : Bool)
  | inf (neg : Bool)
  | fin (neg : Bool) (m : Nat) (e : Int)
  deriving DecidableEq, Repr

/-- The value of a pattern (R91, R92). -/
def Fmt.value (f : Fmt) (x : Nat) : FVal :=
  let neg := x.testBit (f.ebits + f.fbits)
  let e := bitsOf x f.fbits f.ebits
  let m := bitsOf x 0 f.fbits
  if e = f.emax then (if m = 0 then .inf neg else .nan (!m.testBit (f.fbits - 1)))
  else if e = 0 then .fin neg m f.emin
  else .fin neg (2 ^ f.fbits + m) (f.emin + (e - 1 : Nat))

/-- A pattern and the flags raised. -/
structure FRes where
  bits : Nat
  flags : BitVec 5 := 0
  deriving DecidableEq, Repr

def flagNV : BitVec 5 := 16
def flagDZ : BitVec 5 := 8
def flagOF : BitVec 5 := 4
def flagUF : BitVec 5 := 2
def flagNX : BitVec 5 := 1

/-- Whether a magnitude `m + rest` (rest as `rem` of `half` twice) rounds up: 0 nearest even, 1 toward zero, 2 up, 3 down
(Table 4-3). -/
def roundsUp (mode : Nat) (neg : Bool) (m rem den : Nat) : Bool :=
  match mode with
  | 0 => decide (den < 2 * rem) || (decide (den = 2 * rem) && m % 2 == 1)
  | 1 => false
  | 2 => !neg && decide (rem ≠ 0)
  | _ => neg && decide (rem ≠ 0)

/-- m × 2^e as an integer multiple of 2^q, rounded; and whether it was inexact. -/
def roundAt (mode : Nat) (neg : Bool) (m : Nat) (e q : Int) : Nat × Bool :=
  if q ≤ e then (m * 2 ^ (e - q).toNat, false)
  else
    let den := 2 ^ (q - e).toNat
    (m / den + (if roundsUp mode neg (m / den) (m % den) den then 1 else 0), decide (m % den ≠ 0))

/-- Floor of log2 of m × 2^e. -/
def ilog (m : Nat) (e : Int) : Int := (Nat.log2 m : Int) + e

/-- A finite value rounded once to a format (R97), with OF, UF (tiny after rounding and inexact) and NX. -/
def Fmt.round (f : Fmt) (mode : Nat) (neg : Bool) (m : Nat) (e : Int) : FRes :=
  if m = 0 then ⟨f.signBit neg, 0⟩
  else
    let top := ilog m e
    let q := max (top - f.fbits) f.emin
    let (r, inexact) := roundAt mode neg m e q
    let enc := (q - f.emin).toNat * 2 ^ f.fbits + r
    if f.emax * 2 ^ f.fbits ≤ enc then
      let toInf := mode == 0 || (mode == 2 && !neg) || (mode == 3 && neg)
      ⟨if toInf then f.infBits neg else f.signBit neg + f.emax * 2 ^ f.fbits - 1, flagOF ||| flagNX⟩
    else
      let unb := roundAt mode neg m e (top - f.fbits)
      let tiny := decide (top < 1 - (f.bias : Int)) && !(decide (top = -(f.bias : Int)) && decide (unb.1 = 2 ^ (f.fbits + 1)))
      ⟨f.signBit neg + enc, (if inexact then flagNX else 0) ||| (if inexact && tiny then flagUF else 0)⟩

/-- Whether a value is a signalling NaN. -/
def FVal.signalling : FVal → Bool
  | .nan s => s
  | _ => false

/-- Whether a value is a NaN. -/
def FVal.isNan : FVal → Bool
  | .nan _ => true
  | _ => false

/-- The sign of a value; a NaN has none. -/
def FVal.neg : FVal → Bool
  | .nan _ => false
  | .inf n => n
  | .fin n _ _ => n

/-- A value with the other sign. -/
def FVal.flip : FVal → FVal
  | .nan s => .nan s
  | .inf n => .inf (!n)
  | .fin n m e => .fin (!n) m e

/-- The canonical NaN, with NV for a signalling operand or an invalid operation (R93, R98). -/
def Fmt.invalid (f : Fmt) (nv : Bool) : FRes := ⟨f.nan, if nv then flagNV else 0⟩

/-- A signed mantissa scaled to exponent `q ≤ e`. -/
def scaled (neg : Bool) (m : Nat) (e q : Int) : Int :=
  let x : Int := (m * 2 ^ (e - q).toNat : Nat)
  if neg then -x else x

/-- Conversion of a value to a format (R96): a NaN becomes the canonical NaN. -/
def Fmt.of (f : Fmt) (mode : Nat) : FVal → FRes
  | .nan s => f.invalid s
  | .inf n => ⟨f.infBits n, 0⟩
  | .fin n m e => f.round mode n m e

/-- Sum of two values, rounded once. -/
def Fmt.addV (f : Fmt) (mode : Nat) (a b : FVal) : FRes :=
  match a, b with
  | .nan s, y => f.invalid (s || y.signalling)
  | x, .nan s => f.invalid (s || x.signalling)
  | .inf n, .inf k => if n = k then ⟨f.infBits n, 0⟩ else f.invalid true
  | .inf n, .fin _ _ _ => ⟨f.infBits n, 0⟩
  | .fin _ _ _, .inf n => ⟨f.infBits n, 0⟩
  | .fin n m e, .fin n' m' e' =>
    let q := min e e'
    let t := scaled n m e q + scaled n' m' e' q
    if t = 0 then ⟨f.signBit (if m = 0 ∧ m' = 0 ∧ n = n' then n else mode == 3), 0⟩
    else f.round mode (decide (t < 0)) t.natAbs q

/-- Exact product of two values, and whether it is the invalid 0 × ∞ (R98). -/
def mulV (a b : FVal) : FVal × Bool :=
  match a, b with
  | .nan s, y => (.nan (s || y.signalling), false)
  | x, .nan s => (.nan (s || x.signalling), false)
  | .inf n, .inf k => (.inf (n != k), false)
  | .inf n, .fin k m _ => if m = 0 then (.nan true, true) else (.inf (n != k), false)
  | .fin k m _, .inf n => if m = 0 then (.nan true, true) else (.inf (n != k), false)
  | .fin n m e, .fin k m' e' => (.fin (n != k) (m * m') (e + e'), false)

/-- Addition of patterns of one format. -/
def Fmt.add (f : Fmt) (mode x y : Nat) : FRes := f.addV mode (f.value x) (f.value y)

/-- Subtraction. -/
def Fmt.sub (f : Fmt) (mode x y : Nat) : FRes := f.addV mode (f.value x) (f.value y).flip

/-- Multiplication. -/
def Fmt.mul (f : Fmt) (mode x y : Nat) : FRes := f.of mode (mulV (f.value x) (f.value y)).1

/-- a × b + c with one rounding; 0 × ∞ sets NV whatever c is (R98). -/
def Fmt.fmaV (f : Fmt) (mode : Nat) (a b c : FVal) : FRes :=
  let p := mulV a b
  if p.2 then f.invalid true else f.addV mode p.1 c

/-- Fused multiply-add of patterns. -/
def Fmt.fma (f : Fmt) (mode x y z : Nat) : FRes := f.fmaV mode (f.value x) (f.value y) (f.value z)

/-- Fused multiply-subtract of patterns. -/
def Fmt.fms (f : Fmt) (mode x y z : Nat) : FRes := f.fmaV mode (f.value x) (f.value y) (f.value z).flip

/-- An order key of a pattern that is no NaN: real order, with −0 equal to +0. -/
def Fmt.key (f : Fmt) (x : Nat) : Int :=
  let m : Int := (x % 2 ^ (f.ebits + f.fbits) : Nat)
  if x.testBit (f.ebits + f.fbits) then -m else m

/-- The lesser or the greater of two patterns (R187): −0 below +0, one NaN gives the other operand. -/
def Fmt.pick (f : Fmt) (greater : Bool) (x y : Nat) : FRes :=
  let a := f.value x
  let b := f.value y
  let nv : BitVec 5 := if a.signalling || b.signalling then flagNV else 0
  if a.isNan && b.isNan then ⟨f.nan, nv⟩
  else if a.isNan then ⟨y, nv⟩
  else if b.isNan then ⟨x, nv⟩
  else
    let kx := 2 * f.key x - (if a.neg then 1 else 0)
    let ky := 2 * f.key y - (if b.neg then 1 else 0)
    ⟨if (if greater then decide (ky ≤ kx) else decide (kx ≤ ky)) then x else y, 0⟩

/-- A comparison (R187): 0 eq, 1 lt, 2 le, 3 unordered; and its flags. -/
def Fmt.compare (f : Fmt) (cond x y : Nat) : Bool × BitVec 5 :=
  let a := f.value x
  let b := f.value y
  if a.isNan || b.isNan then
    (cond == 3, if a.signalling || b.signalling || cond == 1 || cond == 2 then flagNV else 0)
  else
    (match cond with
     | 0 => f.key x == f.key y
     | 1 => decide (f.key x < f.key y)
     | 2 => decide (f.key x ≤ f.key y)
     | _ => false, 0)

/-- Estimate of 1/a (R188). -/
def Fmt.recipEst (f : Fmt) (mode x : Nat) : FRes :=
  match f.value x with
  | .nan s => f.invalid s
  | .inf n => ⟨f.signBit n, 0⟩
  | .fin n m e =>
    if m = 0 then ⟨f.infBits n, flagDZ⟩
    else
      let l := Nat.log2 m
      let k := 2 * (m * 128 / 2 ^ l) + 1
      f.round mode n ((2 ^ 17 + k) / (2 * k)) (-8 - ((l : Int) + e))

/-- Estimate of 1/√a (R188). -/
def Fmt.rsqrtEst (f : Fmt) (mode x : Nat) : FRes :=
  match f.value x with
  | .nan s => f.invalid s
  | .inf n => if n then f.invalid true else ⟨f.signBit false, 0⟩
  | .fin n m e =>
    if m = 0 then ⟨f.infBits false, flagDZ⟩
    else if n then f.invalid true
    else
      let l := Nat.log2 m
      let ex := (l : Int) + e
      let odd := decide (ex % 2 = 1)
      let k := 2 * (m * (if odd then 128 else 64) / 2 ^ l) + 1
      let r := ((List.range 256).filter (fun i => decide ((2 * i + 1) * (2 * i + 1) * k ≤ 2 ^ 25))).length
      f.round mode false r (-8 - ((if odd then ex - 1 else ex) / 2))

/-- Float to integer (Table 4-2): rounded by mode, clamped to the bounds, NaN to 0; the low bits of the result. -/
def floatToInt (signed : Bool) (n mode : Nat) (v : FVal) : FRes :=
  let lo : Int := if signed then -(2 ^ (n - 1) : Nat) else 0
  let hi : Int := if signed then (2 ^ (n - 1) : Nat) - 1 else (2 ^ n : Nat) - 1
  match v with
  | .nan _ => ⟨0, flagNV⟩
  | .inf k => ⟨patternOf n (if k then lo else hi), flagNV⟩
  | .fin k m e =>
    let (r, inexact) := roundAt mode k m e 0
    let i : Int := if k then -(r : Int) else r
    if i < lo then ⟨patternOf n lo, flagNV⟩
    else if hi < i then ⟨patternOf n hi, flagNV⟩
    else ⟨patternOf n i, if inexact then flagNX else 0⟩

/-- An integer as a value. -/
def FVal.ofInt (i : Int) : FVal := .fin (decide (i < 0)) i.natAbs 0

/-! Decode tables. -/

/-- Classes of a table (R101). -/
inductive TblClass where
  | none
  | sm
  | ord
  deriving DecidableEq, Repr

/-- A table as its 256 entries: NC in bit 19, VALUE below (Table 4-5). -/
abbrev Tbl := List (BitVec 20)

/-- VALUE of an entry. -/
def Tbl.val (t : Tbl) (c : Nat) : Nat := (t.getD c 0).toNat % 2 ^ 19

/-- NC of an entry. -/
def Tbl.isNc (t : Tbl) (c : Nat) : Bool := (t.getD c 0).getLsbD 19

/-- Codes whose entry has NC. -/
def Tbl.ncCodes (t : Tbl) : List Nat := (List.range 256).filter t.isNc

/-- Whether an entry's value is a NaN. -/
def Tbl.nanAt (t : Tbl) (c : Nat) : Bool := (e8m10.value (t.val c)).isNan

/-- The table's NaN code, where it has one (R101). -/
def Tbl.nc (t : Tbl) : Option Nat :=
  match t.ncCodes with
  | [c] => if t.nanAt c then some c else none
  | _ => none

/-- Codes in increasing Signed(c) (R101). -/
def signedCodes : List Nat := (List.range 128).map (· + 128) ++ List.range 128

/-- Whether the values of a list of codes do not decrease. -/
def Tbl.rising (t : Tbl) : List Nat → Bool
  | a :: b :: r => decide (e8m10.key (t.val a) ≤ e8m10.key (t.val b)) && t.rising (b :: r)
  | _ => true

/-- The class of a table (R101). -/
def Tbl.cls (t : Tbl) : TblClass :=
  let bad := match t.ncCodes with
    | [] => false
    | [c] => !t.nanAt c
    | _ => true
  let sm := (List.range 128).all (fun c => !t.nanAt c && !(t.val c).testBit 18) && t.rising (List.range 128)
    && (List.range 128).all (fun m => t.nc == some (0x80 + m) && m == 0 || t.val (0x80 + m) == (t.val m ^^^ 2 ^ 18))
    && (t.nc == none || t.nc == some 0x80)
  let ordCodes := signedCodes.filter (fun c => t.nc != some c)
  let ord := ordCodes.all (fun c => !t.nanAt c) && t.rising ordCodes
  if bad then .none else if sm then .sm else if ord then .ord else .none

/-- Decode(t, c): the entry's value, never a fault (R100). -/
def Tbl.decode (t : Tbl) (c : Nat) : FVal := e8m10.value (t.val c)

/-- A real on a fixed scale of 2^-1200; infinities stand far outside. -/
def fixedReal : FVal → Int
  | .nan _ => 0
  | .inf n => if n then -(2 ^ 4000 : Nat) else (2 ^ 4000 : Nat)
  | .fin n m e => scaled n m e (-1200)

/-- The distance of R103; infinitely far is one value above every finite one. -/
def realDist (x y : Int) : Nat :=
  if x = y then 0
  else if x.natAbs = 2 ^ 4000 ∨ y.natAbs = 2 ^ 4000 then 2 ^ 5000
  else (x - y).natAbs

/-- The least element of a nonempty list of naturals. -/
def leastOf : List Nat → Nat
  | [] => 0
  | [a] => a
  | a :: r => min a (leastOf r)

/-- Those codes that have the property, or all of them if none has. -/
def preferCodes (p : Nat → Bool) (l : List Nat) : List Nat := if l.any p then l.filter p else l

/-- Encode(t, v) for a table whose class is not NONE (R103), with its flags (R104): a NaN that a table without a NaN code takes as +0 sets NV, and OF
or NX as +0 does. -/
def Tbl.encode (t : Tbl) (v : FVal) : FRes :=
  match (if v.isNan then t.nc else none) with
  | some c => ⟨c, flagNV⟩
  | none =>
    let nanFlag : BitVec 5 := if v.isNan then flagNV else 0
    let v' : FVal := if v.isNan then .fin false 0 0 else v
    let sm := t.cls == .sm
    let x := fixedReal (if sm && v'.neg then v'.flip else v')
    let xneg := !sm && v'.neg
    let l := if sm then List.range 128 else signedCodes.filter (fun c => t.nc != some c)
    let rv := fun c => fixedReal (t.decode c)
    let first := l.headD 0
    let last := l.getLastD 0
    let beyond := decide (rv last < x) || (!sm && decide (x < rv first))
    let finish := fun c => if sm && v'.neg && !(t.nc.isSome && c == 0) then c + 0x80 else c
    if beyond then
      match t.nc with
      | some c => ⟨c, nanFlag ||| flagOF⟩
      | none => ⟨finish (if rv last < x then last else first), nanFlag ||| flagOF⟩
    else
      let d := leastOf (l.map (fun c => realDist x (rv c)))
      let s0 := l.filter (fun c => realDist x (rv c) == d)
      let s1 := if d = 2 ^ 5000 then preferCodes (fun c => decide (rv c < 0) == xneg) s0 else s0
      let s2 := preferCodes (fun c => c % 2 == 0) s1
      let c := finish (s2.headD 0)
      ⟨c, nanFlag ||| (if rv c = fixedReal v' then 0 else flagNX)⟩

/-! Sums. -/

/-- WindowSum of four exact products (R107). -/
def windowSum (p : List FVal) : Nat :=
  let pos := p.any (fun v => v == .inf false)
  let neg := p.any (fun v => v == .inf true)
  if p.any FVal.isNan || (pos && neg) then binary64.nan
  else if pos then binary64.infBits false
  else if neg then binary64.infBits true
  else
    let nz := p.filterMap (fun v => match v with
      | .fin n m e => if m = 0 then none else some (n, m, e)
      | _ => none)
    match nz with
    | [] => binary64.signBit (p.all FVal.neg)
    | (_, m0, e0) :: _ =>
      let top := nz.foldl (fun t x => max t (ilog x.2.1 x.2.2)) (ilog m0 e0)
      let q := top - 60
      let w : Int := nz.foldl (fun a x =>
        let k : Int := ((roundAt 1 false x.2.1 x.2.2 q).1 : Nat)
        a + (if x.1 then -k else k)) 0
      (binary64.round 0 (decide (w < 0)) w.natAbs q).bits

/-- T of R111: the largest finite magnitude among the codes that Encode may return, on the fixed scale. -/
def Tbl.largest (t : Tbl) : Nat :=
  let l := if t.cls = .sm then List.range 128 else signedCodes.filter (fun c => t.nc != some c)
  l.foldl (fun m c => match t.decode c with
    | .fin n k e => max m (scaled n k e (-1200)).natAbs
    | _ => m) 0

/-- n of R111: the least integer with M / 2^n ≤ T, clamped to −126 … 127; the magnitudes on the fixed scale. -/
def blockExp (mag t : Nat) : Int :=
  if mag = 0 then 0
  else match leastFrom (fun k => decide (mag * 2 ^ 126 ≤ t * 2 ^ k)) 0 254 with
    | some k => (k : Int) - 126
    | none => 127

/-- A value divided by 2^n. -/
def FVal.scale (n : Int) : FVal → FVal
  | .fin s m e => .fin s m (e - n)
  | v => v

/-- Block reduction (R111): the codes of Z and the bfloat16 scale. -/
def Tbl.reduce (t : Tbl) (a b : List Nat) (sa sb : Nat) : List Nat × Nat :=
  let va := bfloat16.value sa
  let vb := bfloat16.value sb
  let z := List.zipWith (fun x y =>
    let p := mulV (t.decode x) va
    let q := mulV (t.decode y) vb
    let r := match p.1, q.1 with
      | .nan _, _ => FRes.mk e8m10.nan 0
      | _, .nan _ => FRes.mk e8m10.nan 0
      | u, w => e8m10.addV 0 u w
    e8m10.value r.bits) a b
  let mag := z.foldl (fun m v => match v with
    | .fin s k e => max m (scaled s k e (-1200)).natAbs
    | _ => m) 0
  let n := blockExp mag t.largest
  (z.map (fun v => (t.encode (v.scale n)).bits), (bfloat16.round 0 false 1 n).bits)

end Sys2Proof.Machine
end

