-- ==== Sys2Proof/Machine/Sparse.lean ====
section
/-! DEFINITION. Maps from numbers to plain data as lists in one canonical form: keys strictly rising. The memory drops an entry
that equals what an unlisted address reads as (log entry 2). -/
namespace Sys2Proof.Machine

/-- The value at key `a`, or `d` where the list has none. -/
def mapGet {α : Type} (d : α) : List (Nat × α) → Nat → α
  | [], _ => d
  | (k, v) :: r, a => if a = k then v else mapGet d r a

/-- The list with the value at key `a` replaced or added. -/
def mapPut {α : Type} (a : Nat) (x : α) : List (Nat × α) → List (Nat × α)
  | [] => [(a, x)]
  | (k, v) :: r => if a < k then (a, x) :: (k, v) :: r else if a = k then (a, x) :: r else (k, v) :: mapPut a x r

/-- The list without key `a`. -/
def mapDel {α : Type} (a : Nat) : List (Nat × α) → List (Nat × α)
  | [] => []
  | (k, v) :: r => if a = k then mapDel a r else (k, v) :: mapDel a r

/-- The value at key `a` where there is one. -/
def mapFind {α : Type} : List (Nat × α) → Nat → Option α
  | [], _ => none
  | (k, v) :: r, a => if a = k then some v else mapFind r a

/-- Keys strictly above `b`, strictly rising. -/
def keysFrom {α : Type} : Nat → List (Nat × α) → Bool
  | _, [] => true
  | b, (k, _) :: r => decide (b ≤ k) && keysFrom (k + 1) r

/-- Memory: bytes at physical addresses (R113). -/
abbrev Memory := List Host.Cell

/-- What an unlisted address reads as (log entry 2). -/
def Memory.unlisted : Byte := 0

/-- One byte of memory. -/
def Memory.read (m : Memory) (a : Nat) : Byte := mapGet Memory.unlisted m a

/-- One byte written, keeping the canonical form. -/
def Memory.write (m : Memory) (a : Nat) (x : Byte) : Memory :=
  if x = Memory.unlisted then mapDel a m else mapPut a x m

/-- The canonical form: addresses strictly rising and no entry equal to what an unlisted address reads as. -/
def Memory.wf (m : Memory) : Bool := keysFrom 0 m && m.all (fun c => c.2 != Memory.unlisted)

/-- A sorted set of numbers with one added. -/
def setAdd (a : Nat) : List Nat → List Nat
  | [] => [a]
  | k :: r => if a < k then a :: k :: r else if a = k then k :: r else k :: setAdd a r

/-- A set of numbers with one removed. -/
def setDel (a : Nat) : List Nat → List Nat
  | [] => []
  | k :: r => if a = k then setDel a r else k :: setDel a r

end Sys2Proof.Machine
end

