-- ==== Sys2Proof/Machine/State.lean ====
section
/-! DEFINITION. The state of the module as plain data: every register, memory, queue, engine, fabric element and service that the
spec gives it (INVENTORY.md lists them with their rules), the reasons a step can stop, and the state after reset. -/
namespace Sys2Proof.Machine

/-- Why the machine stops. -/
inductive Fault where
  /-- THERMAL_SHUTDOWN has removed the core supply from all dies (R424): nothing runs until a reset. Raised by `step`. Safe. -/
  | powerOff
  deriving DecidableEq, Repr

/-- Why a step has no meaning. -/
inductive Refusal where
  /-- An arm of `exec` that has no meaning yet. Safe. -/
  | notModelled (mnemonic : String)
  deriving DecidableEq, Repr

/-- Whose turn it is: a core issues, an element fires, a fabric tile goes on to its next cycle (R272), or a step of another agent takes
place (log entry 1). -/
inductive Turn where
  | issue (core : Fin 4096)
  | element (e : Fin 458752)
  | tile (f : Fin 65536)
  | event (i : Instr)
  deriving DecidableEq, Repr

/-- Fault causes (Table 20-4), by name; `causeCode` gives the codes. -/
inductive Cause where
  | illegal | priv | shortstall | align | bounds | perm | buserr | window | type | table | qport | taskcount
  | qformat | msgformat | barformat | trap | trapnum | notfrozen | pagefault | ptformat | mucmd | engformat
  | layout | dcmpdata | storage | fabcall | cfgformat | cfgcrc | tokalign | width | capacity | marker
  | quiesceStuck | barrierTimeout | deadlock | restart | linkdown | msglost | parity | eccerr | mcheck
  deriving DecidableEq, Repr

/-- A capability: 128 bits and the hidden tag (R118). -/
structure Cap where
  bits : BitVec 128 := 0
  tag : Bool := false
  deriving DecidableEq, Repr

/-- A register of a context that a result can be pending for (R145). -/
inductive RegId where
  | g (r : Fin 32)
  | v (r : Fin 32)
  | m (r : Fin 8)
  | k (r : Fin 16)
  deriving DecidableEq, Repr

/-- A register of a context with the value it receives; `vlo` is the lower half of a v register (R173), `flags` are FPFLAGS bits
that are set, never cleared (R98). -/
inductive RegWrite where
  | g (r : Fin 32) (x : Dword)
  | v (r : Fin 32) (x : VReg)
  | vlo (r : Fin 32) (x : BitVec 512)
  | m (r : Fin 8) (x : Mask)
  | k (r : Fin 16) (c : Cap)
  | flags (x : BitVec 5)
  deriving DecidableEq, Repr

/-- A fixed-latency result that is due at a cycle of its core, with the STALLCHK rule it was issued under and its latency (R143, R144,
R348). -/
structure FixedPend where
  write : RegWrite
  due : Nat
  chk : Bool
  lat : Nat
  deriving DecidableEq, Repr

/-- A variable-latency result: the register, and its value once it is known (R145, R146). -/
structure VarPend where
  reg : RegId
  val : Option RegWrite
  deriving DecidableEq, Repr

/-- A store in a store buffer (R127): where, what, which of the bytes it writes (bit i of `mask` for byte i), the tag it leaves on
the granule, and what an imprecise record would name. -/
structure StoreEntry where
  pa : Nat
  bytes : List Byte
  mask : Nat
  tag : Bool
  va : VAddr
  pc : VAddr
  release : Option Nat
  deriving DecidableEq, Repr

/-- A fault record before it is posted (Table 20-5): `who` is the actor that it names, by quad and index, and `ctx` the context whose TRAPCAUSE,
TRAPPC and TRAPVAL its posting sets (R369). -/
structure FaultRec where
  cause : Cause
  src : Nat := 0
  aux : Nat := 0
  who : Option (Nat × Nat) := none
  ans : Bool := false
  imp : Bool := false
  addr : Dword := 0
  place : Dword := 0
  ctx : Option (Nat × Fin 4) := none
  task : BitVec 256 := 0
  deriving DecidableEq, Repr

/-- Why a context does not issue (R55, R350, R372). -/
inductive Wait where
  | none
  /-- A scoreboard wait for a register with a result pending (R145). -/
  | reg (r : RegId)
  /-- A scoreboard wait for room, for earlier work to finish or for a line's full/empty bit. -/
  | resource
  /-- A pop that finds no item and is covered by no reservation. -/
  | pop
  /-- A barrier wait, with the cycle in which its timeout has run, the barrier's place and the generation that has to pass (R249). -/
  | barrier (deadline : Option Nat) (pa : Nat) (gen : BitVec 32)
  /-- A wait on a signal: its place and the value that it has to reach (R250). -/
  | signal (pa : Nat) (least : Dword)
  /-- A wait for a fabric call's result (R297). -/
  | call
  /-- A translation miss (R367). -/
  | miss
  /-- A fault wait; the records still to be pushed where the exception queue was full, the oldest first (R372). -/
  | fault (pending : List FaultRec)
  /-- A trap wait (R350). -/
  | trap
  deriving DecidableEq, Repr

/-- What a context runs (R40, R43, R59). A task record is 256 bits (Table 2-2). -/
inductive Run where
  | free
  | firing (rec : BitVec 256)
  | task (rec : BitVec 256)
  | handler (entry : Fin 4) (words : Nat) (sender : Nat) (savedK15 : Cap)
  deriving DecidableEq, Repr

/-- An item or a slot held in place through a q register (R233, R234). -/
structure Hold where
  q : Fin 16
  queue : Nat
  producer : Bool
  urgent : Bool
  index : BitVec 32
  type : BitVec 8
  deriving DecidableEq, Repr

/-- One hardware context (Table 6-5, Table 19-3). `missCause` is a failed walk that the replayed instruction is still to meet, with its
virtual page (R366, R367); `trapped` says that the context is in a trap wait, which lasts behind a fault wait of its repetition sequence (R204,
R350); `idBits` is what a region 0x03 write put into CTXID (R341); `word` is the word that was fetched last (R373);
`feWait` is a full/empty access that waits: its line, the state it waits for and its place in the order of arrival (R80). -/
structure Ctx where
  g : Vector Dword 32 := Vector.replicate 32 0
  v : Vector VReg 32 := Vector.replicate 32 0
  m : Vector Mask 8 := Vector.replicate 8 0
  k : Vector Cap 16 := Vector.replicate 16 {}
  q : Vector (BitVec 16) 16 := Vector.replicate 16 0
  pc : VAddr := 0
  fpmode : BitVec 2 := 0
  fpflags : BitVec 5 := 0
  stallchk : Bool := false
  landctl : BitVec 16 := 0
  repRep : BitVec 16 := 0
  repIdx : BitVec 4 := 0
  repPend : Bool := false
  trapCause : BitVec 8 := 0
  trapPc : Dword := 0
  trapVal : Dword := 0
  run : Run := .free
  wait : Wait := .none
  waited : Nat := 0
  since : Option Nat := none
  readyAt : Nat := 0
  fixed : List FixedPend := []
  vars : List VarPend := []
  stores : List StoreEntry := []
  holds : List Hold := []
  stopped : Bool := false
  atCkpt : Bool := false
  forced : Bool := false
  missCause : Option (Nat × Cause) := none
  idBits : Option Dword := none
  word : Option (BitVec 32) := none
  feWait : Option (Nat × Bool × Nat) := none
  trapped : Bool := false
  deriving DecidableEq, Repr

/-- A command in the matrix unit's queue (R206, R207). -/
structure MuEntry where
  seq : BitVec 16
  words : List Dword
  ctx : Fin 4
  begun : Bool
  deriving DecidableEq, Repr

/-- What BSEL and TBLSEL set (Table 9-1). -/
structure MuSel where
  bfmt : Fin 8 := 0
  boff : Nat := 0
  atbl : Fin 4 := 0
  btbl : Fin 4 := 0
  stbl : Fin 4 := 0
  deriving DecidableEq, Repr

/-- The matrix unit of a core (Table 9-1): accumulator element (i, j) of tile t at 256 t + 16 i + j, entry c of table t at
256 t + c with NC in bit 19. `accepted` is what the last BSEL and TBLSEL accepted left (R209), `done` counts towards MSIG; the command
that has begun occupies the unit up to the core's cycle `busyTo` (R433). -/
structure Mu where
  acc : List (Nat × Dword) := []
  ovf : BitVec 8 := 0
  tbl : List (Nat × BitVec 20) := []
  sel : MuSel := {}
  accepted : MuSel := {}
  queue : List MuEntry := []
  nextSeq : BitVec 16 := 0
  err : BitVec 8 := 0
  done : Nat := 0
  busyTo : Nat := 0
  deriving DecidableEq, Repr

/-- An active message: sender, number of handler words, bytes (R240). -/
structure Msg where
  sender : Nat
  words : Nat
  bytes : List Byte
  deriving DecidableEq, Repr

/-- A message that is still arriving over a link (R241): what has come of it, the port, and the receiving core's cycle of its last beat; `cut` says
that the link has failed while it was crossing it. -/
structure PartMsg where
  msg : Msg
  port : Fin 12
  beat : Nat
  cut : Bool := false
  deriving DecidableEq, Repr

/-- A message in an inbox entry: sender, number of handler words, length (R58, R59). Its bytes stand at `inboxBase`. -/
structure InboxEntry where
  sender : Nat
  words : Nat
  len : Nat
  deriving DecidableEq, Repr

/-- A thief (R52, R54): the ring and the victims it has asked in it, failed passes, the end of a back-off, a request on its
way, and the reply that came back. -/
structure Steal where
  ring : Nat := 0
  asked : List Nat := []
  failed : Nat := 0
  backoffEnd : Option Nat := none
  victim : Option Nat := none
  reply : Option (Option (BitVec 256)) := none
  deriving DecidableEq, Repr

/-- A repetition sequence (R201 to R204): the captured words, the renaming window, the count and the next position; `stopped` by a fault,
`saved` with its context at a pre-emption. -/
structure RepSeq where
  ctx : Fin 4
  pc : VAddr
  words : List Nat
  count : Nat
  base : Nat
  len : Nat
  stride : Nat
  rep : Nat := 0
  idx : Nat := 0
  stopped : Bool := false
  saved : Bool := false
  readyAt : Nat := 0
  deriving DecidableEq, Repr

/-- A translation that a buffer holds (R362, R364): pages of `size` bytes at `va` map to `pa`; `pte` is the entry it came from. -/
structure Xlat where
  job : Nat
  va : Nat
  size : Nat
  pa : Nat
  effect : Bool
  dirty : Bool
  pte : Nat
  deriving DecidableEq, Repr

/-- One core (R20). `left` says that the running context has met a stall event since the core switched to it, so that the core picks again
(R56). `deque` is the hardware part of its deque, bottom first, at most 64 records; `spilled` more stand in the overflow ring of its
scratchpad slice (R48). -/
structure Core where
  clock : Nat := 0
  timerOff : Dword := 0
  running : Fin 4 := 0
  left : Bool := false
  ctxs : Vector Ctx 4 := Vector.replicate 4 {}
  halted : Bool := false
  mu : Mu := {}
  deque : List (BitVec 256) := []
  spilled : Nat := 0
  pending : List (BitVec 256) := []
  decs : List Dword := []
  urgRun : Nat := 0
  botRun : Nat := 0
  inbox : Vector (Option InboxEntry) 4 := Vector.replicate 4 none
  order : List (Fin 4) := []
  net : List Msg := []
  outbox : List (Nat × Msg) := []
  parts : List PartMsg := []
  steal : Steal := {}
  tlb : List Xlat := []
  rep : Option RepSeq := none
  accMask : BitVec 8 := 0
  saved : Bool := false
  deriving DecidableEq, Repr

/-- Which work a record that awaits an answer holds (R371). -/
inductive Holder where
  | context (core : Nat) (ctx : Fin 4)
  | sequence (core : Nat) (ctx : Fin 4)
  | marker (actor : Nat)
  | stuck (ref : HoldRef) (mkid : BitVec 32)
  | stuckAt (e : Nat) (port : Fin 4)
  | exit
  deriving DecidableEq, Repr

/-- A fault record that awaits its answer. -/
structure Awaiting where
  rid : BitVec 16
  cause : Cause
  holder : Holder
  deriving DecidableEq, Repr

/-- A tile's exception side (R370 to R372): its queues, reports waiting for room (16), records lost, next RID, records that
await an answer. -/
structure ExSide where
  exq : Nat := 0
  ansq : Nat := 0
  reports : List FaultRec := []
  lost : Nat := 0
  nextRid : BitVec 16 := 0
  awaiting : List Awaiting := []
  deriving DecidableEq, Repr

/-- Where an actor stands with a marker (R88): it drains its firings, it has moved the marker and is to post its record, or it waits for the
runtime's answer. -/
inductive MarkHold where
  | none
  | draining (mkid : BitVec 32)
  | moved (mkid : BitVec 32)
  | held (mkid : BitVec 32)
  deriving DecidableEq, Repr

/-- An actor of a core tile (Table 2-1) with the counts kept for it (R37, R44, R62, R82, R88, R89). `mismatch` names the input
whose head item has been reported; `oneSided` is the cycle from which a marker has stood at some input without the others. -/
structure ActorSt where
  decl : ActorDecl
  inFlight : Nat := 0
  fired : BitVec 32 := 0
  aborts : BitVec 32 := 0
  hold : MarkHold := .none
  direct : Option (BitVec 32) := none
  mismatch : List (Nat × BitVec 32) := []
  oneSided : Option Nat := none
  deriving DecidableEq, Repr

/-- The tile program of a quad (R28, R31, R340): job, level, code capability, actors, overflow ring size, exception side. -/
structure Tile where
  job : Nat
  priv : Fin 3
  code : Cap
  actors : List ActorSt := []
  ring : Nat := 4096
  ex : ExSide := {}
  releasing : Bool := false
  deriving DecidableEq, Repr

/-- One quad (R19): its tile, its state registers (Table 19-3), its firing unit (R38), TILECTL and TILESAVE (Table 21-6), and the words that its
instruction cache holds, the newest first (R19, R125). -/
structure Quad where
  tile : Option Tile := none
  quiesceTo : Dword := 16777216
  permits : Bool := false
  trapTbl : Vector (BitVec 18) 16 := Vector.replicate 16 0
  ckptTbl : Dword := 0
  mintBase : Dword := 0
  mintLen : Dword := 0
  mintPerm : BitVec 8 := 0
  target : Bool := false
  ctlState : Fin 4 := 0
  forced : Bool := false
  heldTarget : Option Bool := none
  heldBy : Writer := .outside
  saveBase : BitVec 31 := 0
  savedLines : List Nat := []
  preemptAt : Nat := 0
  lastUrg : Nat := 63
  lastNorm : Nat := 63
  urgRun : Nat := 0
  icache : List (Nat × BitVec 32) := []
  deriving DecidableEq, Repr

/-- Who makes an access that is translated (R364); the accesses of an engine are told apart by the row that they serve (R263, R366). -/
inductive Agent where
  | context (core : Nat) (ctx : Fin 4)
  | engine (q row : Nat)
  | element (e : Nat) (ctx : Fin 4)
  | fabric (f : Nat)
  | manager (q : Nat)
  deriving DecidableEq, Repr

/-- A miss-merging entry (R364 to R366): its page, the job, the kind and the address of the first access, the request it waits on, who waits. -/
structure Miss where
  vpage : Nat
  job : Nat
  kind : Fin 4
  va : Nat
  rid : Option (BitVec 16) := none
  clients : List Agent := []
  deriving DecidableEq, Repr

/-- One island: translation buffer, misses, failed walks (agent, virtual page, cause) that their agents have not yet met, queue manager and clock bins (R364, R376, R420,
R421). `sweepOk` is what the last at-speed sweep found, at `sweptAt`, and `busyAt` the real time at which a firing, handler, call or engine entry of
the island last ended (R419). -/
structure Island where
  tlb : List Xlat := []
  misses : List Miss := []
  failed : List (Agent × Nat × Cause) := []
  nextRid : BitVec 16 := 0
  slots : List (Nat × Nat) := []
  busy : Option (Fin 256 × Bool × Nat) := none
  qmErr : BitVec 8 := 0
  qmSlot : Fin 256 := 0
  qmCmd : Dword := 0
  marginBin : Nat := 54
  powerBin : Nat := 54
  retired : Bool := false
  sweptAt : Nat := 0
  sweepOk : Option Bool := none
  busyAt : Nat := 0
  raisedAt : Nat := 0
  deriving DecidableEq, Repr

/-- The security controller of a die (R412, R414 to R416). `keys` are the four key slots: the fused digests of the ECDSA and of the HSS key, the keys of
the boot flash, and whether the slot is revoked (log entry 95). -/
structure Sec where
  cmd : Dword := 0
  busy : Bool := false
  owner : BitVec 12 := 0
  res : BitVec 8 := 0
  pendRes : Option (BitVec 8) := none
  seq : BitVec 16 := 0
  scres : Dword := 0
  buf : List (Nat × Byte) := []
  mregs : Vector (List Byte) 8 := Vector.replicate 8 (List.replicate 48 0)
  log : List (List Byte × Nat × BitVec 16) := []
  hssIndex : Nat := 0
  keys : List (List Byte × List Byte × List Byte × List Byte × Bool) :=
    (List.range 4).map (fun i => (Config.fusedDigest i false, Config.fusedDigest i true, Config.flashKey i false, Config.flashKey i true, false))
  svnMin : List (Nat × Nat) := []
  handedOver : Bool := false
  deriving DecidableEq, Repr

/-- One die: partition, arbor column, freeze, firewall, stall images accepted, security controller, supply (R342, R343, R345, R354,
R410, R420). STOP of FRZSTAT is
the TIMER of the core that reads it, so `stops` holds it by core; `scan` tells one freeze from another (R355). `cfgReg` and `idReg` are the
registers ARBORCFG and PARTID as a region 0x03 write leaves them (R341), while the firewall and the partition in force stay (R343, R345). `refused`
says that the die's Irfin was refused (Table 23-1); `peak` is the highest junction temperature met, in °C (R422). -/
structure Die where
  dies : BitVec 4 := 15
  part : Fin 4 := 0
  col : Fin 4 := 0
  widthM1 : Fin 4 := 0
  fallback : Bool := true
  cfgReg : BitVec 5 := 16
  idReg : BitVec 8 := 0xF0
  roles : Vector (Fin 16) 32 := Vector.replicate 32 0
  dbg : Bool := false
  fwLock : Bool := false
  started : Bool := false
  refused : Bool := false
  peak : Nat := 0
  frozen : Bool := false
  stop : BitVec 63 := 0
  stops : List (Nat × BitVec 63) := []
  scan : Nat := 0
  freezeAt : Option (Nat × Nat) := none
  stalls : BitVec 5 := 0
  sec : Sec := {}
  supply : Nat := 650
  deriving DecidableEq, Repr

/-- A flash mapping (R401 FLASHMAP, R402). -/
structure FlashMap where
  va : Nat
  len : Nat
  port : Bool
  ns : Nat
  lba : Nat
  deriving DecidableEq, Repr

/-- A job: page-table root, partition, HBM quota, flash mappings (R359, R401, R402), and the job capabilities that its first tile brought (R156). -/
structure Job where
  root : Nat := 0
  part : Fin 4 := 0
  quota : Dword := 0
  flash : List FlashMap := []
  caps : Option (List JobCap) := none
  deriving DecidableEq, Repr

/-- Who holds a port of a queue. -/
inductive Owner where
  | tile (t : TileRef)
  | engine (q : Nat)
  | stall (part kind : Nat)
  | host
  | peer (m : Nat)
  /-- The device itself: it takes the answers of a tile (R371). -/
  | device
  deriving DecidableEq, Repr

/-- A consumer port (R70, R57): its head indices, the urgent takes in a row, and the items taken ahead of the heads. -/
structure ConsPort where
  owner : Owner
  headN : BitVec 32
  headU : BitVec 32
  urgRun : Nat := 0
  taken : List (Bool × BitVec 32) := []
  deriving DecidableEq, Repr

/-- A producer port (R74, R75, R405): remote or local, window, items whose slots are not yet free, items the home accepted; `failed` says that its
link has failed and that it is not yet recovered. -/
structure ProdPort where
  owner : Owner
  remote : Bool
  window : Nat
  used : Nat := 0
  accepted : Nat := 0
  link : Option (Fin 12) := none
  failed : Bool := false
  deriving DecidableEq, Repr

/-- The firing a reservation belongs to: quad, actor and SEQ (R37). -/
structure FiringKey where
  quad : Nat
  actor : Nat
  seq : BitVec 32
  deriving DecidableEq, Repr

/-- An item reserved for a firing: consumer port, lane and index. -/
structure ItemResv where
  key : FiringKey
  cons : Nat
  urgent : Bool
  index : BitVec 32
  deriving DecidableEq, Repr

/-- Slots reserved for a firing on one producer port (R37). -/
structure SlotResv where
  key : FiringKey
  port : Nat
  left : Nat
  deriving DecidableEq, Repr

/-- An item on its way from a remote producer port to the home (R75, R76), with the core and context that pushed it (R77); `unsent` says that it was
pushed while its port's link was failed, so that it leaves when the port is recovered (R405). -/
structure InFlight where
  port : Nat
  urgent : Bool
  kind : Fin 4
  type : BitVec 8
  mkid : BitVec 32
  bytes : List Byte
  src : Option (Nat × Fin 4) := none
  unsent : Bool := false
  deriving DecidableEq, Repr

/-- A queue (R67 to R79, R378, R398). Ring bytes stand in memory (R69) on the physical pages that creation found (R67). `owners`
tells which producer port filled a slot that is not yet free, `marks` the urgent tail when a marker or wait entry went into the
normal lane (R78). `far` names the home of a queue on another module, of which only the producer ports stand here (R83, R404): its peer index
and its identifier there; its tail counts the slots sent from here and its free index those credited. `unparkedAt` is the real time at which it was last
found not parked (R381). -/
structure Queue where
  job : Nat
  desc : BitVec 128
  pages : List (Nat × Nat) := []
  marks : List (BitVec 32 × BitVec 32) := []
  tailN : BitVec 32 := 0
  tailU : BitVec 32 := 0
  freeN : BitVec 32 := 0
  freeU : BitVec 32 := 0
  cons : List ConsPort := []
  prods : List ProdPort := []
  owners : List (Bool × BitVec 32 × Nat) := []
  items : List ItemResv := []
  slots : List SlotResv := []
  heldItems : List (Nat × Bool × BitVec 32) := []
  heldSlots : List (Nat × BitVec 32) := []
  inflight : List InFlight := []
  acks : List Nat := []
  mapped : Option (Nat × Nat) := none
  wanted : Bool := false
  block : Nat := 0
  note : Dword := 0
  wake : Bool := false
  unparkedAt : Nat := 0
  hostProducer : Option (BitVec 11) := none
  hostConsumer : Option (BitVec 11) := none
  far : Option (Fin 16 × BitVec 16) := none
  lastUse : Nat := 0
  deriving DecidableEq, Repr

/-- Who gets an engine entry's status word (R146, R264): a g register of a context, or an element's transfer port. -/
inductive StatusTo where
  | reg (core : Nat) (ctx : Fin 4) (r : Fin 32)
  | element (e : Nat) (ctx : Fin 4) (queue : Nat)
  deriving DecidableEq, Repr

/-- The engine operations of Table 11-3 and R264. -/
inductive EngOp where
  | cp | cpg | cps | lay | dcmp
  deriving DecidableEq, Repr

/-- A request in an engine queue (R254, R256): its image dwords, capabilities and owner, the wait entry of a `qfence`, or a
marker (R253). -/
inductive EngEntry where
  | request (op : EngOp) (img : List Dword) (src dst : Cap) (dest : StatusTo) (tile : TileRef) (seq : BitVec 16)
  | wait (bytes : List Byte) (tile : TileRef)
  | marker (mkid : BitVec 32)
  deriving DecidableEq, Repr

/-- The entry an engine has begun (R257, R260, R263): bytes delivered, code of the cause that stopped it and the address, the bytes
to be delivered once they are known and how many of them, offsets of the granules whose tags move along (R120), whether the copy
order is decreasing, the bytes of the source read so far, each once (R123, R261); of a gather or scatter the indices read, the rows returned, the bytes written of rows whose write is held, and the rows
retired. -/
structure EngBusy where
  done : Nat := 0
  err : BitVec 8 := 0
  addr : Nat := 0
  data : Option (List Byte) := none
  limit : Nat := 0
  tags : List Nat := []
  down : Bool := false
  part : List Byte := []
  indices : List Nat := []
  returned : List Nat := []
  begun : List (Nat × Nat) := []
  retired : Nat := 0
  deriving DecidableEq, Repr

/-- One engine queue (R251, R253, R259): its entries, how many it has taken in all, slots that firings hold reserved (R37), and the
queues and ports that it has pushed into since the last marker (R253). -/
structure EngQueue where
  entries : List EngEntry := []
  tail : BitVec 32 := 0
  slots : List SlotResv := []
  nextSeq : BitVec 16 := 0
  lastErr : BitVec 8 := 0
  busy : Option EngBusy := none
  dests : List (Nat × Nat) := []
  deriving DecidableEq, Repr

/-- A fabric token: kind and 64 bits (Table 12-1), with the cycle of its tile from which it can be consumed (R272). -/
structure Tok where
  kind : Fin 8
  data : Dword
  arrival : Nat := 0
  deriving DecidableEq, Repr

/-- What an operation of a word keeps between firings (R286, R287, R289, R293): LOOP state, the kept token, whether the primed firing
is still to come, positions in the two fibres, the next value of a run, tokens collected. -/
structure WordSt where
  loop : Bool := false
  kept : Dword := 0
  primed : Bool := false
  ia : Nat := 0
  ib : Nat := 0
  gen : Option Nat := none
  xfer : List Dword := []
  deriving DecidableEq, Repr

/-- A status token of an `xfer` still to leave (R293): its request by engine queue and sequence number, the word's destination with its
local register, and the word once the request is performed. -/
structure ElStatus where
  queue : Nat
  seq : BitVec 16
  dst : Fin 8
  reg : Fin 32
  word : Option Dword
  deriving DecidableEq, Repr

/-- One context of an element (R148, R275, R279, R287 to R293, R298, R299): its configuration, with the FIFOs that a grove binds as
inputs and whether these are int16; then what moves as it fires. `parked` says that the port has accepted an access which is still to be
performed, `woken` that its translation has come, or that it waits for something else than one (R134). A node record is reset with SRCA and SRCB 7 (Table 13-3). -/
structure ElCtx where
  words : Vector (BitVec 32) 16 := Vector.replicate 16 0xFFFE0000
  ctlw : Dword := 0
  routes : Vector (BitVec 16) 4 := Vector.replicate 4 0
  node0 : Dword := 0xFC000000000
  node1 : Dword := 0xFC000000000
  bound : BitVec 4 := 0
  int16 : Bool := false
  armed : Bool := false
  wpc : Nat := 0
  t : Dword := 0
  parked : Bool := false
  woken : Bool := false
  wst : List (Nat × WordSt) := []
  statuses : List ElStatus := []
  deriving DecidableEq, Repr

/-- A marker that an element holds (R294): a context whose word at WPC it heads a source of, and the source; the quad of the call in
progress when it became held; the cycles it has waited in calls, and the cycle from which it waits in the present one. -/
structure ElHold where
  ctx : Fin 4
  port : Fin 4
  quad : Nat
  waited : Nat := 0
  since : Option Nat := none
  deriving DecidableEq, Repr

/-- A control token (R270), with the cycle of its tile from which it can be consumed (R272). -/
structure CtlTok where
  bit : Bool
  arrival : Nat := 0
  deriving DecidableEq, Repr

/-- One element (R270): local registers, FIFOs N E S W and control FIFO with the tokens on their way to them (R272), four contexts, the
markers that it holds, one for each FIFO (R294), and the cycle of its tile from which it may fire again (R279, R282). -/
structure Element where
  l : Vector Dword 32 := Vector.replicate 32 0
  fifos : Vector (List Tok) 4 := Vector.replicate 4 []
  ctl : List CtlTok := []
  ctxs : Vector ElCtx 4 := Vector.replicate 4 {}
  running : Fin 4 := 0
  holds : List ElHold := []
  free : Nat := 0
  deriving DecidableEq, Repr

/-- A request in a fabric tile's call queue (R296, R310, R356), with its place among them. -/
inductive FabReq where
  | call (seq : BitVec 16) (arm : BitVec 4) (ops : List Dword) (caps : List Cap) (caller : TileRef)
  | grove (seq : BitVec 16) (dest : StatusTo) (cap : Cap) (len : Nat) (caller : TileRef)
  | stage (seq : BitVec 16) (dest : StatusTo) (ctx : Fin 4) (cap : Cap) (caller : TileRef)
  | commit (seq : BitVec 16) (dest : StatusTo) (ctx : Fin 4) (caller : TileRef)
  | discard (seq : BitVec 16) (dest : StatusTo) (ctx : Fin 4) (caller : TileRef)
  deriving DecidableEq, Repr

/-- A queued `prune` (R389), which does not wait behind the call queue. -/
structure PruneReq where
  seq : BitVec 16
  dest : StatusTo
  widthM1 : Fin 8
  heightM1 : Fin 8
  fold : Fin 4
  cap : Cap
  caller : TileRef
  deriving DecidableEq, Repr

/-- The call in progress (R296, R297): `ops` are operands still to be injected, with their ENTRY slots; `ending` says that a done
token has been sent on EXIT. -/
structure Call where
  seq : BitVec 16
  caller : TileRef
  arm : BitVec 4
  ops : List (Nat × Dword) := []
  done : Nat := 0
  err : BitVec 8 := 0
  ending : Bool := false
  deriving DecidableEq, Repr

/-- Staged configurations of an image (R278, R356, R390): its CTXMASK, slots, SPLICE and the capability that read it, none where the loading stall
did, how many records it has, the blocks
staged (8 row + column), the configuration of element and context 4e + c, and the initial local registers of elements (R275). -/
structure Staged where
  mask : BitVec 4
  slots : List (BitVec 16)
  splice : Nat
  cap : Option Cap
  nblk : Nat
  blocks : List Nat := []
  cfg : List (Nat × ElCtx) := []
  regs : List (Nat × Vector Dword 32) := []
  deriving DecidableEq, Repr

/-- A guest moved onto a host (Table 21-9). Elements are numbered in the module (R21). -/
structure FoldMove where
  host : Nat
  hctx : Fin 4
  guest : Nat
  gctx : Fin 4
  lbase : Nat
  pmap : Nat
  deriving DecidableEq, Repr

/-- A fold that a tile holds (R389): the extent and slots before, the moves, and the elements, images with their registers
and CTXMASK as they stood before. -/
structure Fold where
  widthM1 : Fin 8
  heightM1 : Fin 8
  slots : List (BitVec 16)
  moves : List FoldMove
  before : List (Nat × Element)
  image : List (Nat × ElCtx)
  imageRegs : List (Nat × Vector Dword 32)
  ctxMask : BitVec 4
  deriving DecidableEq, Repr

/-- A fabric tile (R28, R275 to R278, R294 to R297, R389, R390). ENTRY0 to ENTRY5 and EXIT are 16-bit slots (Table 12-4). `image` holds
the committed configuration of element and context 4e + c and `imageRegs` the initial local registers of elements (R374), `regraft` the blocks to be installed from it again. `callSeq` counts its calls and loads (R296, R312),
`nextSeq` all requests of its call queue (Table 6-4). `spliceCall` says that the call in progress began while a splice was pending, `splicing` that the wavefront has started, `folding` that
the region stands frozen while a fold image is read (R389).
`cycle` counts the cycles of its elements (R272). -/
structure FabTile where
  job : Nat
  widthM1 : Fin 8
  heightM1 : Fin 8
  ctxMask : BitVec 4 := 0
  groveMask : BitVec 4 := 0
  slots : List (BitVec 16) := List.replicate 7 0
  ex : ExSide := {}
  queue : List FabReq := []
  prunes : List PruneReq := []
  call : Option Call := none
  caps : Vector Cap 4 := Vector.replicate 4 {}
  callSeq : BitVec 16 := 0
  nextSeq : BitVec 16 := 0
  history : List (BitVec 16 × Dword) := []
  staged : Vector (Option Staged) 4 := Vector.replicate 4 none
  committing : Option (Fin 4) := none
  image : List (Nat × ElCtx) := []
  imageRegs : List (Nat × Vector Dword 32) := []
  splice : Option Staged := none
  spliceCall : Bool := false
  splicing : Bool := false
  folding : Bool := false
  exitQ : List Tok := []
  hold : Option (BitVec 32) := none
  folds : List Fold := []
  regraft : List Nat := []
  cycle : Nat := 0
  releasing : Bool := false
  deriving DecidableEq, Repr

/-- One submission and completion ring pair (Table 22-1, R401): its registers, indices, the PHASE of the next completion and the
entries begun and not yet completed. -/
structure Ring where
  sqBase : Dword := 0
  cqBase : Dword := 0
  cfg : Dword := 0
  sqTail : BitVec 32 := 0
  sqHead : BitVec 32 := 0
  cqHead : BitVec 32 := 0
  cqTail : BitVec 32 := 0
  phase : Bool := true
  begun : List (List Dword) := []
  deriving DecidableEq, Repr

/-- The host side (R394 to R400): rings, notify copies, MSI-X vectors outstanding, lines a host cache may hold, writes that wait
on a snoop, trained width and rate, SPDM responses given with the transcripts of the connection, of certificates and of measurements (R418), and what
the host's AtomicOps returned. -/
structure HostSide where
  rings : Vector Ring 8 := Vector.replicate 8 {}
  msixBusy : List Nat := []
  msixSent : List Nat := []
  notifySeen : List (Nat × Dword) := []
  tracked : List Nat := []
  modified : List Nat := []
  snooped : List Nat := []
  width : Nat := 0
  rate : Nat := 0
  spdm : List (List Byte) := []
  spdmAlgs : Bool := false
  vca : List Byte := []
  spdmB : List Byte := []
  spdmL : List Byte := []
  answers : List Dword := []
  deriving DecidableEq, Repr

/-- One Hjelli Link port (R403): the real time of the last flit, what has arrived of a unit, responses that came, the number of the next flit to be
sent, the flits sent, and those of them kept for replay. -/
structure LinkPort where
  up : Bool := false
  rxSeq : BitVec 16 := 0
  replays : Nat := 0
  replayFrom : Option (BitVec 16) := none
  heard : Nat := 0
  partUnit : List Byte := []
  responses : List (BitVec 16 × List Byte) := []
  txSeq : BitVec 16 := 0
  sent : List Flit := []
  kept : List Flit := []
  deriving DecidableEq, Repr

/-- What LINKCFG sets for a peer (R401, R404). -/
structure Peer where
  mask : BitVec 12 := 0
  base : Nat := 0
  len : Nat := 0
  deriving DecidableEq, Repr

/-- One stall of a partition (R407 to R409): running, calls popped and not yet committed, calls committed whose reply is still to leave, replies
recorded for a client and a token, and its clients in the order of their first commit with the number of their commits, which gives the place of a
record in HBM. A call is its client, TOKEN and the eight dwords; an answer is a call with its reply. -/
structure Stall where
  running : Bool := false
  calls : List (Owner × Dword × List Dword) := []
  answers : List (Owner × Dword × List Dword × List Dword) := []
  record : List (Owner × Dword × List Dword) := []
  clients : List (Owner × Nat) := []
  deriving DecidableEq, Repr

/-- An event of the health record (R422). -/
structure HealthEvent where
  time : Nat
  kind : Nat
  die : Nat
  island : Nat
  old : Nat
  new : Nat
  deriving DecidableEq, Repr

/-- The state of the module. -/
structure State where
  cur : Fin 4096 := 0
  curEl : Fin 458752 := 0
  sched : List Turn := []
  turns : Nat := 0
  nextStep : Nat := 0
  micros : Nat := 0
  bootAt : Nat := 0
  quietSince : Vector Nat 4 := Vector.replicate 4 0
  mappedAt : Vector Nat 4 := Vector.replicate 4 0
  deadlockAt : Vector (Option Nat) 4 := Vector.replicate 4 none
  freeCtr : Nat := 0
  powered : Bool := true
  mem : Memory := []
  tags : List Nat := []
  full : List Nat := []
  poison : List Nat := []
  cores : List (Nat × Core) := []
  quads : List (Nat × Quad) := []
  islands : List (Nat × Island) := []
  dies : Vector Die 4 := Vector.replicate 4 {}
  jobs : List (Nat × Job) := []
  queues : List (Nat × Queue) := []
  engines : List (Nat × EngQueue) := []
  fabrics : List (Nat × FabTile) := []
  elements : List (Nat × Element) := []
  fused : List (Nat × Nat) := []
  arrivals : Nat := 0
  host : HostSide := {}
  links : Vector LinkPort 12 := Vector.replicate 12 {}
  peers : Vector Peer 16 := Vector.replicate 16 {}
  peerIndex : Fin 16 := 0
  stalls : List (Nat × Stall) := []
  notifyBase : Vector Nat 4 := Vector.replicate 4 0
  events : List (Nat × HealthEvent) := []
  nextEvent : Nat := 0
  corrected : List (Nat × Nat) := []
  limit : Nat := 4000
  deriving DecidableEq, Repr

/-- The machine right after reset (R97, R205, R346, Tables 6-6, 12-5, 19-3 and 21-6 give the reset values; log entries 2, 10 and
12 name those the spec does not give). R22 says at most one block of each fabric island is fused off and not which: none is here (log
entry 60). No tile is loaded, so no context holds a firing and no program counter exists (R43). -/
def State.reset : State := {}

end Sys2Proof.Machine
end

