-- ==== Sys2Proof/Machine/Access.lean ====
section
/-! DEFINITION. Reading and writing one part of the state: cores, contexts, quads, islands, tiles; the positions and levels of
chapter 1 (R16 to R21, R25 to R28). -/
namespace Sys2Proof.Machine

/-- Core `c` (R20). -/
def State.core (s : State) (c : Nat) : Core := mapGet {} s.cores c

/-- The state with core `c` replaced. -/
def State.setCore (s : State) (c : Nat) (x : Core) : State := { s with cores := mapPut c x s.cores }

/-- Context `x` of core `c`. -/
def State.ctx (s : State) (c : Nat) (x : Fin 4) : Ctx := (s.core c).ctxs.get x

/-- The core with context `x` replaced. -/
def Core.setCtx (co : Core) (x : Fin 4) (y : Ctx) : Core := { co with ctxs := vset co.ctxs x y }

/-- The state with context `x` of core `c` replaced. -/
def State.setCtx (s : State) (c : Nat) (x : Fin 4) (y : Ctx) : State := s.setCore c ((s.core c).setCtx x y)

/-- The state with context `x` of core `c` changed. -/
def State.modCtx (s : State) (c : Nat) (x : Fin 4) (f : Ctx → Ctx) : State := s.setCtx c x (f (s.ctx c x))

/-- The state with core `c` changed. -/
def State.modCore (s : State) (c : Nat) (f : Core → Core) : State := s.setCore c (f (s.core c))

/-- The number of the context that issues. -/
def State.me (s : State) : Fin 4 := (s.core s.cur).running

/-- The context that issues. -/
def State.my (s : State) : Ctx := s.ctx s.cur s.me

/-- The state with the issuing context changed. -/
def State.modMy (s : State) (f : Ctx → Ctx) : State := s.modCtx s.cur s.me f

/-- Quad `q` (R20). -/
def State.quad (s : State) (q : Nat) : Quad := mapGet {} s.quads q

/-- The state with quad `q` changed. -/
def State.modQuad (s : State) (q : Nat) (f : Quad → Quad) : State := { s with quads := mapPut q (f (s.quad q)) s.quads }

/-- Island at module position `p` = X + 16 Y (R18). -/
def State.island (s : State) (p : Nat) : Island := mapGet {} s.islands p

/-- The state with island `p` changed. -/
def State.modIsland (s : State) (p : Nat) (f : Island → Island) : State :=
  { s with islands := mapPut p (f (s.island p)) s.islands }

/-- Work of an island has ended: the real time of it, from which its idle window counts (R419). -/
def State.noteBusy (s : State) (p : Nat) : State := s.modIsland p (fun i => { i with busyAt := s.micros })

/-- Die `d`. -/
def State.die (s : State) (d : Nat) : Die := s.dies.get (Fin.ofNat 4 d)

/-- The state with die `d` changed. -/
def State.modDie (s : State) (d : Nat) (f : Die → Die) : State :=
  { s with dies := vset s.dies (Fin.ofNat 4 d) (f (s.die d)) }

/-- Queue `q`, where it exists. -/
def State.queue? (s : State) (q : Nat) : Option Queue := mapFind s.queues q

/-- The state with queue `q` replaced. -/
def State.setQueue (s : State) (q : Nat) (x : Queue) : State := { s with queues := mapPut q x s.queues }

/-- The state with queue `q`, where it exists, changed. -/
def State.modQueue (s : State) (q : Nat) (f : Queue → Queue) : State :=
  match s.queue? q with
  | some x => s.setQueue q (f x)
  | none => s

/-- The state with fabric tile `f`, where it exists, changed. -/
def State.modFab (s : State) (f : Nat) (g : FabTile → FabTile) : State :=
  match mapFind s.fabrics f with
  | some x => { s with fabrics := mapPut f (g x) s.fabrics }
  | none => s

/-- Job `j`. -/
def State.job (s : State) (j : Nat) : Job := mapGet {} s.jobs j

/-- A free value (log entry 3): the opaque constant at the counter, and the state with the counter advanced. -/
def State.tick (s : State) : State := { s with freeCtr := s.freeCtr + 1 }

/-! Positions. -/

/-- Die of a core (R20). -/
def dieOfCore (c : Nat) : Nat := c / 1024

/-- Row of a core island or fabric island of index `i` (R17). -/
def rowOf (i : Nat) : Nat := i / 4

/-- Column of the core island of index `i`. -/
def colOfCoreIsland (i : Nat) : Nat := 2 * (i % 4) + i / 4 % 2

/-- Column of the fabric island of index `i`. -/
def colOfFabIsland (i : Nat) : Nat := 2 * (i % 4) + (1 - i / 4 % 2)

/-- Module position X + 16 Y of the island at (x, y) of die `d` (R18). -/
def modulePos (d x y : Nat) : Nat := (8 * (d % 2) + x) + 16 * (8 * (d / 2) + y)

/-- Module position of a core's island. -/
def islandOfCore (c : Nat) : Nat := modulePos (c / 1024) (colOfCoreIsland (c / 32 % 32)) (rowOf (c / 32 % 32))

/-- Module position of fabric island `f` of die `d`. -/
def islandOfFab (d f : Nat) : Nat := modulePos d (colOfFabIsland f) (rowOf f)

/-- Die of an island at a module position. -/
def dieOfIsland (p : Nat) : Nat := p % 16 / 8 + 2 * (p / 16 / 8)

/-- Column of an island within its die, from its module position. -/
def xOfIsland (p : Nat) : Nat := p % 16 % 8

/-- Row of an island within its die, from its module position. -/
def yOfIsland (p : Nat) : Nat := p / 16 % 8

/-- Whether the island is a core island (R17). -/
def isCoreIsland (p : Nat) : Bool := (xOfIsland p + yOfIsland p) % 2 == 0

/-- Index of an island within its die and kind (R17). -/
def indexOfIsland (p : Nat) : Nat := 4 * yOfIsland p + xOfIsland p / 2

/-- Stack group of an island (R25). -/
def stackOfIsland (p : Nat) : Nat := 2 * dieOfIsland p + yOfIsland p / 4

/-- Stack group of a core. -/
def stackOfCore (c : Nat) : Nat := stackOfIsland (islandOfCore c)

/-- First core of an island that is a core island. -/
def firstCoreOfIsland (p : Nat) : Nat := 1024 * dieOfIsland p + 32 * indexOfIsland p

/-- Whether two islands lie in one group of level `l` (R26, R27); level 2 and below mean the same island, and codes above 5, which only an
overwritten task record can bring to a ring, act as level 5 (log entry 62). -/
def islandsWithin (l p r : Nat) : Bool :=
  match l with
  | 0 | 1 | 2 => p == r
  | 3 => stackOfIsland p == stackOfIsland r
  | 4 => dieOfIsland p == dieOfIsland r
  | _ => true

/-- Whether two cores lie in one group of level `l` (R26, R27). -/
def coresWithin (l a b : Nat) : Bool :=
  match l with
  | 0 => a == b
  | 1 => a / 4 == b / 4
  | _ => islandsWithin l (islandOfCore a) (islandOfCore b)

/-- Element number of element (ex, ey) of fabric island `f` of die `d` (R21). -/
def elementId (d f ex ey : Nat) : Nat := (d * 32 + f) * 3584 + ey * 64 + ex

/-- Die and fabric island of an element: 32 times the die plus the island. -/
def elIsland (e : Nat) : Nat := e / 3584
/-- Column of an element in its island. -/
def elX (e : Nat) : Nat := e % 3584 % 64
/-- Row of an element in its island. -/
def elY (e : Nat) : Nat := e % 3584 / 64

/-- Whether an element's block is the one that its island has fused off (R22). -/
def State.isFused (s : State) (e : Nat) : Bool := mapFind s.fused (elIsland e) == some (elY e / 8 * 8 + elX e / 8)

/-- Whether (ex, ey) is a memory-port element (R21). -/
def isPortElement (ex ey : Nat) : Bool := (ex % 8 == 0 && ey % 8 == 0) || (ex % 8 == 4 && ey % 8 == 4)

/-- Whether a quad is an arbor quad under its die's column and width (R342). -/
def State.isArbor (s : State) (q : Nat) : Bool :=
  let d := s.die (q / 256)
  (q / 8 % 32) % 4 == d.col.1 && decide (q % 8 ≤ d.widthM1.1)

/-- Whether the clock of a core runs: a freeze leaves the arbor quads running (R354). -/
def State.clocked (s : State) (c : Nat) : Bool := !(s.die (c / 1024)).frozen || s.isArbor (c / 4)

/-- Role of an arbor quad (Table 19-2). -/
def State.roleOf (s : State) (q : Nat) : Nat :=
  ((s.die (q / 256)).roles.get (Fin.ofNat 32 (4 * (q / 8 % 32 / 4) + q % 8))).1

/-- Whether two dies lie in one partition (R345). -/
def State.samePart (s : State) (a b : Nat) : Bool := (s.die a).part == (s.die b).part

/-- The die through whose mesh traffic from die `a` to die `b` passes after the horizontal bridge (R16); `a` or `b` itself where they are no
diagonal pair. -/
def viaDie (a b : Nat) : Nat := b % 2 + 2 * (a / 2)

/-- Whether traffic passes from die `a` to die `b` (R16, R345): every bridge on its way joins dies of one partition. -/
def State.reaches (s : State) (a b : Nat) : Bool := s.samePart a (viaDie a b) && s.samePart (viaDie a b) b

/-- The tile that holds a core's contexts. -/
def State.tileOf (s : State) (c : Nat) : Option Tile := (s.quad (c / 4)).tile

/-- Privilege of a core's contexts: 0 tile, 1 stall, 2 firmware (R340). -/
def State.privOf (s : State) (c : Nat) : Nat :=
  match s.tileOf c with
  | some t => t.priv.1
  | none => 0

/-- Job of a core's tile. -/
def State.jobOf (s : State) (c : Nat) : Nat :=
  match s.tileOf c with
  | some t => t.job
  | none => 0

/-- Whether a context runs a handler (R59). -/
def Ctx.inHandler (x : Ctx) : Bool :=
  match x.run with
  | .handler _ _ _ _ => true
  | _ => false

/-- The task record of what a context runs, where there is one (R44). -/
def Ctx.record (x : Ctx) : Option (BitVec 256) :=
  match x.run with
  | .firing r => some r
  | .task r => some r
  | _ => none

/-- Actor of a firing record (Table 2-2). -/
def recActor (r : BitVec 256) : Nat := bitsOf r.toNat 192 6

/-- SEQ of a record. -/
def recSeq (r : BitVec 256) : BitVec 32 := BitVec.ofNat 32 (bitsOf r.toNat 224 32)

/-- HOME of a record. -/
def recHome (r : BitVec 256) : Nat := bitsOf r.toNat 212 12

/-- KIND of a record. -/
def recKind (r : BitVec 256) : Nat := bitsOf r.toNat 206 2

/-- URG of a record. -/
def recUrg (r : BitVec 256) : Bool := r.getLsbD 205

/-- AFF of a record. -/
def recAff (r : BitVec 256) : Nat := bitsOf r.toNat 202 3

/-- The key that a firing's reservations carry: its home quad, actor and SEQ (R37, R53). -/
def firingKey (r : BitVec 256) : FiringKey := ⟨recHome r / 4, recActor r, recSeq r⟩

/-- The firing that a context runs, if it runs one. -/
def Ctx.firing? (x : Ctx) : Option FiringKey :=
  match x.run with
  | .firing r => some (firingKey r)
  | _ => none

/-- CTXID of a context (Table 19-4), or what a region 0x03 write has put there (R341, log entry 8). -/
def State.ctxid (s : State) (c : Nat) (x : Fin 4) : Dword :=
  (s.ctx c x).idBits.getD (BitVec.ofNat 64 (s.jobOf c % 65536 * 65536 + s.privOf c * 16384 + c % 4096 * 4 + x.1))

/-- Exception side of a tile. -/
def State.exSide? (s : State) : TileRef → Option ExSide
  | .quad q => (s.quad q).tile.map (·.ex)
  | .fabric f => (mapFind s.fabrics f).map (·.ex)

/-- The state with a tile's exception side changed. -/
def State.modEx (s : State) (t : TileRef) (g : ExSide → ExSide) : State :=
  match t with
  | .quad q => s.modQuad q (fun x => { x with tile := x.tile.map (fun y => { y with ex := g y.ex }) })
  | .fabric f => s.modFab f (fun x => { x with ex := g x.ex })

/-- Job of a tile. -/
def State.tileJob (s : State) : TileRef → Option Nat
  | .quad q => (s.quad q).tile.map (·.job)
  | .fabric f => (mapFind s.fabrics f).map (·.job)

/-- An actor of a quad's tile. -/
def State.actor? (s : State) (q a : Nat) : Option ActorSt := (s.quad q).tile.bind (fun t => t.actors[a]?)

/-- The state with an actor of a quad's tile changed. -/
def State.modActor (s : State) (q a : Nat) (g : ActorSt → ActorSt) : State :=
  s.modQuad q (fun x => { x with tile := x.tile.map (fun t => { t with actors := listModify g a t.actors }) })

/-- The bytes of memory at [a, a + n). -/
def readMem (m : Memory) : Nat → Nat → List Byte
  | _, 0 => []
  | a, n + 1 => m.read a :: readMem m (a + 1) n

/-- An instruction that has raised or is done leaves behind no failed walk to be met (R366) and no place at a full/empty line (R80). -/
def Ctx.met (x : Ctx) : Ctx := { x with missCause := none, feWait := none }

/-- Bytes written to memory from `a` on. -/
def writeMem (m : Memory) : Nat → List Byte → Memory
  | _, [] => m
  | a, b :: r => writeMem (m.write a b) (a + 1) r

/-- Granules (16-byte units) that [a, a + n) touches have their tags cleared (R120). -/
def clearTags (ts : List Nat) (a n : Nat) : List Nat :=
  if n = 0 then ts else ts.filter (fun g => decide (g < a / 16) || decide ((a + n - 1) / 16 < g))

/-- The poison left when `n` bytes at `a` are overwritten (R374): an overwritten byte stays poisoned while its protection unit holds a poisoned byte
that was not overwritten. The bytes of a unit are the implementation's (log entry 90). -/
def clearPoison (l : List Nat) (a n : Nat) : List Nat :=
  let out := fun (x : Nat) => decide (x < a) || decide (a + n ≤ x)
  l.filter (fun p => out p || l.any (fun x => out x && Config.protUnit x == Config.protUnit p))

/-- A plain write of physical memory: bytes written, tags of the granules cleared (R120), poison cleared (R374). -/
def State.poke (s : State) (a : Nat) (bs : List Byte) : State :=
  { s with mem := writeMem s.mem a bs, tags := clearTags s.tags a bs.length,
           poison := clearPoison s.poison a bs.length }

/-- Physical memory [a, a + n) written with zeros: nothing of it stays listed. -/
def State.zero (s : State) (a n : Nat) : State :=
  let out := fun (x : Nat) => decide (x < a) || decide (a + n ≤ x)
  { s with mem := s.mem.filter (fun c => out c.1), tags := clearTags s.tags a n, poison := clearPoison s.poison a n }

/-- The bytes of physical memory at [a, a + n). -/
def State.peek (s : State) (a n : Nat) : List Byte := readMem s.mem a n

/-- The dword of physical memory at `a`. -/
def State.peekD (s : State) (a : Nat) : Dword := BitVec.ofNat 64 (leNat (s.peek a 8))

/-- A dword written to physical memory. -/
def State.pokeD (s : State) (a : Nat) (x : Dword) : State := s.poke a (dwordBytes x)

/-- Physical address of a quad scratchpad's first byte (Table 5-1, R114). -/
def scratchBase (q : Nat) : Nat := 2 * 2 ^ 44 + q * 0x400000

/-- Physical address of an offset of a quad's save area (Tables 21-6 and 21-7). -/
def State.saveAt (s : State) (quad off : Nat) : Nat := (s.quad quad).saveBase.toNat * 0x200000 + off

/-! Fabric tiles (R19 to R22, R28, Table 12-7). -/

/-- Die and island of a fabric tile as 32 d + f. -/
def ftIsland (f : Nat) : Nat := f / 512
/-- Column of a fabric tile's origin block. -/
def ftCol (f : Nat) : Nat := f / 64 % 8
/-- Row of a fabric tile's origin block. -/
def ftRow (f : Nat) : Nat := f / 8 % 8

/-- The element at (ex, ey) of a fabric tile. -/
def tileElement (f ex ey : Nat) : Nat := ftIsland f * 3584 + (8 * ftRow f + ey) * 64 + 8 * ftCol f + ex

/-- Whether a fabric tile holds an element. -/
def FabTile.holds (t : FabTile) (f e : Nat) : Bool :=
  elIsland e == ftIsland f && decide (8 * ftCol f ≤ elX e ∧ elX e < 8 * (ftCol f + t.widthM1.1 + 1)
    ∧ 8 * ftRow f ≤ elY e ∧ elY e < 8 * (ftRow f + t.heightM1.1 + 1))

/-- The fabric tile of an element. -/
def State.fabOf (s : State) (e : Nat) : Option (Nat × FabTile) := s.fabrics.find? (fun p => p.2.holds p.1 e)

end Sys2Proof.Machine
end

