-- ==== Sys2Proof/Machine/Flits.lean ====
section
/-! DEFINITION. Flits of Hjelli Link (Table 22-4): their fields, their CRC, and putting units on a port with the flits kept for replay
(R403). -/
namespace Sys2Proof.Machine

/-- One bit step of the CRC-64 register, high bit first. -/
def crc64Step : Nat → Nat → Nat
  | 0, c => c
  | n + 1, c => crc64Step n (if c / 2 ^ 63 % 2 = 1 then (2 * c % 2 ^ 64) ^^^ 0x42F0E1EBA9EA3693 else 2 * c % 2 ^ 64)

/-- CRC-64 with the ECMA-182 polynomial over bytes (R403). -/
def crc64 (bs : List Byte) : Nat := bs.foldl (fun c b => crc64Step 8 (c ^^^ (b.toNat * 2 ^ 56))) 0

/-- A little-endian field of a byte string. -/
def fieldAt (bs : List Byte) (off n : Nat) : Nat := leNat ((bs.drop off).take n)

end Sys2Proof.Machine

namespace Sys2Proof

open Sys2Proof.Machine

/-- A field of a flit's first dword. -/
def Flit.head (f : Flit) (lo n : Nat) : Nat := bitsOf (leNat (f.bytes.take 8)) lo n
/-- TYPE. -/
def Flit.type (f : Flit) : Nat := f.head 0 8
/-- SEQ. -/
def Flit.seq (f : Flit) : BitVec 16 := BitVec.ofNat 16 (f.head 8 16)
/-- SRC. -/
def Flit.src (f : Flit) : Nat := f.head 24 4
/-- DST. -/
def Flit.dst (f : Flit) : Nat := f.head 28 4
/-- TAG. -/
def Flit.tag (f : Flit) : BitVec 16 := BitVec.ofNat 16 (f.head 32 16)
/-- LEN. -/
def Flit.len (f : Flit) : Nat := min 232 (f.head 48 8)
/-- LAST. -/
def Flit.last (f : Flit) : Bool := f.head 56 1 == 1
/-- URG. -/
def Flit.urg (f : Flit) : Bool := f.head 57 1 == 1
/-- ADDR. -/
def Flit.addr (f : Flit) : Nat := fieldAt f.bytes 8 7
/-- CRED. -/
def Flit.cred (f : Flit) : Nat := fieldAt f.bytes 15 1
/-- The payload bytes. -/
def Flit.payload (f : Flit) : List Byte := (f.bytes.drop 16).take f.len
/-- Whether the CRC over bytes 0 to 247 is the one that bytes 248 to 255 hold. -/
def Flit.good (f : Flit) : Bool := f.bytes.length == 256 && crc64 (f.bytes.take 248) == fieldAt f.bytes 248 8

end Sys2Proof

namespace Sys2Proof.Machine

/-- A flit of Table 22-4 with ADDR 0, built from its fields, its CRC behind them. -/
def makeFlit (type : Nat) (seq : BitVec 16) (src dst : Nat) (tag : BitVec 16) (last urg : Bool) (cred : Nat) (bs : List Byte) : Flit :=
  let body := leBytes 8 (type + seq.toNat * 2 ^ 8 + src * 2 ^ 24 + dst % 16 * 2 ^ 28 + tag.toNat * 2 ^ 32 + bs.length % 256 * 2 ^ 48
      + (if last then 2 ^ 56 else 0) + (if urg then 2 ^ 57 else 0)) ++ leBytes 8 (cred % 256 * 2 ^ 56) ++ padTo 232 bs
  ⟨body ++ leBytes 8 (crc64 body)⟩

/-- Flits that a port keeps for replay (R403). -/
def replayStore : Nat := 128

/-- A flit sent: it takes the port's next number, and the last 128 are kept. -/
def LinkPort.send (l : LinkPort) (f : Flit) : LinkPort :=
  { l with txSeq := l.txSeq + 1, sent := l.sent ++ [f], kept := (l.kept ++ [f]).drop (l.kept.length + 1 - replayStore) }

/-- The flits of a unit: at most 232 bytes in each, LAST in the last one. -/
def LinkPort.sendParts (src dst type : Nat) (tag : BitVec 16) (urg : Bool) (cred : Nat) : Nat → List Byte → LinkPort → LinkPort
  | 0, _, l => l
  | n + 1, bs, l =>
    if bs.length ≤ 232 then l.send (makeFlit type l.txSeq src dst tag true urg cred bs)
    else LinkPort.sendParts src dst type tag urg cred n (bs.drop 232) (l.send (makeFlit type l.txSeq src dst tag false urg cred (bs.take 232)))

/-- Whether the module exposes more than its DOE mailbox (Table 23-1): no die's Irfin was refused. -/
def State.exposed (s : State) : Bool := !(([0, 1, 2, 3] : List (Fin 4)).any (fun d => (s.dies.get d).refused))

/-- A unit put on a link for the module DST: TYPE, TAG, URG, CRED, payload (Table 22-4). A port that is down sends nothing. -/
def State.sendUnit (s : State) (p : Fin 12) (type : Nat) (tag : BitVec 16) (dst : Nat) (urg : Bool) (cred : Nat) (bs : List Byte) : State :=
  let l := s.links.get p
  if l.up ∧ s.exposed then
    { s with links := vset s.links p (l.sendParts s.peerIndex.1 dst type tag urg cred (bs.length / 232 + 1) bs) }
  else s

/-- The kept flits from a number on sent again (R403). -/
def LinkPort.replay (l : LinkPort) (seq : BitVec 16) : LinkPort := { l with sent := l.sent ++ l.kept.dropWhile (fun f => f.seq != seq) }

end Sys2Proof.Machine
end

