-- ==== Sys2Proof/Machine/Ring.lean ====
section
/-! DEFINITION. Queues as their managers keep them: descriptor fields (R67), the ring in memory (R69 to R73), lanes, taking and
freeing (R57, R70, R72, R78), flow windows (R74, R75), reservations (R37, R41) and full/empty bits of ring lines (R81). -/
namespace Sys2Proof.Machine

/-! Descriptor (Table 3-1). -/

def Queue.type (q : Queue) : BitVec 8 := q.desc.extractLsb' 120 8
/-- Capacity C. -/
def Queue.cap (q : Queue) : Nat := bitsOf q.desc.toNat 104 16 + 1
/-- Number of consumer ports. -/
def Queue.consumers (q : Queue) : Nat := bitsOf q.desc.toNat 101 3 + 1
/-- Item size in bytes. -/
def Queue.isz (q : Queue) : Nat := 8 * 2 ^ bitsOf q.desc.toNat 98 3
/-- Urgent slots U, 0 without an urgent lane. -/
def Queue.urgSlots (q : Queue) : Nat := if bitsOf q.desc.toNat 93 5 = 0 then 0 else 2 ^ bitsOf q.desc.toNat 93 5
/-- Normal slots S. -/
def Queue.slotsN (q : Queue) : Nat := 2 ^ bitsOf q.desc.toNat 88 5
/-- HOME; 3 where the home is on another module. -/
def Queue.homeKind (q : Queue) : Nat := if q.far.isSome then 3 else bitsOf q.desc.toNat 86 2
/-- HLOC. -/
def Queue.hloc (q : Queue) : Nat := bitsOf q.desc.toNat 74 12
/-- BASE. -/
def Queue.base (q : Queue) : Nat := bitsOf q.desc.toNat 0 56
/-- Bytes of the ring (R69). -/
def Queue.footprint (q : Queue) : Nat := (q.slotsN + q.urgSlots) * (q.isz + 8)

/-- Slots of a lane. -/
def Queue.laneSlots (q : Queue) (urg : Bool) : Nat := if urg then q.urgSlots else q.slotsN

/-- Tail index of a lane. -/
def Queue.tail (q : Queue) (urg : Bool) : BitVec 32 := if urg then q.tailU else q.tailN

/-- Free index of a lane (R72). -/
def Queue.free (q : Queue) (urg : Bool) : BitVec 32 := if urg then q.freeU else q.freeN

/-- Head index of a consumer port's lane. -/
def ConsPort.head (c : ConsPort) (urg : Bool) : BitVec 32 := if urg then c.headU else c.headN

/-- Virtual address of a slot's data (R69). -/
def Queue.dataVa (q : Queue) (urg : Bool) (i : BitVec 32) : Nat :=
  q.base + (if urg then q.slotsN * (q.isz + 8) else 0) + i.toNat % q.laneSlots urg * q.isz

/-- Virtual address of a slot's header (R69). -/
def Queue.hdrVa (q : Queue) (urg : Bool) (i : BitVec 32) : Nat :=
  q.base + (if urg then q.slotsN * (q.isz + 8) + q.urgSlots * q.isz else q.slotsN * q.isz) + i.toNat % q.laneSlots urg * 8

/-- Phase bit of an index in a lane (R70). -/
def Queue.phase (q : Queue) (urg : Bool) (i : BitVec 32) : Nat := i.toNat / q.laneSlots urg % 2

/-- Physical address of a byte of the ring, on the pages that creation found (R67). -/
def Queue.pa (q : Queue) (va : Nat) : Nat := mapGet 0 q.pages (va / 4096) * 4096 + va % 4096

/-- Bytes of the ring. -/
def State.ringRead (s : State) (q : Queue) : Nat → Nat → List Byte
  | _, 0 => []
  | va, n + 1 => s.mem.read (q.pa va) :: s.ringRead q (va + 1) n

/-- Lines of HBM that a host cache may hold, called back before the queue manager writes them; the snoop and its answer are one with the write
(R396, log entry 77). -/
def State.recall (s : State) (pas : List Nat) : State :=
  if s.host.tracked.isEmpty then s
  else
    let keep := fun (l : Nat) => !pas.any (fun a => a / 64 == l)
    { s with host := { s.host with tracked := s.host.tracked.filter keep, modified := s.host.modified.filter keep } }

/-- A write of a manager, a walker or a stall's save to device memory: a line of it that a host cache may hold is called back before it (R396, log
entry 77). -/
def State.deviceWrite (s : State) (pa : Nat) (bs : List Byte) : State :=
  if s.host.tracked.isEmpty then s.poke pa bs
  else
    let keep := fun (l : Nat) => decide (64 * l + 64 ≤ pa ∨ pa + bs.length ≤ 64 * l)
    { s with host := { s.host with tracked := s.host.tracked.filter keep, modified := s.host.modified.filter keep } }.poke pa bs

/-- Bytes written into the ring. -/
def State.ringWrite (s : State) (q : Queue) : Nat → List Byte → State
  | _, [] => s
  | va, b :: r => (s.poke (q.pa va) [b]).ringWrite q (va + 1) r

/-- An item as a push brings it: KIND, ITYPE, MKID, bytes (Table 3-2). -/
structure Item where
  kind : Nat
  type : BitVec 8
  mkid : BitVec 32
  bytes : List Byte
  deriving DecidableEq, Repr

/-- A slot header (Table 3-2). -/
def slotHeader (phase : Nat) (urg : Bool) (it : Item) : Dword :=
  BitVec.ofNat 64 (phase % 2 + (if urg then 256 else 0) + it.kind % 4 * 512 + it.type.toNat * 65536 + it.mkid.toNat * 2 ^ 32)

/-- The header that stands in a slot. -/
def State.headerAt (s : State) (q : Queue) (urg : Bool) (i : BitVec 32) : Nat := leNat (s.ringRead q (q.hdrVa urg i) 8)

/-- KIND of a slot. -/
def State.kindAt (s : State) (q : Queue) (urg : Bool) (i : BitVec 32) : Nat := bitsOf (s.headerAt q urg i) 9 2

/-- ITYPE of a slot. -/
def State.itypeAt (s : State) (q : Queue) (urg : Bool) (i : BitVec 32) : BitVec 8 :=
  BitVec.ofNat 8 (bitsOf (s.headerAt q urg i) 16 8)

/-- MKID of a slot. -/
def State.mkidAt (s : State) (q : Queue) (urg : Bool) (i : BitVec 32) : BitVec 32 :=
  BitVec.ofNat 32 (bitsOf (s.headerAt q urg i) 32 32)

/-- Data bytes of a slot. -/
def State.itemAt (s : State) (q : Queue) (urg : Bool) (i : BitVec 32) : List Byte := s.ringRead q (q.dataVa urg i) q.isz

/-- Slots an item takes in the ring (R84). -/
def Queue.slotsFor (q : Queue) (kind : Nat) : Nat := if kind = 2 then max 1 (64 / q.isz) else 1

/-- Whether slot `i` of a lane is written and not yet free. -/
def Queue.present (q : Queue) (urg : Bool) (i : BitVec 32) : Bool :=
  decide ((i - q.free urg).toNat < (q.tail urg - q.free urg).toNat)

/-- Items of both lanes that are not yet free (R72). -/
def Queue.occupancy (q : Queue) : Nat := (q.tailN - q.freeN).toNat + (q.tailU - q.freeU).toNat

/-! Lines of a ring in a scratchpad (R81). -/

/-- Scratchpad lines that a slot's data touches, as line numbers of physical memory. -/
def Queue.linesOf (q : Queue) (urg : Bool) (i : BitVec 32) : List Nat :=
  let v := q.dataVa urg i
  (List.range ((v + q.isz - 1) / 128 - v / 128 + 1)).map (fun k => q.pa ((v / 128 + k) * 128) / 128)

/-- Whether `qget.p` holds slot `i` of the normal lane, so that it has no item yet (R234). -/
def Queue.isHeld (q : Queue) (i : BitVec 32) : Bool := q.heldSlots.any (fun h => h.2 == i)

/-- Stands for the producer of a held slot that has been released while later slots of the lane were still held (R234). -/
def releasedPort : Nat := 2000000

/-- Stands for the remote port of a tile that has been released, for items of it that are still on their way (R76). -/
def gonePort : Nat := 1000000

/-- Whether some item that is not yet free touches a line. -/
def Queue.lineHeld (q : Queue) (line : Nat) : Bool :=
  [false, true].any (fun u => (List.range ((q.tail u - q.free u).toNat)).any (fun k =>
    (u || !q.isHeld (q.free u + BitVec.ofNat 32 k)) && (q.linesOf u (q.free u + BitVec.ofNat 32 k)).contains line))

/-- The lines of a slot set full or empty as R81 keeps them. -/
def State.lineBits (s : State) (q : Queue) (lines : List Nat) : State :=
  if q.homeKind = 0 then
    { s with full := lines.foldl (fun f l => if q.lineHeld l then setAdd l f else setDel l f) s.full }
  else s

/-! Notify words. -/

/-- The notify words that a write touches: partition and queue (R398). -/
def State.notifyAt (s : State) (pa n : Nat) : List (Fin 4 × Nat) :=
  ([0, 1, 2, 3] : List (Fin 4)).flatMap (fun p =>
    let b := s.notifyBase.get p
    if b ≠ 0 ∧ pa < b + 0x80000 ∧ b < pa + n then
      let first := (max pa b - b) / 8
      (List.range ((min (pa + n) (b + 0x80000) - b + 7) / 8 - first)).map (fun k => (p, first + k))
    else [])

/-- Whether an UNMAP of a queue is under way: its state is still to be written into its block (R378, R380). -/
def State.unmapping (s : State) (q : Nat) : Bool := s.islands.any (fun i => i.2.busy.any (fun b => !b.2.1 && b.2.2 == q))

/-- A notify word has been written: its bit in the aggregated vector is set by the same write (R399), and a write while the queue is
unmapped and its UNMAP busy sets WAKE (R380). -/
def State.noteWord (s : State) (p : Fin 4) (q : Nat) : State :=
  let v := s.notifyBase.get p + 0x80000 + q / 64 / 8
  (s.deviceWrite v [s.mem.read v ||| BitVec.ofNat 8 (2 ^ (q / 64 % 8))]).modQueue q (fun x =>
    if x.mapped.isNone && s.unmapping q then { x with wake := true } else x)

/-- A write to plain memory with its side effect on the words of a notify page. -/
def State.writePlain (s : State) (pa : Nat) (bs : List Byte) : State :=
  (s.notifyAt pa bs.length).foldl (fun (st : State) w => st.noteWord w.1 w.2) (s.poke pa bs)

/-- The tail that other agents see: a slot that `qget.p` holds is not yet an item (R234). -/
def Queue.visibleTail (q : Queue) : BitVec 32 :=
  q.heldSlots.foldl (fun t h => if (h.2 - q.freeN).toNat < (t - q.freeN).toNat then h.2 else t) q.tailN

/-- The queue manager's half of the notify word of a queue with a host port, and the MSI-X message where none is outstanding
(Table 22-2, R400). -/
def State.hostHalf (s : State) (id : Nat) : State :=
  match s.queue? id with
  | none => s
  | some q =>
    let base := s.notifyBase.get (s.job q.job).part
    let a := base + 8 * id
    let old := s.peekD a
    let x1 := if q.hostProducer.isSome then putBits old.toNat 32 32 q.freeN.toNat else old.toNat
    let x := if q.hostConsumer.isSome then putBits x1 0 32 q.visibleTail.toNat else x1
    if base = 0 ∨ (q.hostProducer.isNone ∧ q.hostConsumer.isNone) ∨ x = old.toNat then s
    else
      let vec := ((q.hostProducer <|> q.hostConsumer).getD 0).toNat
      let s1 := (s.recall [a]).writePlain a (dwordBytes (BitVec.ofNat 64 x))
      if s1.host.msixBusy.contains vec then s1
      else { s1 with host := { s1.host with msixBusy := setAdd vec s1.host.msixBusy, msixSent := s1.host.msixSent ++ [vec] } }

/-! Engine queues as queues (R251, R252). -/

/-- Whether an identifier is one of an engine queue (Table 11-1). -/
def isEngineId (n : Nat) : Bool :=
  decide ((0x8000 ≤ n ∧ n < 0x8800) ∨ (0x8800 ≤ n ∧ n < 0x8820) ∨ (0x8840 ≤ n ∧ n < 0x8860))

/-- An engine queue. -/
def State.eng (s : State) (n : Nat) : EngQueue := mapGet {} s.engines n

/-- The state with an engine queue changed. -/
def State.modEng (s : State) (n : Nat) (f : EngQueue → EngQueue) : State := { s with engines := mapPut n (f (s.eng n)) s.engines }

/-- Entries that an engine queue has performed. -/
def EngQueue.performed (q : EngQueue) : BitVec 32 := q.tail - BitVec.ofNat 32 q.entries.length

/-! Wait entries as they stand (R84, R85). -/

/-- Whether a queue fence entry holds (R85). -/
def State.fenceHolds (s : State) (bs : List Byte) : Bool :=
  let n := leNat ((bs.drop 1).take 1)
  (List.range n).all (fun i =>
    let id := leNat ((bs.drop (8 + 2 * i)).take 2)
    let t : BitVec 32 := BitVec.ofNat 32 (leNat ((bs.drop (24 + 4 * i)).take 4))
    if isEngineId id then decide (((s.eng id).performed - t).toNat < 2 ^ 31)
    else match s.queue? id with
      | some q => decide ((q.freeN - t).toNat < 2 ^ 31)
      | none => true)

/-- The bytes of the wait entry at index `i` of the normal lane (R84). -/
def State.entryBytes (s : State) (q : Queue) (i : BitVec 32) : List Byte :=
  (List.range (q.slotsFor 2)).flatMap (fun k => s.itemAt q false (i + BitVec.ofNat 32 k))

/-- Whether a consumer finds a slot fresh: its header, as it stands in the ring, carries the phase of the index (R71, R73). -/
def State.fresh (s : State) (q : Queue) (urg : Bool) (i : BitVec 32) : Bool := s.headerAt q urg i % 2 == q.phase urg i

/-- Whether the queue is parked for a consumer port: its normal lane has a wait entry at its head (R85). An entry that holds is
passed by WAIT_ENTRY_HOLDS. -/
def State.parkedFor (s : State) (q : Queue) (x : ConsPort) : Bool :=
  decide (x.headN ≠ q.tailN) && !q.isHeld x.headN && s.fresh q false x.headN && s.kindAt q false x.headN == 2

/-- The real time at which a queue is last known not to have been parked (R381): now, unless every consumer port already stands at a wait entry. -/
def State.unparkedNow (s : State) (q : Queue) : Nat := if !q.cons.isEmpty && q.cons.all (s.parkedFor q) then q.unparkedAt else s.micros

/-! Pushing. -/

/-- Whether a producer port is local (R74); an index that names no port is the device's own push. -/
def Queue.isLocal (q : Queue) (p : Nat) : Bool :=
  match q.prods[p]? with
  | some x => !x.remote
  | none => true

/-- Free slots that local ports offer together (R75): the windows of the remote ports are held back from them. -/
def Queue.localRoom (q : Queue) : Nat :=
  q.cap - (q.owners.filter (fun o => q.isLocal o.2.2)).length - ((q.prods.filter (·.remote)).map (·.window)).sum

/-- Free slots that a producer port offers (R36, R75): what its window or the local share leaves, and never more than the capacity minus the
occupancy; the device's own pushes are local. -/
def Queue.offered (q : Queue) (p : Nat) : Nat :=
  min (q.cap - q.occupancy) (match q.prods[p]? with
    | some x => if x.remote then x.window - x.used else q.localRoom
    | none => q.localRoom)

/-- Slots that firings hold reserved against the same allowance as port `p` (R37, R41). -/
def Queue.reservedSlots (q : Queue) (p : Nat) : Nat :=
  ((q.slots.filter (fun r => r.port == p || (q.isLocal p && q.isLocal r.port))).map (·.left)).sum

/-- Free slots of a port that no firing has reserved. -/
def Queue.unreserved (q : Queue) (p : Nat) : Nat := q.offered p - q.reservedSlots p

/-- Slots a firing still holds reserved on a port. -/
def Queue.reservedFor (q : Queue) (k : Option FiringKey) (p : Nat) : Nat :=
  match k with
  | some k => ((q.slots.filter (fun r => r.key = k ∧ r.port = p)).map (·.left)).sum
  | none => 0

/-- Whether the urgent lane takes one more item (R68): those on their way to it count. -/
def Queue.urgentRoom (q : Queue) : Bool :=
  decide ((q.tailU - q.freeU).toNat + (q.inflight.filter (·.urgent)).length < q.urgSlots)

/-- Whether a push of `n` slots need not wait (R41, R68, R75, R84, R235): the slots that its firing holds reserved and those that no firing
has reserved serve it together. -/
def Queue.hasRoom (q : Queue) (k : Option FiringKey) (p : Nat) (urg : Bool) (n : Nat) : Bool :=
  q.mapped.isSome && decide (n ≤ q.reservedFor k p + q.unreserved p) && (!urg || q.urgentRoom)

/-- An item sent to a home on another module, unless its port's link has failed (R83, R405): its bytes and its header (log entry 46), or the 256 bytes
of a reduction block (R406). An item that `qget.p` filled in place is its header. -/
def State.sendItem (s : State) (q : Queue) (p : Nat) (urg : Bool) (it : Item) : State :=
  match q.far, q.prods[p]? with
  | some (m, tag), some x =>
    match x.link, x.failed with
    | some l, false =>
      if it.type = 0x40 ∧ it.kind = 0 ∧ it.bytes.length = 256 then s.sendUnit l 6 tag m.1 false 0 it.bytes
      else s.sendUnit l 3 tag m.1 urg 0 (it.bytes ++ dwordBytes (slotHeader 0 urg it))
    | _, _ => s
  | _, _ => s

/-- Whether an item pushed at a port waits for the port's recovery before it is sent (R405). -/
def Queue.holdsBack (q : Queue) (p : Nat) : Bool := q.far.isSome && (q.prods[p]?).any (·.failed)

/-- The header of slot `i` of the normal lane written, for an item of KIND 0 whose bytes stand in the slot (R71, R233, R234); to a home on another
module it is sent. -/
def State.headSlot (s : State) (id : Nat) (q : Queue) (i : BitVec 32) (type : BitVec 8) : State :=
  let it : Item := ⟨0, type, 0, []⟩
  if q.far.isSome then
    let port := ((q.owners.find? (fun o => !o.1 && o.2.1 == i)).map (·.2.2)).getD 0
    (s.setQueue id { q with
      owners := q.owners.filter (fun o => o.1 || o.2.1 != i)
      inflight := q.inflight ++ [{ port := port, urgent := false, kind := 0, type := type, mkid := 0, bytes := [], unsent := q.holdsBack port }] }).sendItem q port false it
  else (((s.ringWrite q (q.hdrVa false i) (dwordBytes (slotHeader (q.phase false i) false it))).setQueue id q).lineBits q (q.linesOf false i)).recall
    [q.pa (q.hdrVa false i)]

/-- A reservation used up by `n` slots. -/
def useSlots (k : Option FiringKey) (p n : Nat) (l : List SlotResv) : List SlotResv :=
  match k with
  | some k => l.map (fun r => if r.key = k ∧ r.port = p then { r with left := r.left - n } else r)
  | none => l

/-- Released slots of a lane whose later slots have been filled: written as items of KIND 0 and type 0x00, so that the order stands (R234); at
most `n` of them. -/
def State.fillReleased (id : Nat) : Nat → State → State
  | 0, s => s
  | n + 1, s =>
    match s.queue? id with
    | none => s
    | some q =>
      let filledAfter := fun (i : BitVec 32) => (List.range (q.tailN - (i + 1)).toNat).any (fun k => !q.isHeld (i + 1 + BitVec.ofNat 32 k))
      match q.heldSlots.find? (fun h => h.1 = releasedPort ∧ filledAfter h.2) with
      | none => s
      | some h =>
        let q1 := { q with heldSlots := q.heldSlots.filter (fun x => x.2 != h.2) }
        State.fillReleased id n (s.headSlot id q1 h.2 0)

/-- The released slots of a queue settled. -/
def State.settleReleased (s : State) (id : Nat) : State := State.fillReleased id (((s.queue? id).map (·.heldSlots.length)).getD 0) s

/-- An item written at the tail: data first, then the header (R71); a wait entry over several slots (R84). Port `p` owns the slots. -/
def State.accept (s : State) (id : Nat) (p : Nat) (urg : Bool) (it : Item) : State :=
  match s.queue? id with
  | none => s
  | some q =>
    let n := q.slotsFor it.kind
    let i := q.tail urg
    let q1 : Queue := { q with
      tailN := if urg then q.tailN else q.tailN + BitVec.ofNat 32 n
      tailU := if urg then q.tailU + BitVec.ofNat 32 n else q.tailU
      owners := q.owners ++ (List.range n).map (fun k => (urg, i + BitVec.ofNat 32 k, p))
      marks := if it.kind = 1 ∨ it.kind = 2 then q.marks ++ [(i, q.tailU)] else q.marks
      unparkedAt := s.unparkedNow q
      lastUse := s.micros }
    let write := fun (st : State) (k : Nat) =>
      let j := i + BitVec.ofNat 32 k
      let b := (it.bytes.drop (k * q.isz)).take q.isz
      let st := st.ringWrite q (q.dataVa urg j) (b ++ List.replicate (q.isz - b.length) 0)
      let it' : Item := if k = 0 then it else { it with kind := 0, mkid := 0 }
      st.ringWrite q (q.hdrVa urg j) (dwordBytes (slotHeader (q.phase urg j) urg it'))
    let cells := (List.range n).flatMap (fun k =>
      let j := i + BitVec.ofNat 32 k
      q.pa (q.hdrVa urg j) :: (List.range (q.isz / 8)).map (fun b => q.pa (q.dataVa urg j + 8 * b)))
    let s1 := (List.range n).foldl write (s.recall cells)
    let s2 := s1.setQueue id q1
    ((s2.lineBits q1 ((List.range n).flatMap (fun k => q.linesOf urg (i + BitVec.ofNat 32 k)))).settleReleased id).hostHalf id

/-- A push on a port (R75, R235): written at once on a local port, sent towards the home on a remote one. `src` is the context that
pushes, where one does; over a link it is not kept, since that home orders what it accepts, and the slots sent count here (R239). -/
def State.pushFrom (s : State) (src : Option (Nat × Fin 4)) (id p : Nat) (k : Option FiringKey) (urg : Bool) (it : Item) : State :=
  match s.queue? id with
  | none => s
  | some q =>
    let n := q.slotsFor it.kind
    let q1 := { q with slots := useSlots k p n q.slots }
    if q.isLocal p then (s.setQueue id q1).accept id p urg it
    else
      (s.setQueue id { q1 with
        tailN := if q.far.isSome then q1.tailN + BitVec.ofNat 32 n else q1.tailN
        prods := listModify (fun x => { x with used := x.used + n }) p q1.prods
        inflight := q1.inflight ++ [{ port := p, urgent := urg, kind := Fin.ofNat 4 it.kind, type := it.type, mkid := it.mkid, bytes := it.bytes,
                                      src := if q.far.isSome then none else src, unsent := q.holdsBack p }] }).sendItem q p urg it

/-- A push by an agent that is no context. -/
def State.push (s : State) (id p : Nat) (k : Option FiringKey) (urg : Bool) (it : Item) : State := s.pushFrom none id p k urg it

/-- A push by the device itself: a record, a request, an answer to a host (R372, R365). The owner index names no port. -/
def State.pushDevice (s : State) (id : Nat) (urg : Bool) (it : Item) : State :=
  match s.queue? id with
  | none => s
  | some q => s.accept id 1000000 (urg && decide (q.urgSlots ≠ 0)) it

/-- A queue that is unmapped is asked for (R379). -/
def State.want (s : State) (id : Nat) : State :=
  s.modQueue id (fun q => if q.mapped.isNone then { q with wanted := true } else q)

/-- Whether a push by the device itself has a free slot. -/
def State.roomDevice (s : State) (id : Nat) (urg : Bool) : Bool :=
  match s.queue? id with
  | none => false
  | some q => q.hasRoom none 1000000 (urg && decide (q.urgSlots ≠ 0)) 1

/-! Taking. -/

/-- Whether a consumer port has taken slot `i` (R70). -/
def ConsPort.passed (c : ConsPort) (q : Queue) (urg : Bool) (i : BitVec 32) : Bool :=
  decide ((i - q.free urg).toNat < (c.head urg - q.free urg).toNat) || c.taken.contains (urg, i)

/-- Free indices advanced over slots that every consumer port has taken (R72), at most `n` of them. -/
def Queue.freeLane (urg : Bool) : Nat → Queue → Queue
  | 0, q => q
  | n + 1, q =>
    let i := q.free urg
    if q.present urg i && !q.cons.isEmpty && q.cons.all (fun c => decide (0 < (c.head urg - i).toNat ∧ (c.head urg - i).toNat ≤ 2 ^ 31))
        && !(!urg && q.isHeld i) then
      let port := (q.owners.find? (fun o => o.1 == urg && o.2.1 == i)).map (·.2.2)
      let q1 : Queue := { q with
        freeN := if urg then q.freeN else i + 1
        freeU := if urg then i + 1 else q.freeU
        owners := q.owners.filter (fun o => !(o.1 == urg && o.2.1 == i))
        marks := if urg then q.marks else q.marks.filter (fun m => m.1 != i)
        acks := match port with
          | some p => if q.isLocal p then q.acks else q.acks ++ [p]
          | none => q.acks }
      Queue.freeLane urg n q1
    else q

/-- Both lanes freed as far as they go, with the lines of the freed slots (R72, R81). -/
def State.freeSlots (s : State) (id : Nat) : State :=
  match s.queue? id with
  | none => s
  | some q =>
    let q1 := (q.freeLane false (q.tailN - q.freeN).toNat).freeLane true (q.tailU - q.freeU).toNat
    let lines := [false, true].flatMap (fun u => (List.range ((q1.free u - q.free u).toNat)).flatMap
      (fun k => q.linesOf u (q.free u + BitVec.ofNat 32 k)))
    ((s.setQueue id q1).lineBits q1 lines).hostHalf id

/-- Head of a lane moved over what is already taken, at most `n` slots. -/
def ConsPort.settle (urg : Bool) (tail : BitVec 32) : Nat → ConsPort → ConsPort
  | 0, c => c
  | n + 1, c =>
    let h := c.head urg
    if h ≠ tail ∧ c.taken.contains (urg, h) then
      ConsPort.settle urg tail n { c with headN := if urg then c.headN else h + 1, headU := if urg then h + 1 else c.headU,
                                          taken := c.taken.filter (fun t => t != (urg, h)) }
    else c

/-- A consumer port takes `n` slots from `i` on (R70), without counting an urgent take. -/
def State.passSlots (s : State) (id c : Nat) (urg : Bool) (i : BitVec 32) (n : Nat) : State :=
  match s.queue? id with
  | none => s
  | some q =>
    let f := fun (x : ConsPort) =>
      ConsPort.settle urg (q.tail urg) (x.taken.length + n)
        { x with taken := x.taken ++ (List.range n).map (fun k => (urg, i + BitVec.ofNat 32 k)) }
    (s.setQueue id { q with cons := listModify f c q.cons, unparkedAt := s.micros, lastUse := s.micros }).freeSlots id

/-- The count of urgent takes in a row after a take from a lane (R57). -/
def ConsPort.count (urg : Bool) (x : ConsPort) : ConsPort := { x with urgRun := if urg then x.urgRun + 1 else 0 }

/-- A consumer port takes the item of slot `i` (R57, R231): reservation and hold on it end. The urgent count moves unless it moved
when the item was reserved. -/
def State.take (s : State) (id c : Nat) (urg : Bool) (i : BitVec 32) : State :=
  match s.queue? id with
  | none => s
  | some q =>
    let q1 : Queue := { q with
      items := q.items.filter (fun r => !(r.cons == c && r.urgent == urg && r.index == i))
      heldItems := q.heldItems.filter (fun h => h != (c, urg, i))
      cons := if q.items.any (fun r => r.cons == c && r.urgent == urg && r.index == i) then q.cons
              else listModify (ConsPort.count urg) c q.cons }
    (s.setQueue id q1).passSlots id c urg i 1

/-- The oldest slot of a lane, from `i` on, that the port has not taken and that is neither reserved nor held. A slot that a
`qget.p` holds is not yet written and ends the search (R234). -/
def Queue.nextSlot (q : Queue) (c : Nat) (x : ConsPort) (urg : Bool) : Nat → BitVec 32 → Option (BitVec 32)
  | 0, _ => none
  | n + 1, i =>
    if !urg && q.isHeld i then none
    else if x.taken.contains (urg, i) || q.items.any (fun r => r.cons == c && r.urgent == urg && r.index == i)
        || q.heldItems.contains (c, urg, i) then
      q.nextSlot c x urg n (i + 1)
    else some i

/-- The next slot of a lane that the port could take: the oldest it has not taken, where that slot is fresh (R71). -/
def State.laneNext (s : State) (q : Queue) (c : Nat) (x : ConsPort) (urg : Bool) : Option (BitVec 32) :=
  (q.nextSlot c x urg (q.tail urg - x.head urg).toNat (x.head urg)).filter (s.fresh q urg)

/-- Whether a marker or wait entry pushed before urgent slot `u` still stands before the port (R78). -/
def Queue.behindMark (q : Queue) (x : ConsPort) (u : BitVec 32) : Bool :=
  q.marks.any (fun m => !x.passed q false m.1 && decide ((u - m.2).toNat < 2 ^ 31))

/-- What a taking instruction finds (R230, Table 10-2). -/
inductive Cand where
  | none
  | parked
  | marker (mkid : BitVec 32)
  | item (urg : Bool) (i : BitVec 32)
  deriving DecidableEq, Repr

/-- The candidate among unreserved items (R57, R78, R87, R230). -/
def State.candFree (s : State) (q : Queue) (c : Nat) (x : ConsPort) : Cand :=
  if q.mapped.isNone then .none
  else if s.parkedFor q x then .parked
  else
    let un := (s.laneNext q c x true).filter (fun u => !q.behindMark x u)
    let nn := s.laneNext q c x false
    let normalIsItem := match nn with
      | some i => s.kindAt q false i == 0 || s.kindAt q false i == 3
      | none => false
    match un with
    | some u =>
      if x.urgRun ≥ 256 && normalIsItem then .item false (nn.getD 0) else .item true u
    | none =>
      match nn with
      | none => .none
      | some i =>
        match s.kindAt q false i with
        | 1 => .marker (s.mkidAt q false i)
        | 2 => .parked
        | _ => .item false i

/-- The candidate of a consumer port for a context that runs a firing or not (R230); an unmapped queue has none, reserved or not (R379). -/
def State.candidate (s : State) (q : Queue) (c : Nat) (k : Option FiringKey) : Cand :=
  match q.cons[c]? with
  | none => .none
  | some x =>
    if q.mapped.isNone then .none
    else match q.items.find? (fun r => r.cons == c && some r.key == k && !q.heldItems.contains (c, r.urgent, r.index)) with
    | some r => .item r.urgent r.index
    | none => s.candFree q c x

/-- The urgent count of a port that finds its urgent lane empty (R57): nothing of it is left that the port could still take. -/
def Queue.noteEmpty (q : Queue) (c : Nat) : Queue :=
  { q with cons := listModify (fun x =>
      if (q.nextSlot c x true (q.tailU - x.headU).toNat x.headU).isNone then { x with urgRun := 0 } else x) c q.cons }

/-- A port looks at its lanes: an empty urgent lane sets its count to 0 (R57). -/
def State.noteEmpty (s : State) (id c : Nat) : State := s.modQueue id (·.noteEmpty c)

/-- The consumer port that an owner holds on a queue. -/
def Queue.consOf (q : Queue) (o : Owner) : Option Nat := q.cons.findIdx? (fun x => x.owner = o)

/-- The producer port that an owner holds on a queue. -/
def Queue.prodOf (q : Queue) (o : Owner) : Option Nat := q.prods.findIdx? (fun x => x.owner = o)

/-- Items that a consumer port could still take and no firing has reserved, ahead of any marker or wait entry, counted up to
`n` (R36, R87). -/
def State.dataItems (s : State) (c : Nat) : Nat → Queue → Nat
  | 0, _ => 0
  | n + 1, q =>
    match s.candidate q c none with
    | .item u i => 1 + s.dataItems c n { q with
        items := q.items ++ [⟨⟨0, 0, 0⟩, c, u, i⟩], cons := listModify (ConsPort.count u) c q.cons }
    | _ => 0

/-! What a host has written (R398, R399). -/

/-- The notify word of a queue. -/
def State.notifyWord (s : State) (id : Nat) (q : Queue) : Dword :=
  let b := s.notifyBase.get (s.job q.job).part
  if b = 0 then 0 else s.peekD (b + 8 * id)

/-- The notify word of a queue as the queue-slot role read it last (R399). -/
def State.noteSeen (s : State) (id : Nat) (q : Queue) : Dword := mapGet 0 s.host.notifySeen ((s.job q.job).part.1 * 65536 + id)

/-- Items of a host producer admitted (R399): as many as PTAIL announces and the port's free slots allow, with the bytes that
stand in the slots; at most `n`. -/
def State.admitHost (id p : Nat) : Nat → State → State
  | 0, s => s
  | n + 1, s =>
    match s.queue? id with
    | none => s
    | some q =>
      let want : BitVec 32 := (s.noteSeen id q).setWidth 32
      if q.mapped.isSome ∧ q.tailN ≠ want ∧ 0 < q.unreserved p then
        let kind := s.kindAt q false q.tailN
        let q1 : Queue := { q with
          tailN := q.tailN + 1
          owners := q.owners ++ [(false, q.tailN, p)]
          prods := listModify (fun x => if x.remote then { x with used := x.used + 1 } else x) p q.prods
          marks := if kind = 1 ∨ kind = 2 then q.marks ++ [(q.tailN, q.tailU)] else q.marks
          unparkedAt := s.unparkedNow q
          lastUse := s.micros }
        State.admitHost id p n (s.setQueue id q1)
      else s

end Sys2Proof.Machine
end

