-- ==== Sys2Proof/Machine/Ops.lean ====
section
/-! DEFINITION. What every instruction goes through: issue timing and the scoreboard (R142 to R145), waits (R15), taking an
exception (R14, R369 to R372) and answering it (R373), faults reported without an answer, retiring an instruction. -/
namespace Sys2Proof.Machine

/-- The 8-bit code of a cause (Table 20-4). -/
def causeCode : Cause → Nat
  | .illegal => 0x01 | .priv => 0x02 | .shortstall => 0x03 | .align => 0x04 | .bounds => 0x05 | .perm => 0x06
  | .buserr => 0x07 | .window => 0x08 | .type => 0x09 | .table => 0x0A | .qport => 0x0B | .taskcount => 0x0C
  | .qformat => 0x0D | .msgformat => 0x0E | .barformat => 0x0F | .trap => 0x10 | .trapnum => 0x11 | .notfrozen => 0x12
  | .pagefault => 0x18 | .ptformat => 0x19 | .mucmd => 0x20 | .engformat => 0x21 | .layout => 0x22 | .dcmpdata => 0x23
  | .storage => 0x24 | .fabcall => 0x28 | .cfgformat => 0x29 | .cfgcrc => 0x2A | .tokalign => 0x2B | .width => 0x2C
  | .capacity => 0x2D | .marker => 0x30 | .quiesceStuck => 0x31 | .barrierTimeout => 0x32 | .deadlock => 0x33
  | .restart => 0x34 | .linkdown => 0x38 | .msglost => 0x39 | .parity => 0x3A | .eccerr => 0x3B | .mcheck => 0x3F

/-- The causes that have a code, in code order. -/
def allCauses : List Cause :=
  [.illegal, .priv, .shortstall, .align, .bounds, .perm, .buserr, .window, .type, .table, .qport, .taskcount, .qformat,
   .msgformat, .barformat, .trap, .trapnum, .notfrozen, .pagefault, .ptformat, .mucmd, .engformat, .layout, .dcmpdata,
   .storage, .fabcall, .cfgformat, .cfgcrc, .tokalign, .width, .capacity, .marker, .quiesceStuck, .barrierTimeout,
   .deadlock, .restart, .linkdown, .msglost, .parity, .eccerr, .mcheck]

/-- The cause of a code, where Table 20-4 assigns one. -/
def causeOfCode (n : Nat) : Option Cause := allCauses.find? (fun c => causeCode c == n)

/-- An 8-bit code as a status word carries it. -/
def code8 (c : Cause) : BitVec 8 := BitVec.ofNat 8 (causeCode c)

/-- The eight dwords of a record with ABORTS, LOST and RID (Table 20-5). -/
def recordDwords (r : FaultRec) (aborts : BitVec 32) (lost : Nat) (rid : BitVec 16) : List Dword :=
  [BitVec.ofNat 64 (r.aux % 2 ^ 32 * 2 ^ 32 + min lost 255 * 2 ^ 24 + (r.who.map (·.2)).getD 0 % 64 * 2 ^ 18 + (if r.ans then 2 ^ 17 else 0)
      + (if r.imp then 2 ^ 16 else 0) + r.src % 16 * 2 ^ 12 + causeCode r.cause),
   r.addr, r.place, BitVec.ofNat 64 (aborts.toNat * 2 ^ 16 + rid.toNat),
   r.task.extractLsb' 0 64, r.task.extractLsb' 64 64, r.task.extractLsb' 128 64, r.task.extractLsb' 192 64]

/-- Whether a cause goes into the urgent lane of the exception queue (R370). -/
def Cause.urgent : Cause → Bool
  | .marker => true
  | .quiesceStuck => true
  | _ => false

/-- Whether a record of the cause that arises at a context accepts any answer (Table 20-4). -/
def Cause.answered : Cause → Bool
  | .qformat => false
  | .trap => false
  | .dcmpdata => false
  | .storage => false
  | .cfgformat => false
  | .cfgcrc => false
  | .tokalign => false
  | .width => false
  | .capacity => false
  | .deadlock => false
  | .restart => false
  | .linkdown => false
  | .msglost => false
  | .parity => false
  | .mcheck => false
  | _ => true

/-- The abort count of the actor that a record names, as it stands (Table 20-5); 0 without one. -/
def State.abortsOf (s : State) (r : FaultRec) : BitVec 32 := ((r.who.bind (fun w => s.actor? w.1 w.2)).map (·.aborts)).getD 0

/-- TRAPCAUSE, TRAPPC and TRAPVAL (R369). -/
def Ctx.setTrap (x : Ctx) (cause : Cause) (pc addr : Dword) : Ctx :=
  { x with trapCause := BitVec.ofNat 8 (causeCode cause), trapPc := pc, trapVal := addr }

/-- The trap registers of the context that a record names, which the device writes as it posts the record (R369); in the saved image too
where the context is stopped (R372). -/
def State.noteTrap (s : State) (r : FaultRec) : State :=
  match r.ctx with
  | none => s
  | some (c, x) =>
    let s1 := s.modCtx c x (fun y => y.setTrap r.cause r.place r.addr)
    if (s.ctx c x).stopped then
      s1.deviceWrite (s.saveAt (c / 4) (0x10000 + 0x2000 * (4 * (c % 4) + x.1) + 0x440))
        (leBytes 8 (causeCode r.cause) ++ dwordBytes r.place ++ dwordBytes r.addr)
    else s1

/-- A record posted in a tile's exception queue: numbered, with the abort count of its actor and LOST since the previous one (R369 to R372);
`none` where the queue has no free slot. `holder` is the work that awaits the answer. -/
def State.pushRecord (s : State) (t : TileRef) (r : FaultRec) (holder : Option Holder) : Option State :=
  match s.exSide? t with
  | none => none
  | some ex =>
    if s.roomDevice ex.exq r.cause.urgent then
      let body := (recordDwords r (s.abortsOf r) ex.lost ex.nextRid).flatMap dwordBytes
      let s1 := s.pushDevice ex.exq r.cause.urgent ⟨0, 0x7E, 0, body⟩
      some ((s1.modEx t (fun e => { e with
        lost := 0
        nextRid := e.nextRid + 1
        awaiting := match holder with
          | some h => e.awaiting ++ [⟨e.nextRid, r.cause, h⟩]
          | none => e.awaiting })).noteTrap r)
    else none

/-- A tile's exception queue asked for while it is unmapped and a record waits (R379). -/
def State.wantEx (s : State) (t : TileRef) : State :=
  match s.exSide? t with
  | some ex => s.want ex.exq
  | none => s

/-- A report: a record that awaits no answer; where the queue is full it waits among the tile's 16, and beyond that it is lost
and counted (R372). -/
def State.report (s : State) (t : TileRef) (r : FaultRec) : State :=
  let q := { r with ans := false }
  match s.exSide? t with
  | none => s
  | some ex =>
    if ex.reports.isEmpty then
      match s.pushRecord t q none with
      | some s' => s'
      | none => (s.modEx t (fun e => { e with reports := [q] })).wantEx t
    else if ex.reports.length < 16 then (s.modEx t (fun e => { e with reports := e.reports ++ [q] })).wantEx t
    else s.modEx t (fun e => { e with lost := min 255 (e.lost + 1) })

/-- Reports that waited, pushed in order while there is room, at most `n`. -/
def State.flushReports (t : TileRef) : Nat → State → State
  | 0, s => s
  | n + 1, s =>
    match s.exSide? t with
    | some ⟨_, _, l :: r, _, _, _⟩ =>
      match s.pushRecord t l none with
      | some s' => State.flushReports t n (s'.modEx t (fun e => { e with reports := r }))
      | none => s.wantEx t
    | _ => s

/-- The actor that a record of a context names (Table 20-5). -/
def Ctx.actorNamed (x : Ctx) : Option (Nat × Nat) :=
  match x.run with
  | .firing r => some (recHome r / 4, recActor r)
  | _ => none

/-- The record of a cause that arises at a context (SRC 0 or 1); QFORMAT is a report there too (R371). -/
def State.contextRec (s : State) (c : Nat) (x : Fin 4) (cause : Cause) (addr : Dword) : FaultRec :=
  let y := s.ctx c x
  { cause := cause, src := if y.inHandler then 1 else 0, who := y.actorNamed, ans := cause != .qformat, addr := addr, place := y.pc.setWidth 64,
    ctx := some (c, x), task := y.record.getD 0 }

/-- The records of a context in a fault wait that have not been posted yet (R372). -/
def Ctx.unposted (x : Ctx) : List FaultRec :=
  match x.wait with
  | .fault l => l
  | _ => []

/-- A context stops in a fault wait on a record (R372): posted now, or held, behind those that wait already, until the exception queue has
a free slot. -/
def State.faultStop (s : State) (c : Nat) (x : Fin 4) (r : FaultRec) (h : Holder) : State :=
  match (s.ctx c x).unposted with
  | p :: ps => s.modCtx c x (fun y => { y.met with wait := .fault (p :: ps ++ [r]) })
  | [] =>
    match s.pushRecord (.quad (c / 4)) r (if r.ans then some h else none) with
    | some s' => s'.modCtx c x (fun y => { y.met with wait := .fault [] })
    | none => (s.modCtx c x (fun y => { y.met with wait := .fault [r] })).wantEx (.quad (c / 4))

/-- Taking an exception (R14, R369 to R372), the one operation for every precise cause: no register, memory or state register of the
instruction is written and the pc stays on it; the record is posted, TRAPCAUSE, TRAPPC and TRAPVAL receive the cause, the pc and
the address, and the context waits for the runtime's answer. The issue slot is spent. -/
def State.raise (s : State) (cause : Cause) (addr : Dword) : State :=
  let c := s.cur
  let x := s.me
  let s1 := s.faultStop c x (s.contextRec c x cause addr) (.context c x)
  (s1.modCtx c x (fun y => { y with since := none, waited := 0 })).modCore c (fun k => { k with clock := k.clock + 1 })

/-! Stall events (R55, R56). -/

/-- Whether the running context is at a stall event (R55): its firing or handler has ended, it is stopped, or it waits in a wait that
makes one; a scoreboard wait does after 8 cycles. -/
def Ctx.stalled (x : Ctx) : Bool :=
  x.stopped || match x.run, x.wait with
    | .free, _ => true
    | _, .none => false
    | _, .reg _ => decide (8 ≤ x.waited)
    | _, .resource => decide (8 ≤ x.waited)
    | _, _ => true

/-- Whether a context is ready (R56). -/
def Ctx.ready (x : Ctx) : Bool :=
  !x.stopped && match x.run, x.wait with
    | .free, _ => false
    | _, .none => true
    | _, _ => false

/-- The core notes that its running context has met a stall event, whose wait now ends (R56): it picks the next context in turn, that one last. -/
def Core.leave (x : Fin 4) (k : Core) : Core := if k.running = x ∧ (k.ctxs.get x).stalled then { k with left := true } else k

/-- A wait of a context ends. -/
def State.wakeCtx (s : State) (c : Nat) (x : Fin 4) (f : Ctx → Ctx) : State := (s.modCore c (Core.leave x)).modCtx c x f

/-! Registers. -/

/-- A g register; g0 reads as 0 (Table 6-5). -/
def Ctx.rg (x : Ctx) (r : Fin 32) : Dword := if r.1 = 0 then 0 else x.g.get r

/-- A k register; k0 is the null capability (R121). -/
def Ctx.rk (x : Ctx) (r : Fin 16) : Cap := if r.1 = 0 then {} else x.k.get r

/-- A v register. -/
def Ctx.rv (x : Ctx) (r : Fin 32) : VReg := x.v.get r

/-- A mask. -/
def Ctx.rm (x : Ctx) (r : Fin 8) : Mask := x.m.get r

/-- The register that a write goes to; FPFLAGS has none. -/
def RegWrite.reg : RegWrite → Option RegId
  | .g r _ => some (.g r)
  | .v r _ => some (.v r)
  | .vlo r _ => some (.v r)
  | .m r _ => some (.m r)
  | .k r _ => some (.k r)
  | .flags _ => none

/-- A result written: g0 and k0 ignore it (Table 6-5, R121), FPFLAGS bits are set (R98). -/
def Ctx.apply (x : Ctx) : RegWrite → Ctx
  | .g r v => if r.1 = 0 then x else { x with g := vset x.g r v }
  | .v r v => { x with v := vset x.v r v }
  | .vlo r v => { x with v := vset x.v r ((x.v.get r).extractLsb' 512 512 ++ v) }
  | .m r v => { x with m := vset x.m r v }
  | .k r v => if r.1 = 0 then x else { x with k := vset x.k r v }
  | .flags f => { x with fpflags := x.fpflags ||| f }

/-- Pending fixed-latency results in order of their due cycles, the earlier instruction first where two are due together. -/
def insertPend (p : FixedPend) : List FixedPend → List FixedPend
  | [] => [p]
  | q :: r => if p.due < q.due then p :: q :: r else q :: insertPend p r

/-- The results of which `p` holds are in their registers. -/
def Ctx.landIf (x : Ctx) (p : FixedPend → Bool) : Ctx :=
  (x.fixed.filter p).foldl (fun y p => y.apply p.write) { x with fixed := x.fixed.filter (fun e => !p e) }

/-- The results due by cycle `t` are in their registers (R143). -/
def Ctx.land (x : Ctx) (t : Nat) : Ctx :=
  (x.fixed.filter (fun p => decide (p.due ≤ t))).foldl (fun y p => y.apply p.write)
    { x with fixed := x.fixed.filter (fun p => decide (t < p.due)) }

/-- The results due by cycle `t` into one register. -/
def Ctx.landReg (x : Ctx) (r : Option RegId) (t : Nat) : Ctx := x.landIf (fun p => decide (p.due ≤ t) && p.write.reg == r)

/-- A result of latency `lat` of an instruction that issued in cycle `t` (R143, R144). -/
def Ctx.result (lat t : Nat) (x : Ctx) (w : RegWrite) : Ctx :=
  if lat ≤ 1 then
    { x with fixed := x.fixed.filter (fun p => decide (t + 1 < p.due) || p.write.reg != w.reg || w.reg == none) }.apply w
  else { x with fixed := insertPend ⟨w, t + lat, x.stallchk, lat⟩ x.fixed }

/-- Whether a register's result counts: g0 and k0 never have one pending (R145). -/
def RegId.real : RegId → Bool
  | .g r => r.1 != 0
  | .k r => r.1 != 0
  | _ => true

/-- A variable-latency result joins the pending ones (R143, R145). -/
def Ctx.pend (x : Ctx) (w : RegWrite) : Ctx :=
  match w.reg with
  | some r => if r.real then { x with vars := x.vars ++ [⟨r, some w⟩] } else x
  | none => x.apply w

/-- A register that a later status word or item will fill (R145, R146). -/
def Ctx.await (x : Ctx) (r : RegId) : Ctx := if r.real then { x with vars := x.vars ++ [⟨r, none⟩] } else x

/-- A value that reaches a register awaited (R146). -/
def fillVar (r : RegId) (w : RegWrite) : List VarPend → List VarPend
  | [] => []
  | p :: l => if p.reg = r ∧ p.val = none then ⟨r, some w⟩ :: l else p :: fillVar r w l

/-- A status word on its way to a g register of a context (R146). -/
def State.sendStatus (s : State) (c : Nat) (x : Fin 4) (r : Fin 32) (w : Dword) : State :=
  s.modCtx c x (fun y => { y with vars := fillVar (.g r) (.g r w) y.vars })

/-- Whether a landing register waits for its remote write (R116). -/
def Ctx.landingEmpty (x : Ctx) : RegId → Bool
  | .v r => decide (24 ≤ r.1) && x.landctl.getLsbD (8 + (r.1 - 24)) && !x.landctl.getLsbD (r.1 - 24)
  | _ => false

/-- The register that holds an instruction up on the scoreboard (R116, R145). -/
def Ctx.blocker (x : Ctx) (rd wr : List RegId) : Option RegId :=
  (rd ++ wr).find? (fun r => x.vars.any (fun p => p.reg == r) || (x.landingEmpty r && rd.contains r))

/-- Whether the instruction breaks a stall count under STALLCHK (R144): it reads before a result is due, or its own result of
latency `lat` lands before an earlier one; `lat` 0 stands for a result of variable latency. g0 and k0 have no result pending, whatever instruction
names them (log entry 65). -/
def Ctx.short (x : Ctx) (rd wr : List RegId) (lat t : Nat) : Bool :=
  x.fixed.any (fun p => p.chk && decide (t < p.due) &&
    match p.write.reg with
    | some r => r.real && (rd.contains r || (decide (lat ≠ 0 ∧ t + lat < p.due) && wr.contains r))
    | none => false)

/-! Issuing. -/

/-- What an instruction does once it has its operands: it is done (new state, results of its fixed latency, results of variable
latency, and where it goes if not to the next word), it raises a cause with an address, in the state in which it took its operands or in
one that differs from it by what the checks did to tables and buffers (R363, R374), or it waits (R13). -/
inductive Res where
  | done (s : State) (fixed : List RegWrite) (vars : List RegWrite) (npc : Option VAddr)
  | raise (c : Cause) (addr : Dword)
  | raiseIn (s : State) (c : Cause) (addr : Dword)
  | wait (w : Wait) (s : State)

/-- An instruction that waits takes no effect and is issued again when its wait ends (R15); `t` is the cycle in which it first
issued. -/
def State.hold (s : State) (w : Wait) (t : Nat) : State :=
  let c := s.cur
  (s.modMy (fun x => { x with wait := w, since := some t, waited := 1 })).modCore c (fun k => { k with clock := k.clock + 1 })

/-- An instruction that is done in the present cycle: its results, the pc, the cycle of the next issue (R142). -/
def State.retire (s : State) (st lat : Nat) (fixed vars : List RegWrite) (npc : Option VAddr) : State :=
  let c := s.cur
  let t := (s.core c).clock
  (s.modMy (fun x =>
    let y := vars.foldl Ctx.pend (fixed.foldl (Ctx.result lat t) x)
    { y.met with pc := npc.getD (x.pc + 4), readyAt := t + 1 + st + (if npc.isSome then 1 else 0), since := none, waited := 0 })
  ).modCore c (fun k => { k with clock := t + 1 })

/-- The cycle in which the next word of the issuing context issues: not before its stall count allows (R142). -/
def State.issueCycle (s : State) : Nat := max (s.core s.cur).clock s.my.readyAt

/-- The state at that cycle, with the results due by the cycle `t` in which the word first issued. -/
def State.atIssue (s : State) : State :=
  let t := s.issueCycle
  let c := s.cur
  (s.modMy (fun x => x.land (x.since.getD t))).modCore c (fun k => { k with clock := t })

/-- Whether a register is a v or an m register. -/
def RegId.isVec : RegId → Bool
  | .v _ => true
  | .m _ => true
  | _ => false

/-- Whether an instruction that names these registers waits for its own context's repetition sequence (R203). -/
def State.repWaits (s : State) (rs : List RegId) : Bool :=
  rs.any RegId.isVec && (s.core s.cur).rep.any (fun r => r.ctx == s.me)

/-- The issue of one word by the current context (R141 to R145): stall count, repetition sequence (R203), SHORTSTALL, scoreboard, then the
instruction itself. -/
def State.issue (s : State) (st : Fin 8) (rd wr : List RegId) (lat : Nat) (act : State → Res) : State :=
  let s1 := s.atIssue
  let t := s.my.since.getD s.issueCycle
  if s1.repWaits (rd ++ wr) then s1.hold .resource t
  else if s1.my.short rd wr lat t then s1.raise .shortstall 0
  else match s1.my.blocker rd wr with
    | some r => s1.hold (.reg r) t
    | none =>
      match act s1 with
      | .done s2 fixed vars npc => s2.retire st.1 lat fixed vars npc
      | .raise cause addr => s1.raise cause addr
      | .raiseIn s2 cause addr => s2.raise cause addr
      | .wait w s2 => s2.hold w t

/-- The meaning of a core's word as an outcome. -/
def State.run (s : State) (st : Fin 8) (rd wr : List RegId) (lat : Nat) (act : State → Res) : Host.Outcome State Fault Refusal :=
  .next (s.issue st rd wr lat act)

/-- A handler's words in its inbox entry: first address and one past the last (R241). -/
def handlerSpan (entry : Fin 4) (words : Nat) : Nat × Nat :=
  (0xFFFFFFFFFFFC00 + 0x100 * entry.1, 0xFFFFFFFFFFFC00 + 0x100 * entry.1 + 4 * words)

/-- Whether a context may go to an address: in a handler only to the handler's words (R60). -/
def Ctx.mayGo (x : Ctx) (t : VAddr) : Bool :=
  match x.run with
  | .handler e n _ _ => decide ((handlerSpan e n).1 ≤ t.toNat ∧ t.toNat < (handlerSpan e n).2)
  | _ => true

/-- Done with register results only. -/
def Res.regs (s : State) (fixed : List RegWrite) : Res := .done s fixed [] none

/-- Done with results of variable latency only. -/
def Res.vars (s : State) (vars : List RegWrite) : Res := .done s [] vars none

end Sys2Proof.Machine
end

