-- ==== Sys2Proof/Machine/Memory.lean ====
section
/-! DEFINITION. Memory as agents reach it: capabilities (R118, R119), the page walk and the translation buffers (R359 to R367), the
physical map (R113, R114, Table 19-1), the order of an access's checks (R172), store buffers (R127) and full/empty lines (R80). -/
namespace Sys2Proof.Machine

/-! Capabilities (Table 5-4). -/

/-- CURSOR. -/
def Cap.cursor (k : Cap) : VAddr := k.bits.extractLsb' 0 56
/-- BASE << 8. -/
def Cap.base (k : Cap) : Nat := bitsOf k.bits.toNat 56 48 * 256
/-- E. -/
def Cap.expo (k : Cap) : Nat := bitsOf k.bits.toNat 104 6
/-- Length, M << E. -/
def Cap.len (k : Cap) : Nat := bitsOf k.bits.toNat 110 10 * 2 ^ k.expo
/-- The permissions with R in bit 0 and G in bit 7 (R168). -/
def Cap.perms (k : Cap) : Nat := bitsOf k.bits.toNat 120 8
/-- Whether a capability carries G. -/
def Cap.hasG (k : Cap) : Bool := k.bits.getLsbD 127
/-- Whether a capability carries F. -/
def Cap.hasF (k : Cap) : Bool := k.bits.getLsbD 125
/-- Whether the bits are well formed (R118). -/
def Cap.wellFormed (k : Cap) : Bool := decide (k.expo ≤ 46 ∧ k.base % 2 ^ k.expo = 0 ∧ k.base + k.len ≤ 2 ^ 56)
/-- A capability with another cursor. -/
def Cap.withCursor (k : Cap) (c : VAddr) : Cap := { k with bits := k.bits.extractLsb' 56 72 ++ c }

/-- A capability from its parts, tagged. -/
def mkCap (perms base len expo : Nat) (cursor : Nat) : Cap :=
  { bits := BitVec.ofNat 128 (perms % 256 * 2 ^ 120 + len / 2 ^ expo % 1024 * 2 ^ 110 + expo % 64 * 2 ^ 104
      + base / 256 % 2 ^ 48 * 2 ^ 56 + cursor % 2 ^ 56), tag := true }

/-- Permission bits as R168 orders them. -/
def permR : Nat := 1
def permW : Nat := 2
def permX : Nat := 4
def permL : Nat := 8
def permS : Nat := 16
def permF : Nat := 32
def permA : Nat := 64

/-- Check(k, a, n, p) (R119): the first failing cause. -/
def Cap.check (k : Cap) (a n need : Nat) : Option Cause :=
  if !k.tag then some .perm
  else if k.perms &&& need ≠ need then some .perm
  else if k.base ≤ a ∧ a + n ≤ k.base + k.len then none
  else some .bounds

/-! The physical map (R113, R114, Table 19-1). -/

/-- Region of a physical address, bits [51:44]. Region 256, which no page can map, holds the inbox entries (log entry 16). -/
def regionOf (pa : Nat) : Nat := pa / 2 ^ 44

/-- Where the bytes of inbox entry `e` of core `c` stand (log entry 16). -/
def inboxBase (c : Nat) (e : Fin 4) : Nat := 2 ^ 52 + c * 1024 + e.1 * 256

/-- Offset within the region. -/
def offsetOf (pa : Nat) : Nat := pa % 2 ^ 44

/-- Whether an address lies in a quad scratchpad. -/
def isScratch (pa : Nat) : Bool := regionOf pa == 2 && decide (offsetOf pa < 2 ^ 32 ∧ offsetOf pa % 0x400000 < 0x100000)

/-- Quad of a region 0x02 address. -/
def quadOfPa (pa : Nat) : Nat := offsetOf pa / 0x400000

/-- Core and window offset of an address in a core window (R114). -/
def coreWindow? (pa : Nat) : Option (Nat × Nat) :=
  let o := offsetOf pa % 0x400000
  if regionOf pa = 2 ∧ offsetOf pa < 2 ^ 32 ∧ 0x100000 ≤ o ∧ o < 0x200000 then
    some (4 * quadOfPa pa + (o - 0x100000) / 0x40000, (o - 0x100000) % 0x40000)
  else none

/-- Whether a region is a peer's (Table 5-1). -/
def isPeerRegion (r : Nat) : Bool := decide (0x20 ≤ r ∧ r ≤ 0x2F)

/-- The physical address in a peer module that an offset of its region names (Table 5-1): bits [41:40] select region 0x00, 0x01 or 0x02. -/
def peerAddr (a : Nat) : Nat := a / 2 ^ 40 * 2 ^ 44 + a % 2 ^ 40

/-- Whether an address holds plain memory: HBM, canopy, scratchpads, host memory, and the like of a peer. -/
def isPlain (pa : Nat) : Bool :=
  let r := regionOf pa
  r == 0 || r == 1 || isScratch pa || r == 0x10 || r == 256
    || (isPeerRegion r && (decide (regionOf (peerAddr (offsetOf pa)) < 2) || isScratch (peerAddr (offsetOf pa))))

/-- Sub-region of regions 0x03 and 0x04, offset bits [41:36]. -/
def subOf (pa : Nat) : Nat := offsetOf pa / 2 ^ 36 % 64

/-- Offset below the sub-region. -/
def lowOf (pa : Nat) : Nat := pa % 2 ^ 36

/-- Die that an address of regions 0x00 to 0x04 belongs to (R119). -/
def dieOfPa (pa : Nat) : Nat :=
  match regionOf pa with
  | 0 => offsetOf pa / 2 ^ 36 / 2
  | 1 => offsetOf pa / 2 ^ 32
  | 2 => quadOfPa pa / 256
  | _ => offsetOf pa / 2 ^ 42

/-- The island that a region 0x04 address of sub-region 0 or 2 names, as a module position. -/
def islandOfPa (pa : Nat) : Nat :=
  let k := lowOf pa / (if subOf pa = 0 then 0x10000 else 0x100000)
  modulePos (dieOfPa pa) (k % 8) (k / 8)

/-- Whether Table 5-2 assigns an offset of a core window. -/
def windowAssigned (off : Nat) : Bool :=
  let o := off % 0x2000
  decide ((off < 0x8000 ∧ (o < 0x400 ∨ (0x800 ≤ o ∧ o < 0x880) ∨ 0x1000 ≤ o)) ∨ (0x8000 ≤ off ∧ off < 0xE800) ∨ (0xF000 ≤ off ∧ off < 0xF100))

/-- Whether Table 19-3 assigns an index to a state register (R346). -/
def regAssigned (i : Nat) : Bool :=
  decide (i ≤ 5 ∨ (8 ≤ i ∧ i ≤ 10) ∨ (0x100 ≤ i ∧ i ≤ 0x102) ∨ (0x110 ≤ i ∧ i ≤ 0x120) ∨ (0x130 ≤ i ∧ i ≤ 0x132) ∨ (0x200 ≤ i ∧ i ≤ 0x202))

/-- Whether Table 21-1 assigns an offset of an island's queue-manager page. -/
def qmAssigned (isl off : Nat) : Bool :=
  decide (off < 0x10 ∨ (0x1000 ≤ off ∧ off < 0x1800) ∨ (0xF0000 ≤ off ∧ off < 0xF0008))
    || (isCoreIsland isl && decide (0x80000 ≤ off ∧ off < 0x80200 ∧ off % 0x40 < 0x10))

/-- Whether an address of regions 0x00 to 0x04 is populated (R113, R114, R376, Tables 5-1, 5-2, 19-1). -/
def populatedHere (pa : Nat) : Bool :=
  let o := offsetOf pa
  match regionOf pa with
  | 0 => decide (o / 2 ^ 36 < 8 ∧ o % 2 ^ 36 < 48 * 2 ^ 30)
  | 1 => decide (o / 2 ^ 32 < 4 ∧ o % 2 ^ 32 < 0xA0000000)
  | 2 => decide (o < 2 ^ 32) && (decide (o % 0x400000 < 0x100000)
      || (decide (o % 0x400000 < 0x200000) && windowAssigned ((o - 0x100000) % 0x40000)))
  | 3 => match subOf pa with
    | 0 => decide (lowOf pa < 0x10000000) && (let off := lowOf pa % 0x40000
        if off < 0x20000 then windowAssigned off else regAssigned ((off - 0x20000) % 0x8000 / 8))
    | 1 => decide (lowOf pa < 0x8000000 ∧ lowOf pa % 0x400000 / 1024 < 3584 ∧ lowOf pa % 1024 < 576)
    | 2 => decide (lowOf pa < 0x18 ∨ (0x1000 ≤ lowOf pa ∧ lowOf pa < 0x2000))
    | 3 => decide (lowOf pa < 0x100000)
    | _ => false
  | 4 => match subOf pa with
    | 0 => decide (lowOf pa < 64 * 0x10000)
    | 1 => decide (lowOf pa < 8 * 0x100000)
    | 2 => decide (lowOf pa < 64 * 0x100000) && qmAssigned (islandOfPa pa) (lowOf pa % 0x100000)
    | _ => false
  | _ => false

/-- Whether an address is populated (R113); a peer's regions are laid out as this module's. -/
def populated (pa : Nat) : Bool :=
  let r := regionOf pa
  if r = 0x10 ∨ r = 256 then true
  else if isPeerRegion r then decide (offsetOf pa / 2 ^ 42 = 0 ∧ offsetOf pa / 2 ^ 40 ≠ 3) && populatedHere (peerAddr (offsetOf pa))
  else populatedHere pa

/-- The element and record offset of a region 0x03 address of sub-region 1. -/
def recordOfPa (pa : Nat) : Nat × Nat :=
  ((dieOfPa pa * 32 + lowOf pa / 0x400000) * 3584 + lowOf pa % 0x400000 / 1024, lowOf pa % 1024)

/-- The quad whose window, state registers or TILECTL stand at an address of regions 0x02 to 0x04. -/
def windowQuad? (pa : Nat) : Option Nat :=
  match regionOf pa, subOf pa with
  | 2, _ => some (quadOfPa pa)
  | 3, 0 => some ((1024 * dieOfPa pa + lowOf pa / 0x40000) / 4)
  | 4, 2 =>
    let off := lowOf pa % 0x100000
    if isCoreIsland (islandOfPa pa) ∧ 0x80000 ≤ off ∧ off < 0x80200 then some (firstCoreOfIsland (islandOfPa pa) / 4 + (off - 0x80000) / 0x40)
    else none
  | _, _ => none

/-! Who asks. -/

/-- An access: the agent, its island, the job whose page table serves it, its privilege, whether it acts for a core of the arbor
column, and the core whose translation buffer it uses. -/
structure Access where
  agent : Agent
  island : Nat
  job : Nat
  priv : Nat
  arbor : Bool
  core : Option Nat
  deriving DecidableEq, Repr

/-- The accesses of a context. -/
def State.accessOf (s : State) (c : Nat) (x : Fin 4) : Access :=
  ⟨.context c x, islandOfCore c, s.jobOf c, s.privOf c, s.isArbor (c / 4), some c⟩

/-- The accesses of the issuing context. -/
def State.myAccess (s : State) : Access := s.accessOf s.cur s.me

/-- The firewall of a die (R343), in force from the moment the boot ROM locks it: it refuses an agent outside the arbor column an arbor
quad's windows and the arbor configuration. Code at tile privilege does not reach the window of an arbor quad or of a quad whose tile runs
above tile privilege either (R31, log entry 67). -/
def State.firewalled (s : State) (a : Access) (pa : Nat) : Bool :=
  let r := regionOf pa
  let q := windowQuad? pa
  (!a.arbor && (s.die (dieOfPa pa)).fwLock && ((r == 3 && subOf pa == 3) || q.any s.isArbor))
    || (a.priv == 0 && r == 2 && q.any (fun q => s.isArbor q || (s.quad q).tile.any (fun t => t.priv.1 != 0)))

/-- Whether an address is a record of an element that its island does not have (R22). -/
def State.fusedRecord (s : State) (pa : Nat) : Bool := regionOf pa == 3 && subOf pa == 1 && s.isFused (recordOfPa pa).1

/-- Steps 4 and 5 of R172 and the firewall: PRIV or BUSERR of the region (R113, R22, R16, R345; log entry 66 for what R345 does not name),
PERM beyond G (R119), PERM of a peer whose aperture for this module the request misses (R404), PERM of the firewall (R343) and of the security
controller (R414). Which requests a peer refuses is not known here: it is free (log entry 92). -/
def State.route (s : State) (a : Access) (g : Bool) (pa : Nat) : Option Cause :=
  let r := regionOf pa
  let d := dieOfPa pa
  let here := dieOfIsland a.island
  if r = 256 then none
  else if r = 3 ∧ subOf pa = 2 ∧ populated pa ∧ !a.arbor then some .perm
  else if (r = 3 ∨ r = 4) ∧ a.priv = 0 then some .priv
  else if !populated pa ∨ s.fusedRecord pa then some .buserr
  else if r ≤ 4 ∧ !s.reaches here d then some .buserr
  else if !g ∧ (r ≥ 0x10 ∨ d ≠ here) then some .perm
  else if isPeerRegion r && Config.peerRefuses s.turns (r - 0x20) (pa % 2 ^ 44) then some .perm
  else if s.firewalled a pa then some .perm
  else none

/-- Whether some port to a peer is up (R404). -/
def State.peerUp (s : State) (m : Nat) : Bool :=
  (List.finRange 12).any (fun p => (s.peers.get (Fin.ofNat 16 m)).mask.getLsbD p.1 && (s.links.get p).up)

/-- Whether a request to a peer waits for a port that is up (log entry 27). -/
def State.linkDown (s : State) (pa : Nat) : Bool := isPeerRegion (regionOf pa) && !s.peerUp (regionOf pa - 0x20)

/-! Translation (R359 to R367). -/

/-- What a walk finds: a translation with the entry it came from, a page that is absent, or a malformed entry. -/
inductive Walk where
  | leaf (x : Xlat) (accessed : Bool)
  | absent
  | bad
  deriving DecidableEq, Repr

/-- One leaf entry (R360 to R362): its page size by level, its group, its alignment. -/
def leafWalk (job va level pte e : Nat) : Walk :=
  let size := 2 ^ (12 + 9 * level)
  let ppn := bitsOf e 12 40 * 4096
  let type := bitsOf e 4 2
  let cont := bitsOf e 2 2
  let n := if cont = 0 then 1 else if cont = 1 then 4 else 16
  let i := va / size % 512
  let start := ppn - i % n * size
  if level ≥ 3 ∨ type ≥ 2 ∨ cont = 3 ∨ ppn % size ≠ 0 ∨ (cont = 1 ∧ level ≠ 0) ∨ ppn < i % n * size
      ∨ start % (n * size) ≠ 0 then .bad
  else .leaf ⟨job, va / (n * size) * (n * size), n * size, start, type == 1, e.testBit 7, pte⟩ (e.testBit 6)

/-- Level 0 of a walk: only leaves (R361). -/
def State.walkLast (s : State) (job va table : Nat) : Walk :=
  let pte := table + va / 4096 % 512 * 8
  let e := (s.peekD pte).toNat
  if e % 2 = 0 then .absent
  else if bitsOf e 52 4 ≠ 0 ∨ bitsOf e 8 4 ≠ 0 then .bad
  else if e.testBit 1 then leafWalk job va 0 pte e
  else .bad

/-- The walk from a table at `level` (R359, R361). -/
def State.walkAt (s : State) (job va : Nat) : Nat → Nat → Walk
  | 0, table => s.walkLast job va table
  | n + 1, table =>
    let pte := table + va / 2 ^ (12 + 9 * (n + 1)) % (if n + 1 = 4 then 256 else 512) * 8
    let e := (s.peekD pte).toNat
    if e % 2 = 0 then .absent
    else if bitsOf e 52 4 ≠ 0 ∨ bitsOf e 8 4 ≠ 0 then .bad
    else if e.testBit 1 then leafWalk job va (n + 1) pte e
    else if bitsOf e 2 6 ≠ 0 ∨ regionOf (bitsOf e 12 40 * 4096) ≠ 0 then .bad
    else s.walkAt job va n (bitsOf e 12 40 * 4096)
/-- The walk for a virtual address of a job (R359). -/
def State.walk (s : State) (job va : Nat) : Walk := s.walkAt job (va % 2 ^ 56) 4 (s.job job).root

/-- Whether a translation serves an address. -/
def Xlat.serves (x : Xlat) (job va : Nat) : Bool := x.job == job && decide (x.va ≤ va ∧ va < x.va + x.size)

/-- Buffers hold so many entries (R364); the oldest makes room. -/
def pushXlat (limit : Nat) (x : Xlat) (l : List Xlat) : List Xlat :=
  (x :: l.filter (fun y => !(y.job == x.job && y.va == x.va && y.size == x.size))).take limit

/-- The entry of a core's buffer or of its island's that serves an address (R364). -/
def State.findXlat (s : State) (a : Access) (va : Nat) : Option Xlat :=
  match (match a.core with
    | some c => (s.core c).tlb.find? (·.serves a.job va)
    | none => none) with
  | some x => some x
  | none => (s.island a.island).tlb.find? (·.serves a.job va)

/-- A through a store used entry marks the page dirty: D is set in the table and in the buffers (R363). -/
def State.markDirty (s : State) (a : Access) (x : Xlat) : State :=
  let f := fun (l : List Xlat) => l.map (fun y => if y.pte = x.pte then { y with dirty := true } else y)
  let s1 := s.deviceWrite x.pte [(s.mem.read x.pte ||| 0x80)]
  let s2 := s1.modIsland a.island (fun i => { i with tlb := f i.tlb })
  match a.core with
  | some c => s2.modCore c (fun k => { k with tlb := f k.tlb })
  | none => s2

/-- The failed walk of an address's page that an agent has still to meet (R366, R367). -/
def State.failedFor (s : State) (a : Access) (va : Nat) : Option Cause :=
  match a.agent with
  | .context c x => ((s.ctx c x).missCause.filter (fun f => f.1 == va / 4096)).map (·.2)
  | g => ((s.island a.island).failed.find? (fun f => f.1 = g ∧ f.2.1 = va / 4096)).map (·.2.2)

/-- The failure met: it is no longer waiting for its agent. -/
def State.dropFailed (s : State) (a : Access) (va : Nat) : State :=
  match a.agent with
  | .context c x => s.modCtx c x (fun y => { y with missCause := none })
  | g => s.modIsland a.island (fun i => { i with failed := i.failed.filter (fun f => !(decide (f.1 = g) && f.2.1 == va / 4096)) })

/-- Whether an agent is an access of an engine. -/
def Agent.ofEngine (q : Nat) : Agent → Bool
  | .engine n _ => n == q
  | _ => false

/-- An engine's entry is over: no access of it waits on a walk or has a failed walk to meet (R257, R367). -/
def State.dropEngine (s : State) (isl q : Nat) : State :=
  s.modIsland isl (fun i => { i with
    failed := i.failed.filter (fun f => !f.1.ofEngine q)
    misses := i.misses.map (fun m => { m with clients := m.clients.filter (fun g => !g.ofEngine q) }) })

/-- A miss taken (R364): joins the entry of its page and job, or takes one of the 256 entries; beyond that it only waits. -/
def State.takeMiss (s : State) (a : Access) (va : Nat) (kind : Fin 4) : State :=
  s.modIsland a.island (fun i =>
    if i.misses.any (fun m => m.vpage == va / 4096 && m.job == a.job) then
      { i with misses := i.misses.map (fun m =>
          if m.vpage = va / 4096 ∧ m.job = a.job then
            { m with clients := if m.clients.contains a.agent then m.clients else m.clients ++ [a.agent] }
          else m) }
    else if i.misses.length < 256 then { i with misses := i.misses ++ [⟨va / 4096, a.job, kind, va, none, [a.agent]⟩] }
    else i)

/-- What translating one address gives. -/
inductive Look where
  | hit (s : State) (pa : Nat) (effect : Bool)
  | fail (s : State) (c : Cause)
  | miss (s : State)

/-- The inbox entry that a handler runs from, as the addresses it may reach through k15: physical base, first byte of the body and
end of the message (R59, R241). -/
def State.inboxOf (s : State) (a : Access) : Option (Nat × Nat × Nat × Nat) :=
  match a.agent with
  | .context c x =>
    match (s.ctx c x).run with
    | .handler e w _ _ =>
      let v := (handlerSpan e w).1
      some (v, v + 4 * w, v + (((s.core c).inbox.get e).map (·.len)).getD 0, inboxBase c e)
    | _ => none
  | _ => none

/-- Whether an address lies in the inbox entry of the handler that asks. -/
def State.inInbox (s : State) (a : Access) (va : Nat) : Bool :=
  match s.inboxOf a with
  | some (v, _, _, _) => decide (v ≤ va ∧ va < v + 256)
  | none => false

/-- Translation of one address (step 3 of R172): kind 0 read, 1 write, 2 fetch, 3 atomic (R365). A failed walk of the page comes first: the
access that missed fails, whatever has been mapped since (R366). -/
def State.look (s : State) (a : Access) (va : Nat) (kind : Fin 4) : Look :=
  if s.inInbox a va then
    match s.inboxOf a with
    | some (v, _, _, b) => .hit s (b + (va - v)) false
    | none => .fail s .pagefault
  else match s.failedFor a va with
  | some c => .fail (s.dropFailed a va) c
  | none =>
    match s.findXlat a va with
    | some x =>
      let write := kind.1 == 1 || kind.1 == 3
      .hit (if write && !x.dirty then s.markDirty a x else s) (x.pa + (va - x.va)) x.effect
    | none => .miss (s.takeMiss a va kind)

/-- Whether an address lies in a flash mapping of a job (R261). -/
def State.inFlash (s : State) (job va : Nat) : Bool := (s.job job).flash.any (fun f => decide (f.va ≤ va ∧ va < f.va + f.len))

/-! One access through a capability, steps 1 to 5 of R172. -/

/-- The outcome of the checks of an access; a fault leaves what step 3 has done to the table (R363). -/
inductive Acc where
  | ok (s : State) (pa : Nat) (effect : Bool)
  | fault (s : State) (c : Cause) (va : Nat)
  | miss (s : State)

/-- Whether an access of a handler to its inbox entry leaves the message body (R59, log entry 16). -/
def State.outsideBody (s : State) (a : Access) (va n : Nat) : Bool :=
  match s.inboxOf a with
  | some (v, lo, hi, _) => decide (v ≤ va ∧ va < v + 256 ∧ ¬ (lo ≤ va ∧ va + n ≤ hi))
  | none => false

/-- Steps 1 to 3 of R172 for an access of `n` bytes aligned to `al` that needs permissions `need`. -/
def State.located (s : State) (a : Access) (k : Cap) (va n al need : Nat) (kind : Fin 4) : Acc :=
  if va % al ≠ 0 then .fault s .align va
  else match k.check va n need with
    | some c => .fault s c va
    | none =>
      if s.outsideBody a va n then .fault s .bounds va
      else if s.inFlash a.job va then .fault s .perm va
      else match s.look a va kind with
        | .fail s1 c => .fault s1 c va
        | .miss s1 => .miss s1
        | .hit s1 pa eff => .ok s1 pa (eff || k.hasF)

/-- Steps 1 to 5 of R172. -/
def State.checked (s : State) (a : Access) (k : Cap) (va n al need : Nat) (kind : Fin 4) : Acc :=
  match s.located a k va n al need kind with
  | .ok s1 pa eff =>
    match s1.route a k.hasG pa with
    | some c => .fault s1 c va
    | none => .ok s1 pa eff
  | r => r

/-- Steps 2 to 5 for a range that may cross pages, one page after another, from `va` on: the physical pieces in order. -/
def State.checkedRange (s : State) (a : Access) (k : Cap) (kind : Fin 4) (need : Nat) :
    Nat → Nat → Nat → Acc
  | 0, va, _ => .fault s .bounds va
  | fuel + 1, va, n =>
    let m := min n (4096 - va % 4096)
    match s.checked a k va m 1 need kind with
    | .ok s1 pa eff => if n ≤ m then .ok s1 pa eff else s1.checkedRange a k kind need fuel (va + m) (n - m)
    | .fault s1 c v => .fault s1 c v
    | .miss s1 => .miss s1

/-- Physical address of a byte that a buffer translates; 0 where none does. -/
def State.paOf (s : State) (a : Access) (va : Nat) : Nat :=
  match s.findXlat a va with
  | some x => x.pa + (va - x.va)
  | none => 0

/-! Step 6: rules of the target. -/

/-- Whether a scratchpad address lies in the overflow ring area of a core (R48, R49). -/
def State.inRing (s : State) (pa : Nat) : Bool :=
  isScratch pa && match (s.quad (quadOfPa pa)).tile with
    | some t => decide (0x40000 - t.ring * 32 ≤ offsetOf pa % 0x40000)
    | none => false

/-- Whether an address lies on a line of a mapped ring homed in a scratchpad (R81). -/
def State.onRingLine (s : State) (pa : Nat) : Bool :=
  s.queues.any (fun e => e.2.mapped.isSome && e.2.homeKind == 0 &&
    (List.range (e.2.footprint / 128 + 1)).any (fun k => decide (e.2.pa (e.2.base + 128 * k) / 128 = pa / 128 ∧ 128 * k < e.2.footprint)))

/-! Plain reads and writes. -/

/-- The newest byte of a store buffer at an address (R127), the buffer listed oldest first. -/
def bufferedByte (a : Nat) : List StoreEntry → Option Byte
  | [] => none
  | e :: r =>
    match bufferedByte a r with
    | some b => some b
    | none => if e.pa ≤ a ∧ a < e.pa + e.bytes.length ∧ e.mask.testBit (a - e.pa) then e.bytes[a - e.pa]? else none

/-- Bytes as a context sees them: its own buffered stores before memory (R127). -/
def State.viewBytes (s : State) (b : List StoreEntry) : Nat → Nat → List Byte
  | _, 0 => []
  | a, n + 1 => (bufferedByte a b).getD (s.mem.read a) :: s.viewBytes b (a + 1) n

/-- Whether a byte of [a, a + n) is poisoned (R374). -/
def State.poisoned (s : State) (a n : Nat) : Bool := s.poison.any (fun p => decide (a ≤ p ∧ p < a + n))

/-- The 64-byte lines of [a, a + n) that a host cache may hold (R396). -/
def State.trackedIn (s : State) (a n : Nat) : List Nat :=
  s.host.tracked.filter (fun l => decide (a / 64 ≤ l ∧ l ≤ (a + n - 1) / 64))

/-- Back-invalidate snoops sent for the tracked lines of a write (R396); `none` when no line is tracked, so that the write may be
performed. -/
def State.snoop (s : State) (a n : Nat) : Option State :=
  if regionOf a = 0 ∧ n ≠ 0 ∧ !(s.trackedIn a n).isEmpty then
    some { s with host := { s.host with snooped := (s.trackedIn a n).foldl (fun l x => setAdd x l) s.host.snooped } }
  else none

/-- Tags of 16-byte granules. -/
def State.tagAt (s : State) (pa : Nat) : Bool := s.tags.contains (pa / 16)

/-- A granule's tag set or cleared. -/
def State.setTag (s : State) (pa : Nat) (t : Bool) : State :=
  { s with tags := if t then setAdd (pa / 16) s.tags else setDel (pa / 16) s.tags }

/-- Whether a scratchpad line is full (R80). -/
def State.isFull (s : State) (pa : Nat) : Bool := s.full.contains (pa / 128)

/-- A line's full/empty bit. -/
def State.setFull (s : State) (pa : Nat) (f : Bool) : State :=
  { s with full := if f then setAdd (pa / 128) s.full else setDel (pa / 128) s.full }

end Sys2Proof.Machine
end

