-- ==== Sys2Proof/Machine/MuOps.lean ====
section
/-! DEFINITION. The matrix unit (chapter 9): command words (R210), the check at acceptance (R209), acceptance (R207), and what each
command does when it is performed (R211 to R219). -/
namespace Sys2Proof.Machine

/-- A command by its fields (Table 9-2). -/
inductive MuCmd where
  | mma (tile afmt km1 aoff astride : Nat)
  | mmat (tile afmt km1 aoff astride : Nat)
  | mmas (tile afmt nm1 voff coff : Nat)
  | azero (tile : Nat)
  | aload (tile sfmt off stride : Nat)
  | astore (tile dfmt : Nat) (atype clr full : Bool) (off stride : Nat)
  | bsel (bfmt boff : Nat)
  | bfill (esz : Bool) (km1 soff doff : Nat)
  | tblsel (atbl btbl stbl : Nat)
  | mfence
  | msig (greg : Nat)
  deriving DecidableEq, Repr

/-- The command that eight dwords hold; `none` for a reserved OPC or a nonzero RSVD bit (R210). Reserved field values are found by
the check. -/
def parseMu (ws : List Dword) : Option MuCmd :=
  let c0 := (ws.getD 0 0).toNat
  let c1 := (ws.getD 1 0).toNat
  let tile := bitsOf c0 8 3
  let fm := bitsOf c0 16 3
  let hi := bitsOf c0 20 12
  let off := bitsOf c0 32 20
  let str := bitsOf c1 0 20
  let rest := (ws.drop 2).all (· == 0) && bitsOf c0 52 12 == 0 && bitsOf c1 20 44 == 0
  let low := bitsOf c0 11 5 == 0
  if !rest || !low then none
  else match bitsOf c0 0 8 with
    | 0x01 => if bitsOf c0 19 1 = 0 then some (.mma tile fm hi off str) else none
    | 0x02 => if bitsOf c0 19 1 = 0 then some (.mmat tile fm hi off str) else none
    | 0x03 => if bitsOf c0 19 1 = 0 then some (.mmas tile fm hi off str) else none
    | 0x10 => if bitsOf c0 16 48 = 0 ∧ c1 = 0 then some (.azero tile) else none
    | 0x11 => if bitsOf c0 19 13 = 0 then some (.aload tile fm off str) else none
    | 0x12 => if bitsOf c0 22 10 = 0 then
        some (.astore tile fm (c0.testBit 19) (c0.testBit 20) (c0.testBit 21) off str) else none
    | 0x20 => if tile = 0 ∧ bitsOf c0 19 13 = 0 ∧ bitsOf c0 49 15 = 0 ∧ c1 = 0 then some (.bsel fm (bitsOf c0 32 17)) else none
    | 0x21 => if tile = 0 ∧ bitsOf c0 17 3 = 0 ∧ bitsOf c1 17 47 = 0 then
        some (.bfill (c0.testBit 16) hi off (bitsOf c1 0 17)) else none
    | 0x22 => if tile = 0 ∧ bitsOf c0 18 1 = 0 ∧ bitsOf c0 21 1 = 0 ∧ bitsOf c0 24 40 = 0 ∧ c1 = 0 then
        some (.tblsel (bitsOf c0 16 2) (bitsOf c0 19 2) (bitsOf c0 22 2)) else none
    | 0x30 => if bitsOf c0 8 56 = 0 ∧ c1 = 0 then some .mfence else none
    | 0x31 => if tile = 0 ∧ bitsOf c0 16 3 = 0 ∧ bitsOf c0 24 40 = 0 ∧ c1 = 0 then some (.msig (bitsOf c0 19 5)) else none
    | _ => none

/-- The tile that a command names (R117). -/
def MuCmd.tile? : MuCmd → Option Nat
  | .mma t _ _ _ _ => some t
  | .mmat t _ _ _ _ => some t
  | .mmas t _ _ _ _ => some t
  | .azero t => some t
  | .aload t _ _ _ => some t
  | .astore t _ _ _ _ _ _ => some t
  | _ => none

/-- The cycles for which a command occupies the unit (Table 9-7). -/
def MuCmd.cycles : MuCmd → Nat
  | .mma _ _ n _ _ | .mmat _ _ n _ _ | .mmas _ _ n _ _ | .bfill _ n _ _ => n + 1
  | .aload _ _ _ _ | .astore _ _ _ _ _ _ _ => 16
  | .azero _ | .bsel _ _ | .tblsel _ _ _ | .msig _ => 1
  | .mfence => 0

/-- Whether a command in flight names a tile. -/
def Mu.busyTile (m : Mu) (t : Nat) : Bool := m.queue.any (fun e => (parseMu e.words).bind MuCmd.tile? == some t)

/-- A decode table's entries. -/
def Mu.table (m : Mu) (t : Nat) : Tbl := (List.range 256).map (fun c => mapGet 0 m.tbl (256 * t + c))

/-- An entry written. -/
def Mu.setEntry (m : Mu) (t c : Nat) (x : BitVec 20) : Mu :=
  { m with tbl := if x = 0 then mapDel (256 * t + c) m.tbl else mapPut (256 * t + c) x m.tbl }

/-- An accumulator element. -/
def Mu.el (m : Mu) (t k : Nat) : Dword := mapGet 0 m.acc (256 * t + k)

/-- An accumulator element written. -/
def Mu.setEl (m : Mu) (t k : Nat) (x : Dword) : Mu :=
  { m with acc := if x = 0 then mapDel (256 * t + k) m.acc else mapPut (256 * t + k) x m.acc }

/-- A tile's OVF. -/
def Mu.setOvf (m : Mu) (t : Nat) (b : Bool) : Mu :=
  { m with ovf := if b then m.ovf ||| BitVec.ofNat 8 (2 ^ t) else m.ovf &&& ~~~(BitVec.ofNat 8 (2 ^ t)) }

/-- A tile with every bit 0 and OVF clear (R214). -/
def Mu.zero (m : Mu) (t : Nat) : Mu :=
  { (m.setOvf t false) with acc := m.acc.filter (fun e => e.1 / 256 != t) }

/-- Size of an A or B element (Table 9-3). -/
def inSize (f : Nat) : Nat := if f = 2 ∨ f = 3 then 2 else 1

/-- Size of a loaded or stored element (Table 9-3). -/
def outSize (f : Nat) : Nat :=
  match f with
  | 0 => 8 | 1 => 4 | 2 => 4 | 3 => 2 | 4 => 2 | _ => 1

/-- Whether a run of scratchpad bytes lies inside the scratchpad and outside every overflow ring (R209). -/
def runOk (ring off len : Nat) : Bool :=
  decide (off + len ≤ 0x100000) &&
    (List.range 4).all (fun c => decide (off + len ≤ c * 0x40000 + 0x40000 - ring * 32 ∨ (c + 1) * 0x40000 ≤ off))

/-- Whether `rows` runs of `len` bytes at `off`, `stride` apart, are all inside (R209). -/
def rowsOk (ring off stride len rows : Nat) : Bool := (List.range rows).all (fun i => runOk ring (off + i * stride) len)

/-- Whether A and B formats are both integer or both floating (R209). -/
def sameKind (a b : Nat) : Bool := decide (a ≤ 1 ∧ b ≤ 1) || decide (2 ≤ a ∧ a ≤ 4 ∧ 2 ≤ b ∧ b ≤ 4)

/-- The check at acceptance (R209) against what the commands accepted before leave. -/
def Mu.check (m : Mu) (ring : Nat) (ws : List Dword) : Option Cause :=
  match parseMu ws with
  | none => some .mucmd
  | some c =>
    let eb := inSize m.accepted.bfmt.1
    let ok := match c with
      | .mma _ f k off str =>
        decide (f ≤ 4 ∧ off % inSize f = 0 ∧ str % inSize f = 0 ∧ m.accepted.boff + 4 * (k + 1) * eb ≤ 0x20000)
          && sameKind f m.accepted.bfmt.1 && rowsOk ring off str (4 * (k + 1) * inSize f) 16
      | .mmat _ f k off str =>
        decide (f ≤ 4 ∧ off % inSize f = 0 ∧ str % inSize f = 0 ∧ m.accepted.boff + 4 * (k + 1) * eb ≤ 0x20000)
          && sameKind f m.accepted.bfmt.1 && rowsOk ring off str (16 * inSize f) (4 * (k + 1))
      | .mmas _ f n voff coff =>
        decide (f ≤ 4 ∧ voff % inSize f = 0 ∧ coff % 2 = 0) && sameKind f m.accepted.bfmt.1
          && runOk ring voff ((n + 1) * inSize f) && runOk ring coff ((n + 1) * 2)
      | .azero _ => true
      | .aload _ f off str =>
        decide (f ≤ 2 ∧ off % outSize f = 0 ∧ str % outSize f = 0) && rowsOk ring off str (16 * outSize f) 16
      | .astore _ f _ _ _ off str =>
        decide (f ≤ 6 ∧ off % outSize f = 0 ∧ str % outSize f = 0) && rowsOk ring off str (16 * outSize f) 16
      | .bsel f off => decide (f ≤ 4 ∧ off % inSize f = 0 ∧ off < 0x20000)
      | .bfill e k soff doff =>
        let sz := if e then 2 else 1
        decide (soff % sz = 0 ∧ doff % sz = 0 ∧ doff + (k + 1) * sz ≤ 0x20000) && runOk ring soff (16 * (k + 1) * sz)
      | .tblsel _ _ _ => true
      | .mfence => true
      | .msig _ => true
    if !ok then some .mucmd
    else match c with
      | .astore _ 5 _ _ _ _ _ => if (m.table m.accepted.stbl.1).cls = .none then some .table else none
      | _ => none

/-- Overflow ring length of a core's tile in records (R48). -/
def State.ringOf (s : State) (c : Nat) : Nat :=
  match s.tileOf c with
  | some t => t.ring
  | none => 4096

/-- The selections that a command accepted leaves (R209). -/
def MuSel.after (x : MuSel) : MuCmd → MuSel
  | .bsel f off => { x with bfmt := Fin.ofNat 8 f, boff := off }
  | .tblsel a b c => { x with atbl := Fin.ofNat 4 a, btbl := Fin.ofNat 4 b, stbl := Fin.ofNat 4 c }
  | _ => x

/-- Acceptance of a command that passed its check: it takes the next sequence number; MSIG sets its register pending (R207, R219). -/
def State.muAccept (s : State) (c : Nat) (x : Fin 4) (ws : List Dword) : State :=
  match parseMu ws with
  | none => s
  | some cmd =>
    let s1 := s.modCore c (fun k => { k with mu := { k.mu with
      queue := k.mu.queue ++ [⟨k.mu.nextSeq, ws, x, false⟩]
      nextSeq := k.mu.nextSeq + 1
      accepted := k.mu.accepted.after cmd } })
    match cmd with
    | .msig r => s1.modCtx c x (fun y => y.await (.g (Fin.ofNat 32 r)))
    | _ => s1

/-- The g register that an MSIG among commands names, where it has a result pending (R206 step 3). -/
def Ctx.msigBlocked (x : Ctx) (ws : List Dword) : Bool :=
  match parseMu ws with
  | some (.msig r) => decide (r ≠ 0) && x.vars.any (fun p => p.reg == .g (Fin.ofNat 32 r))
  | _ => false

/-! Performing. -/

/-- Scratchpad bytes of a core's quad. -/
def State.scratch (s : State) (c off n : Nat) : Nat := leNat (s.peek (scratchBase (c / 4) + off) n)

/-- First byte of slice `j` of a core's weight slab (R24, Table 5-1). -/
def slabBase (c j : Nat) : Nat := 2 ^ 44 + c / 1024 * 2 ^ 32 + c % 1024 * 0x200000 + j * 0x20000

/-- An input element as an integer (formats 0 and 1). -/
def intIn (f x : Nat) : Int := if f = 0 then signedOf 8 x else (x % 256 : Nat)

/-- An input element as a value: bfloat16, binary16, or code8 through a table (R105). -/
def floatIn (t : Tbl) (f x : Nat) : FVal :=
  if f = 2 then bfloat16.value x else if f = 3 then binary16.value x else t.decode x

/-- An integer step on one element: the sum modulo 2^64, and whether it overflowed (R106). -/
def intStep (acc : Dword) (ps : List Int) : Dword × Bool :=
  let t := acc.toInt + ps.sum
  (BitVec.ofInt 64 t, decide (t < -(2 ^ 63 : Nat) ∨ (2 ^ 63 : Nat) ≤ t))

/-- A floating-point step on one element (R107): four products, those that a step lacks being +0 (R212). -/
def floatStep (acc : Dword) (ps : List FVal) : Dword :=
  BitVec.ofNat 64 (binary64.add 0 acc.toNat (windowSum (ps ++ List.replicate (4 - ps.length) (.fin false 0 0)))).bits

/-- Element (k, j) of B. -/
def State.bAt (s : State) (c : Nat) (sel : MuSel) (k j : Nat) : Nat :=
  leNat (s.peek (slabBase c j + sel.boff + k * inSize sel.bfmt.1) (inSize sel.bfmt.1))

/-- One step of four products on element (i, j) (R105). -/
def State.muStep (s : State) (c : Nat) (m : Mu) (t i j : Nat) (f : Nat) (as bs : List Nat) : Mu :=
  let a := m.el t (16 * i + j)
  if f ≤ 1 then
    let r := intStep a (List.zipWith (fun x y => intIn f x * intIn m.sel.bfmt.1 y) as bs)
    let m1 := m.setEl t (16 * i + j) r.1
    if r.2 then m1.setOvf t true else m1
  else
    let ta := m.table m.sel.atbl.1
    let tb := m.table m.sel.btbl.1
    m.setEl t (16 * i + j) (floatStep a (List.zipWith (fun x y => (mulV (floatIn ta f x) (floatIn tb m.sel.bfmt.1 y)).1) as bs))

/-- MMA and MMAT (R211): the steps in increasing s; `tr` for MMAT. -/
def State.muMma (s : State) (c : Nat) (m : Mu) (tr : Bool) (t f km1 off str : Nat) : Mu :=
  (List.range (km1 + 1)).foldl (fun m st =>
    (List.range 16).foldl (fun m i =>
      let as := (List.range 4).map (fun q =>
        let k := 4 * st + q
        s.scratch c (if tr then off + k * str + i * inSize f else off + i * str + k * inSize f) (inSize f))
      (List.range 16).foldl (fun m j =>
        s.muStep c m t i j f as ((List.range 4).map (fun q => s.bAt c m.sel (4 * st + q) j))) m) m) m

/-- MMAS (R212): nonzeros from index `k` on, at most `n` of them; answers the index at which a coordinate is bad (R213). -/
def State.muMmas (s : State) (c : Nat) (t f voff coff : Nat) : Nat → Nat → Mu → Mu × Option Nat
  | _, 0, m => (m, none)
  | k, n + 1, m =>
    let v := s.scratch c (voff + k * inSize f) (inSize f)
    let co := s.scratch c (coff + 2 * k) 2
    let row := co / 4096
    let bk := co % 4096
    if 0x20000 < m.sel.boff + (bk + 1) * inSize m.sel.bfmt.1 then (m, some k)
    else
      s.muMmas c t f voff coff (k + 1) n
        ((List.range 16).foldl (fun m j => s.muStep c m t row j f [v] [s.bAt c m.sel bk j]) m)

/-- ALOAD (R214). -/
def State.muAload (s : State) (c : Nat) (m : Mu) (t f off str : Nat) : Mu :=
  (List.range 16).foldl (fun m i => (List.range 16).foldl (fun m j =>
    let x := s.scratch c (off + i * str + j * outSize f) (outSize f)
    m.setEl t (16 * i + j) (match f with
      | 0 => BitVec.ofNat 64 x
      | 1 => sextTo64 32 x
      | _ => BitVec.ofNat 64 (binary64.of 0 (binary32.value x)).bits)) m) (m.setOvf t false)

/-- One element of ASTORE converted (R215). -/
def muOut (tb : Tbl) (atype : Bool) (f : Nat) (x : Dword) : Nat :=
  let v : FVal := if atype then binary64.value x.toNat else .ofInt x.toInt
  match f with
  | 0 => x.toNat
  | 1 => (floatToInt true 32 0 v).bits
  | 2 => (binary32.of 0 v).bits
  | 3 => (bfloat16.of 0 v).bits
  | 4 => (binary16.of 0 v).bits
  | 5 => (tb.encode v).bits
  | _ => (floatToInt true 8 0 v).bits

/-- The matrix unit's report of an execution error (R213, Table 20-5): AUX holds `aux`, the nonzero index for MMAS and else the sequence number,
which WHERE names as well, in bits [31:16] (DESIGN CHOICE: log entry 88). -/
def State.muError (s : State) (c : Nat) (cause : Cause) (aux : Nat) (seq : BitVec 16) : State :=
  let s1 := s.modCore c (fun k => { k with mu := { k.mu with err := if k.mu.err = 0 then code8 cause else k.mu.err } })
  s1.report (.quad (c / 4)) { cause := cause, src := 4, aux := aux, imp := true, place := BitVec.ofNat 64 (c + seq.toNat * 2 ^ 16) }

/-- ASTORE's writes (R215), rows in order, so that of rows that overlap the later one's bytes stay (DESIGN CHOICE: log entry 99), with FULL. -/
def State.muAstore (s : State) (c : Nat) (m : Mu) (t f : Nat) (atype full : Bool) (off str : Nat) : State :=
  let tb := m.table m.sel.stbl.1
  let e := outSize f
  let s1 := (List.range 16).foldl (fun (st : State) i =>
    st.poke (scratchBase (c / 4) + off + i * str)
      ((List.range 16).flatMap (fun j => leBytes e (muOut tb atype f (m.el t (16 * i + j)))))) s
  if full then
    (List.range 16).foldl (fun (st : State) i =>
      let a := scratchBase (c / 4) + off + i * str
      (List.range ((a + 16 * e - 1) / 128 - a / 128 + 1)).foldl (fun (st : State) k => st.setFull ((a / 128 + k) * 128) true) st) s1
  else s1

/-- BFILL (R217). -/
def State.muBfill (s : State) (c : Nat) (e : Bool) (km1 soff doff : Nat) : State :=
  let sz := if e then 2 else 1
  (List.range (km1 + 1)).foldl (fun (st : State) k => (List.range 16).foldl (fun (st : State) j =>
    st.poke (slabBase c j + doff + k * sz) (s.peek (scratchBase (c / 4) + soff + (16 * k + j) * sz) sz)) st) s

/-- The matrix unit of a core put back. -/
def State.setMu (s : State) (c : Nat) (m : Mu) : State := s.modCore c (fun k => { k with mu := m })

/-- What a command does when the unit runs it (R211 to R219); `e` is its queue entry. -/
def State.muRun (s : State) (c : Nat) (e : MuEntry) (cmd : MuCmd) : State :=
  let m := (s.core c).mu
  match cmd with
  | .mma t f k off str => s.setMu c (s.muMma c m false t f k off str)
  | .mmat t f k off str => s.setMu c (s.muMma c m true t f k off str)
  | .mmas t f n voff coff =>
    match s.muMmas c t f voff coff 0 (n + 1) m with
    | (m1, none) => s.setMu c m1
    | (m1, some k) => (s.setMu c m1).muError c .mucmd k e.seq
  | .azero t => s.setMu c (m.zero t)
  | .aload t f off str => s.setMu c (s.muAload c m t f off str)
  | .astore t f aty clr full off str =>
    if f = 5 ∧ (m.table m.sel.stbl.1).cls = .none then s.muError c .table e.seq.toNat 0
    else
      let s1 := s.muAstore c m t f aty full off str
      if clr then s1.setMu c (m.zero t) else s1
  | .bsel f off => s.setMu c { m with sel := m.sel.after (.bsel f off) }
  | .bfill es k soff doff => s.muBfill c es k soff doff
  | .tblsel a b d => s.setMu c { m with sel := m.sel.after (.tblsel a b d) }
  | .mfence => s
  | .msig r =>
    let w := BitVec.ofNat 64 (min m.done (2 ^ 40 - 1) * 2 ^ 24 + m.err.toNat * 2 ^ 16 + e.seq.toNat)
    let s1 := s.setMu c { m with err := 0, done := 0 }
    if r = 0 then s1 else s1.sendStatus c e.ctx (Fin.ofNat 32 r) w

/-- The head command of the unit of the core whose turn it is runs, if it is this one and has not begun, and occupies the unit from the
core's present cycle on (R208, R433). -/
def State.muBegin (s : State) (cmd : MuCmd) : State :=
  let c := s.cur
  match (s.core c).mu.queue with
  | e :: r =>
    if !e.begun ∧ parseMu e.words = some cmd then
      (s.muRun c e cmd).modCore c (fun k =>
        { k with mu := { k.mu with queue := { e with begun := true } :: r, busyTo := (s.core c).clock + cmd.cycles } })
    else s
  | [] => s

/-- The head command, once it has run and the cycles of Table 9-7 are over, is performed and leaves the queue; commands other than MSIG
count towards DONE (R208, R219, R433). -/
def State.muRetire (s : State) (c : Nat) : State :=
  let m := (s.core c).mu
  match m.queue with
  | e :: r =>
    if e.begun ∧ m.busyTo ≤ (s.core c).clock then
      let n := match parseMu e.words with
        | some (.msig _) => m.done
        | _ => m.done + 1
      s.setMu c { m with queue := r, done := n }
    else s
  | [] => s

end Sys2Proof.Machine
end

