-- ==== Sys2Proof/Machine/SlotOps.lean ====
section
/-! DEFINITION. Hardware slots of the queue managers (R376 to R380), admission of a host's items (R399), the page-request wake
(R366), and pre-emption of a core tile: TILECTL, saving and restoring (R383 to R388). -/
namespace Sys2Proof.Machine

/-! Slots. -/

/-- Whether a wait entry holds at this moment (R85), as the words and choices that count parked queues see it: nothing is walked for them, and
a malformed entry parks nothing. -/
def State.holdsNow (s : State) (bs : List Byte) (job : Nat) : Bool :=
  let n := leNat ((bs.drop 1).take 1)
  match leNat (bs.take 1) with
  | 0 => decide (n = 0 ∨ 8 < n) || s.fenceHolds bs
  | 1 =>
    let va := leNat ((bs.drop 8).take 8) % 2 ^ 56
    match s.walk job va with
    | .leaf x _ => decide (leNat ((bs.drop 16).take 8) ≤ (s.peekD (x.pa + (va - x.va))).toNat)
    | _ => false
  | _ => true

/-- Whether the queue is parked for a consumer port: the wait entry at the head of its normal lane does not hold (R85). -/
def State.parkedNow (s : State) (q : Queue) (x : ConsPort) : Bool :=
  s.parkedFor q x && !s.holdsNow (s.entryBytes q x.headN) q.job

/-- Whether the queue is parked for every consumer port (R85). -/
def State.parkedAll (s : State) (q : Queue) : Bool := !q.cons.isEmpty && q.cons.all (s.parkedNow q)

/-- Whether a pre-empted tile holds the quad. -/
def State.preempted (s : State) (quad : Nat) : Bool := (s.quad quad).ctlState == 2

/-- RESV of a queue (Table 21-2): a firing of a tile that is not pre-empted holds a reservation, an item or a slot of it. -/
def State.resv (s : State) (q : Queue) : Bool :=
  let live := fun (o : Owner) => match o with
    | .tile (.quad k) => !s.preempted k
    | _ => true
  q.items.any (fun r => !s.preempted r.key.quad) || q.slots.any (fun r => decide (0 < r.left) && !s.preempted r.key.quad)
    || q.heldItems.any (fun h => match q.cons[h.1]? with
        | some c => live c.owner
        | none => true)
    || q.heldSlots.any (fun h => h.1 != releasedPort && match q.prods[h.1]? with
        | some p => live p.owner
        | none => true)

/-- Whether any firing, pre-empted or not, holds a reservation, an item or a slot of a queue (FLAGS bit 2 of Table 21-3). -/
def Queue.reserved (q : Queue) : Bool :=
  !q.items.isEmpty || q.slots.any (fun r => decide (0 < r.left)) || !q.heldItems.isEmpty || q.heldSlots.any (fun h => h.1 != releasedPort)

/-- IDLE of a queue: cycles of 2.7 GHz since its last use, on the real time the model keeps (log entry 6). -/
def State.idleOf (s : State) (q : Queue) : Nat := min ((s.micros - q.lastUse) * 2700) (2 ^ 32 - 1)

/-- SLOTs (Table 21-2). -/
def State.slotWord (s : State) (isl sl : Nat) : Dword :=
  match mapFind (s.island isl).slots sl with
  | none => 0
  | some id =>
    match s.queue? id with
    | none => 0
    | some q => BitVec.ofNat 64 (2 ^ 63 + (if s.parkedAll q then 2 ^ 62 else 0) + (if s.resv q then 2 ^ 61 else 0)
        + s.idleOf q * 2 ^ 16 + id % 65536)

/-- QMSTAT (Table 21-2). -/
def Island.qmStat (i : Island) : Dword :=
  BitVec.ofNat 64 (i.qmErr.toNat * 65536 + i.qmSlot.1 * 256 + (if i.busy.isSome then 1 else 0))

/-- The queue whose state block stands at an address. -/
def State.queueOfBlock (s : State) (a : Nat) : Option Nat := (s.queues.find? (fun e => e.2.block == a)).map (·.1)

/-- What a write leaves in QMCMD: RSVD bits read as zero (R8), and a reserved OP leaves that field as it was (R9). -/
def qmWritten (old x : Dword) : Dword :=
  if 3 ≤ bitsOf x.toNat 60 4 then (old &&& 0xF000000000000000) ||| (x &&& 0x0FFFFFFFFFFFFF00) else x &&& 0xFFFFFFFFFFFFFF00

/-- A write of QMCMD (R377). With OP nonzero it is ignored while BUSY is 1, otherwise refused with an error, or accepted. From the
acceptance of an UNMAP on, the queue is unmapped, and NOTE holds its notify word (R379, R380). -/
def State.qmCommand (s : State) (isl : Nat) (x : Dword) : State :=
  let i := s.island isl
  let op := bitsOf x.toNat 60 4
  let sl : Fin 256 := Fin.ofNat 256 (bitsOf x.toNat 52 8)
  let blk := bitsOf x.toNat 8 44 * 256
  let cmd := qmWritten i.qmCmd x
  let refuse := fun (c : Cause) => s.modIsland isl (fun i => { i with qmErr := code8 c, qmCmd := cmd })
  if op = 0 then s.modIsland isl (fun i => { i with qmCmd := cmd })
  else if i.busy.isSome then s
  else match op with
    | 1 =>
      if regionOf blk ≠ 0 then refuse .buserr
      else if (mapFind i.slots sl.1).isSome then refuse .qport
      else match s.queueOfBlock blk with
        | none => refuse .qport
        | some id =>
          if s.islands.any (fun e => e.2.slots.any (fun p => p.2 == id) || e.2.busy.any (fun b => b.2.2 == id)) then refuse .qport
          else s.modIsland isl (fun i => { i with qmErr := 0, qmCmd := cmd, qmSlot := sl, busy := some (sl, true, id) })
    | 2 =>
      match mapFind i.slots sl.1 with
      | none => refuse .qport
      | some id =>
        match s.queue? id with
        | none => refuse .qport
        | some q =>
          if s.resv q then refuse .qport
          else
            (s.setQueue id { q with mapped := none, note := s.notifyWord id q, wake := false }).modIsland isl
              (fun i => { i with qmErr := 0, qmCmd := cmd, qmSlot := sl, busy := some (sl, false, id) })
    | _ => refuse .illegal

/-- The queue state block of a queue (Table 21-3). -/
def State.blockBytes (s : State) (q : Queue) : List Byte :=
  let c8 := fun (f : ConsPort → List Byte) (n : Nat) =>
    (List.range 8).flatMap (fun k => match q.cons[k]? with
      | some c => f c
      | none => List.replicate n 0)
  let remotes := ((List.range q.prods.length).zip q.prods).filter (fun p => p.2.remote)
  leBytes 16 q.desc.toNat ++ leBytes 4 q.tailN.toNat ++ leBytes 4 q.tailU.toNat ++ dwordBytes q.note
    ++ c8 (fun c => leBytes 4 c.headN.toNat ++ leBytes 4 c.headU.toNat) 8 ++ c8 (fun c => leBytes 2 c.urgRun) 2
    ++ leBytes 8 ((if s.parkedAll q then 1 else 0) + (if q.wake then 2 else 0) + (if q.reserved then 4 else 0))
    ++ List.replicate 8 0
    ++ (List.range 16).flatMap (fun k => match remotes[k]? with
      | some (i, p) => leBytes 8 (i % 65536 + p.window % 2 ^ 20 * 2 ^ 16 + p.used % 2 ^ 20 * 2 ^ 36)
      | none => List.replicate 8 0)

/-- The indices and counts of a queue taken from its state block (R378). -/
def State.loadBlock (s : State) (q : Queue) : Queue :=
  let rd := fun off n => leNat (s.peek (q.block + off) n)
  { q with
    desc := BitVec.ofNat 128 (rd 0 16)
    tailN := BitVec.ofNat 32 (rd 16 4)
    tailU := BitVec.ofNat 32 (rd 20 4)
    cons := (q.cons.zip (List.range q.cons.length)).map (fun (c, k) =>
      { c with headN := BitVec.ofNat 32 (rd (32 + 8 * k) 4), headU := BitVec.ofNat 32 (rd (36 + 8 * k) 4), urgRun := rd (96 + 2 * k) 2 })
    prods := (List.range 16).foldl (fun ps k =>
      let w := rd (128 + 8 * k) 8
      listModify (fun p => if p.remote ∧ w ≠ 0 then { p with window := bitsOf w 16 20, used := bitsOf w 36 20 } else p) (w % 65536) ps) q.prods }

/-- A queue as it stands: its slot's state, or while it is unmapped its state block (R378). -/
def State.blockView (s : State) (id : Nat) (q : Queue) : Queue :=
  if q.mapped.isSome ∨ q.block = 0 ∨ s.unmapping id then q else s.loadBlock q

/-- A change that touches a queue. While the queue is unmapped its state block is the queue (R378): the change goes through the block, so that
the next MAP finds it; while an UNMAP is under way the slot's state is still the queue. -/
def State.throughBlock (s : State) (id : Nat) (f : State → State) : State :=
  match s.queue? id with
  | none => s
  | some q =>
    if q.mapped.isSome ∨ q.block = 0 ∨ s.unmapping id then f s
    else
      let t := f (s.setQueue id (s.loadBlock q))
      match t.queue? id with
      | some x => t.deviceWrite x.block (t.blockBytes x)
      | none => t

/-- A queue changed, through its state block while it is unmapped. -/
def State.changeQueue (s : State) (id : Nat) (f : Queue → Queue) : State := s.throughBlock id (fun t => t.modQueue id f)

/-- The island whose manager holds the slots of a queue: that of its home (R67, R376); for HBM the first of the stack group. -/
def Queue.homeIsland (q : Queue) : Nat :=
  match q.homeKind with
  | 0 => islandOfCore q.hloc
  | 1 => islandOfFab (q.hloc / 1024) (q.hloc / 32 % 32)
  | _ => modulePos (q.hloc / 2) 0 (4 * (q.hloc % 2))

/-- The queue-slot role serves a map request (R379): a free slot of the home's manager; else it unmaps a parked queue without
reservation, the longest idle, or one idle for 2^16 cycles; else the request waits. -/
def State.mapRole (s : State) (id : Nat) : State :=
  match s.queue? id with
  | none => s
  | some q =>
    let isl := q.homeIsland
    let i := s.island isl
    if q.mapped.isSome ∨ i.busy.isSome then s
    else match leastFrom (fun k => (mapFind i.slots k).isNone) 0 256 with
      | some sl => s.modIsland isl (fun i => { i with
        qmErr := 0, qmCmd := BitVec.ofNat 64 (2 ^ 60 + sl * 2 ^ 52 + q.block), qmSlot := Fin.ofNat 256 sl, busy := some (Fin.ofNat 256 sl, true, id) })
      | none =>
        let cands := i.slots.filterMap (fun (sl, k) => (s.queue? k).map (fun x => (sl, x)))
        let free := cands.filter (fun (_, x) => !s.resv x)
        let parked := free.filter (fun (_, x) => s.parkedAll x)
        let idle := free.filter (fun (_, x) => decide (2 ^ 16 ≤ s.idleOf x))
        let best := fun (l : List (Nat × Queue)) => l.foldl (fun (b : Option (Nat × Nat)) (sl, x) => match b with
          | some (_, n) => if n < s.idleOf x then some (sl, s.idleOf x) else b
          | none => some (sl, s.idleOf x)) none
        match best parked <|> best idle with
        | some (sl, _) => s.qmCommand isl (BitVec.ofNat 64 (2 * 2 ^ 60 + sl * 2 ^ 52))
        | none => s

/-- The real time at which a queue of a job's partition was last mapped or unmapped, which the deadlock watchdog looks at (R381). -/
def State.noteMapped (s : State) (job : Nat) : State := { s with mappedAt := vset s.mappedAt (s.job job).part s.micros }

/-- A host consumer's CHEAD applied (R398): its port has taken every item before that index, at most `n` of them. -/
def State.takeHost (id c : Nat) (upTo : BitVec 32) : Nat → State → State
  | 0, s => s
  | n + 1, s =>
    match s.queue? id with
    | none => s
    | some q =>
      match q.cons[c]? with
      | none => s
      | some x =>
        if q.mapped.isSome ∧ x.headN ≠ upTo ∧ x.headN ≠ q.tailN ∧ !q.isHeld x.headN then State.takeHost id c upTo n (s.passSlots id c false x.headN 1)
        else s

/-- The host's half of a notify word passed to the queue manager of a mapped queue, which is then the word's last reading; an unmapped queue is
asked for first (R380, R399). -/
def State.applyNotify (s : State) (id : Nat) : State :=
  match s.queue? id with
  | none => s
  | some q =>
    if q.mapped.isNone then s.setQueue id { q with wanted := true }
    else
      let s0 : State := { s with host := { s.host with
        notifySeen := mapPut ((s.job q.job).part.1 * 65536 + id) (s.notifyWord id q) s.host.notifySeen } }
      let s1 := match q.hostProducer, q.prodOf .host with
        | some _, some p => State.admitHost id p q.cap s0
        | _, _ => s0
      match q.hostConsumer, q.consOf .host with
      | some _, some c => State.takeHost id c ((s1.notifyWord id q).extractLsb' 32 32) q.cap s1
      | _, _ => s1

/-- A command of an island's queue manager completes (R377 to R380): MAP loads the block into the slot, with the host's half of its notify word
where that has changed (R399), UNMAP writes the state
into the block and clears V; after an UNMAP a write to the notify word, shown by NOTE or WAKE, maps the queue again at once, ahead of every other request. -/
def State.qmComplete (s : State) (isl : Nat) : State :=
  match (s.island isl).busy with
  | none => s
  | some (sl, isMap, id) =>
    let done := fun (st : State) (f : List (Nat × Nat) → List (Nat × Nat)) =>
      st.modIsland isl (fun i => { i with busy := none, slots := f i.slots })
    match s.queue? id with
    | none => done s (mapDel sl.1)
    | some q =>
      if isMap then
        let s1 := ((done s (mapPut sl.1 id)).setQueue id
          { (if q.block ≠ 0 then s.loadBlock q else q) with mapped := some (isl, sl.1), wanted := false }).noteMapped q.job
        if s1.notifyWord id q = s1.noteSeen id q ∨ (q.hostProducer.isNone ∧ q.hostConsumer.isNone) then s1 else s1.applyNotify id
      else
        let s1 := if q.block = 0 then s else s.deviceWrite q.block (s.blockBytes q)
        let woken := q.wake || s.notifyWord id q != q.note
        let s2 := ((done s1 (mapDel sl.1)).setQueue id { q with wanted := q.wanted || woken }).noteMapped q.job
        if woken then s2.mapRole id else s2

/-! Page-request wakes (R366). -/

/-- A failed walk of a page handed to the agent that waits on it (R367). -/
def State.failAgent (s : State) (isl page : Nat) (cause : Cause) : Agent → State
  | .context c x => if (s.ctx c x).wait = .miss then s.wakeCtx c x (fun y => { y with wait := .none, missCause := some (page, cause) }) else s
  | g => s.modIsland isl (fun i => { i with failed := i.failed ++ [(g, page, cause)] })

/-- The agents of an entry walk again. -/
def State.wakeAgent (s : State) : Agent → State
  | .context c x => if (s.ctx c x).wait = .miss then s.wakeCtx c x (fun y => { y with wait := .none }) else s
  | .element e cx => { s with elements := match mapFind s.elements e with
      | some x => mapPut e { x with ctxs := vset x.ctxs cx { x.ctxs.get cx with woken := true } } s.elements
      | none => s.elements }
  | _ => s

/-- A miss-merging entry ends with a cause for every access of it. -/
def State.failMiss (s : State) (isl : Nat) (m : Miss) (cause : Cause) : State :=
  m.clients.foldl (fun st g => (st.failAgent isl m.vpage cause g).wakeAgent g)
    (s.modIsland isl (fun i => { i with misses := i.misses.filter (fun x => x != m) }))

/-- A write to PGWAKE (R366): RES 0 makes the entry walk again, a cause fails its accesses, TRAP or an unassigned code counts as
PAGEFAULT; a RID that names no waiting entry is ignored. -/
def State.pgwake (s : State) (isl : Nat) (x : Dword) : State :=
  let rid : BitVec 16 := x.setWidth 16
  let res := bitsOf x.toNat 16 8
  match (s.island isl).misses.find? (fun m => m.rid = some rid) with
  | none => s
  | some m =>
    if res = 0 then
      s.modIsland isl (fun i => { i with misses := i.misses.map (fun y => if y = m then { y with rid := none } else y) })
    else
      s.failMiss isl m (match causeOfCode res with
        | some .trap => .pagefault
        | some c => c
        | none => .pagefault)

/-! Pre-emption of a core tile. -/

/-- REPPOS (Table 8-11). -/
def Ctx.reppos (x : Ctx) : Dword :=
  BitVec.ofNat 64 (x.repRep.toNat * 65536 + x.repIdx.toNat * 4096 + (if x.repPend then 1 else 0))

/-- The image of a context (Table 21-8), its pending fixed-latency results included, with only the g and v registers of the masks; others read as zero. -/
def State.ctxImage (s : State) (c : Nat) (x : Fin 4) (gm vm : Nat) : List Byte :=
  let y := (s.ctx c x).land ((s.core c).clock + 1024)
  let g := (List.finRange 32).flatMap (fun r => dwordBytes (if gm.testBit r.1 then y.rg r else 0))
  let k := (List.finRange 16).flatMap (fun r => leBytes 16 (y.rk r).bits.toNat)
  let m := (List.finRange 8).flatMap (fun r => leBytes 16 (y.rm r).toNat)
  let q := (List.finRange 16).flatMap (fun r => leBytes 16 (y.q.get r).toNat)
  let st := dwordBytes (s.ctxid c x) ++ leBytes 8 y.fpmode.toNat ++ leBytes 8 y.fpflags.toNat ++ leBytes 8 (if y.stallchk then 1 else 0)
    ++ leBytes 8 y.landctl.toNat ++ dwordBytes y.reppos
  let tr := leBytes 8 y.trapCause.toNat ++ dwordBytes y.trapPc ++ dwordBytes y.trapVal
  let tg := (List.finRange 16).flatMap (fun r => leBytes 8 (if (y.rk r).tag then 1 else 0))
  let v := (List.finRange 32).flatMap (fun r => leBytes 128 (if vm.testBit r.1 then (y.rv r).toNat else 0))
  padTo 0x200 (g ++ k) ++ padTo 0x100 m ++ q ++ padTo 0x40 st ++ padTo 0x3C0 tr ++ padTo 0x800 tg ++ v

/-- The repetition sequence of a context halted where it stands, its position in REPPOS (R204); it goes on when the context is restored. -/
def State.haltRep (s : State) (c : Nat) (x : Fin 4) : State :=
  match (s.core c).rep with
  | some r =>
    if r.ctx = x then (s.modCtx c x (fun y => { y with repRep := BitVec.ofNat 16 r.rep, repIdx := BitVec.ofNat 4 r.idx, repPend := true })).modCore c
      (fun k => { k with rep := some { r with saved := true } })
    else s
  | none => s

/-- A context saved and stopped (R384): image and header dword, its repetition sequence halted; `resume` is where it goes on. -/
def State.saveCtx (s0 : State) (c : Nat) (x : Fin 4) (gm vm : Nat) (forced ckpt : Bool) : State :=
  let s := s0.haltRep c x
  let quad := c / 4
  let y := s.ctx c x
  let pc := if ckpt then y.pc + 4 else y.pc
  let hdr := 1 + (if forced then 2 else 0) + (if ckpt then 4 else 0) + pc.toNat * 256
  let s1 := s.deviceWrite (s.saveAt quad (0x10000 + 0x2000 * (4 * (c % 4) + x.1))) (s.ctxImage c x gm vm)
  let s2 := s1.deviceWrite (s.saveAt quad (8 * (4 * (c % 4) + x.1))) (leBytes 8 hdr)
  (s2.modCtx c x (fun y => { y.met with
    pc := pc, stopped := true, forced := forced, atCkpt := ckpt, since := none, waited := 0
    wait := match y.wait with
      | .fault p => .fault p
      | .trap => .trap
      | _ => .none }))

/-- A context is stopped at once in a pre-emption: free, or in a fault or trap wait (R384 step 2, log entry 7). -/
def Ctx.stopsAtOnce (x : Ctx) : Bool :=
  match x.run, x.wait with
  | .free, _ => true
  | _, .fault _ => true
  | _, .trap => true
  | _, _ => false

/-- All ones over 32 registers. -/
def allRegs : Nat := 2 ^ 32 - 1

/-- The contexts of a core that a pre-emption stops at once (R384 step 2): those free from its start, and those whose handler or firing has ended
since or that have entered a fault or trap wait (step 4). -/
def State.stopIdle (s : State) (c : Nat) : State :=
  (List.finRange 4).foldl (fun (st : State) x =>
    if (st.ctx c x).stopsAtOnce && !(st.ctx c x).stopped then st.saveCtx c x allRegs allRegs false false else st) s

/-- Whether a commit or splice wavefront lies in a fabric tile of a job: a pre-emption waits for it (R391, R392). -/
def State.wavefront (s : State) (job : Nat) : Bool := s.fabrics.any (fun p => p.2.job == job && (p.2.committing.isSome || p.2.splicing))

/-- Contexts of a fabric tile discarded (R390): what is staged for them is dropped, each takes the reset values in every element and leaves the
tile's CTXMASK (log entry 75). -/
def State.resetCtxs (s : State) (f : Nat) (ds : List (Fin 4)) : State :=
  match mapFind s.fabrics f with
  | none => s
  | some t =>
    let bits := ds.foldl (fun (m : BitVec 4) c => m ||| BitVec.ofNat 4 (2 ^ c.1)) 0
    if ds.isEmpty then s
    else { s with
      elements := s.elements.map (fun (e, y) =>
        (e, if t.holds f e then ds.foldl (fun (z : Element) c => { z with ctxs := vset z.ctxs c {} }) y else y))
      fabrics := mapPut f { t with
        staged := ds.foldl (fun v c => vset v c none) t.staged
        ctxMask := t.ctxMask &&& ~~~bits
        groveMask := t.groveMask &&& ~~~bits
        image := t.image.filter (fun p => !ds.any (fun c => c.1 == p.1 % 4)) } s.fabrics }

/-- Those contexts discarded, of the ones named, for which blocks are staged (R391). -/
def State.discardStaged (s : State) (f : Nat) (cs : List (Fin 4)) : State :=
  s.resetCtxs f (cs.filter (fun c => (mapFind s.fabrics f).any (fun t => (t.staged.get c).isSome)))

/-- TARGET 1 takes effect (R383, R384): a save area outside region 0x00 is refused with a report to the writing stall. It discards the
staged contexts of the job's fabric tiles (R391). -/
def State.preempt (s : State) (quad : Nat) (w : Writer) : State :=
  if s.wavefront (s.jobOf (4 * quad)) then s.modQuad quad (fun k => { k with heldTarget := some true, heldBy := w })
  else if regionOf (s.saveAt quad 0) ≠ 0 then
    match w with
    | .context c _ => (s.modQuad quad (fun k => { k with heldTarget := none })).report (.quad (c / 4)) { cause := .buserr, src := 7, imp := true }
    | _ => s.modQuad quad (fun k => { k with heldTarget := none })
  else
    let s0 := s.fabrics.foldl (fun (st : State) p =>
      if p.2.job = s.jobOf (4 * quad) then st.discardStaged p.1 (List.finRange 4) else st) s
    let s1 := s0.modQuad quad (fun k => { k with
      target := true, ctlState := 1, forced := false, savedLines := [], preemptAt := s.micros, heldTarget := none })
    (List.range 4).foldl (fun (st : State) i =>
      (st.modCore (4 * quad + i) (fun k => { k with accMask := 0, saved := false })).stopIdle (4 * quad + i)) s1

/-- A repetition sequence in the core image (R204, log entry 87): its words, then its context, the `vrep`'s address, n, c, B, L, s and the
position, and whether it stopped on a fault. -/
def repImage : Option RepSeq → List Byte
  | none => []
  | some r => padTo 64 (r.words.flatMap (leBytes 4)) ++ leBytes 8 (1 + (if r.stopped then 2 else 0)) ++ leBytes 8 r.ctx.1 ++ leBytes 8 r.pc.toNat
      ++ leBytes 8 r.words.length ++ leBytes 8 r.count ++ leBytes 8 r.base ++ leBytes 8 r.len ++ leBytes 8 r.stride ++ leBytes 8 r.rep
      ++ leBytes 8 r.idx

/-- The sequence that the repetition buffer of a core image holds. -/
def State.repAt (s : State) (b now : Nat) : Option RepSeq :=
  let rd := fun i => leNat (s.peek (b + 64 + 8 * i) 8)
  if rd 0 % 2 = 0 then none
  else some { ctx := Fin.ofNat 4 (rd 1), pc := BitVec.ofNat 56 (rd 2), words := (List.range (rd 3 % 17)).map (fun i => leNat (s.peek (b + 4 * i) 4)),
              count := rd 4, base := rd 5, len := rd 6, stride := rd 7, rep := rd 8, idx := rd 9, stopped := (rd 0).testBit 1, readyAt := now }

/-- The core image (Table 21-8): accumulators of the mask, OVF, tables, the other unit state of Table 9-1, the deque's hardware
part, the repetition buffer, the inbox. -/
def State.coreImage (s : State) (c : Nat) : List Byte :=
  let k := s.core c
  let acc := (List.range 2048).flatMap (fun i => dwordBytes (if k.accMask.getLsbD (i / 256) then mapGet 0 k.mu.acc i else 0))
  let tbl := (List.range 1024).flatMap (fun i => leBytes 4 (mapGet 0 k.mu.tbl i).toNat)
  let other := leBytes 8 k.mu.sel.bfmt.1 ++ leBytes 8 k.mu.sel.boff ++ leBytes 8 k.mu.sel.atbl.1 ++ leBytes 8 k.mu.sel.btbl.1
    ++ leBytes 8 k.mu.sel.stbl.1 ++ leBytes 8 k.mu.nextSeq.toNat ++ leBytes 8 k.mu.err.toNat ++ leBytes 8 k.mu.done
  let dq := (k.deque.take 64).flatMap (fun r => leBytes 32 r.toNat)
  let ib := (List.finRange 4).flatMap (fun e => padTo 256 (match k.inbox.get e with
    | some m => s.peek (inboxBase c e) m.len
    | none => []))
  acc ++ padTo 0x400 (leBytes 8 k.mu.ovf.toNat) ++ tbl ++ padTo 0x400 other ++ padTo 0x800 dq ++ padTo 0x400 (repImage k.rep) ++ ib

/-- Scratchpad lines of a quad (0 to 8,191) that a range of bytes touches. -/
def linesOfRange (off len : Nat) : List Nat :=
  if len = 0 then [] else (List.range ((off + len - 1) / 128 - off / 128 + 1)).map (· + off / 128)

/-- The resident lines of a tile (R387): state areas, input tiles, rings homed in the quad, records in use in overflow rings. -/
def State.residentLines (s : State) (quad : Nat) : List Nat :=
  let decls := match (s.quad quad).tile with
    | some t => t.actors.flatMap (fun a =>
        (a.decl.tiles.flatMap (fun i => linesOfRange i.off (128 * i.lines)))
          ++ (match a.decl.stateArea with
            | some (o, n) => linesOfRange o (128 * n)
            | none => []))
    | none => []
  let rings := s.queues.flatMap (fun e =>
    if e.2.homeKind = 0 ∧ e.2.hloc / 4 = quad then
      (List.range ((e.2.footprint + 127) / 128)).map (fun k => e.2.pa (e.2.base + 128 * k) % 0x100000 / 128)
    else [])
  let spill := (List.range 4).flatMap (fun i =>
    let n := (s.core (4 * quad + i)).spilled
    linesOfRange (i * 0x40000 + 0x40000 - s.ringOf (4 * quad) * 32) (32 * n))
  decls ++ rings ++ spill

/-- Step 7 of R384: the saved lines, their full/empty and saved bits, STATE 2. -/
def State.saveScratch (s : State) (quad : Nat) : State :=
  let k := s.quad quad
  let lines := ((k.savedLines ++ s.residentLines quad).filter (fun l => decide (l < 8192))).foldl (fun l x => setAdd x l) []
  let base := scratchBase quad
  let s1 := lines.foldl (fun (st : State) l => st.deviceWrite (s.saveAt quad (0x100000 + 128 * l)) (s.peek (base + 128 * l) 128)) s
  let bitsAt := fun (p : Nat → Bool) => (List.range 1024).map (fun b =>
    BitVec.ofNat 8 ((List.range 8).foldl (fun n i => n + (if p (8 * b + i) then 2 ^ i else 0)) 0))
  let s2 := s1.deviceWrite (s.saveAt quad 0x50000) (bitsAt (fun l => lines.contains l && s.isFull (base + 128 * l)))
  let s3 := s2.deviceWrite (s.saveAt quad 0x50400) (bitsAt (fun l => lines.contains l))
  s3.modQuad quad (fun k => { k with ctlState := 2, savedLines := lines })

/-- A core being pre-empted whose contexts are all stopped, those that have ended or wait for an answer included, and whose matrix unit is
drained saves its state; when all four cores have, the quad saves its scratchpad (R384 steps 2, 4, 5 and 7). -/
def State.drainSave (s0 : State) (c : Nat) : State :=
  let quad := c / 4
  let s := if (s0.quad quad).ctlState = 1 then s0.stopIdle c else s0
  let k := s.core c
  if (s.quad quad).ctlState = 1 ∧ !k.saved ∧ (List.finRange 4).all (fun x => (k.ctxs.get x).stopped) ∧ k.mu.queue.isEmpty
      ∧ k.rep.all (·.saved) then
    let s1 := (s.deviceWrite (s.saveAt quad (0x30000 + 0x8000 * (c % 4))) (s.coreImage c)).modCore c (fun k => { k with saved := true })
    if (List.range 4).all (fun i => (s1.core (4 * quad + i)).saved) then s1.saveScratch quad else s1
  else s

/-- The forced path (R384 step 6), one millisecond after TARGET 1: every context not yet stopped stops at this instruction boundary
and is saved whole; its core saves all accumulators and its slice. A vrep sequence stops where it stands (R204). -/
def State.forceSave (s : State) (quad : Nat) : State :=
  let k := s.quad quad
  if k.ctlState = 1 ∧ k.preemptAt + 1000 ≤ s.micros then
    (List.range 4).foldl (fun (st : State) i =>
      let c := 4 * quad + i
      if (List.finRange 4).all (fun x => (st.ctx c x).stopped) then st
      else
        let st1 := st.modCore c (fun k => { k with accMask := 0xFF })
        let st2 := (List.finRange 4).foldl (fun (st : State) x =>
          if (st.ctx c x).stopped then st else st.saveCtx c x allRegs allRegs true false) st1
        st2.modQuad quad (fun k => { k with forced := true, savedLines := k.savedLines ++ linesOfRange (i * 0x40000) 0x40000 })) s
  else s

/-- A context read back from its image (R387, R388); registers that the image does not hold read as zero there. -/
def State.loadCtx (s : State) (c : Nat) (x : Fin 4) : State :=
  let quad := c / 4
  let b := s.saveAt quad (0x10000 + 0x2000 * (4 * (c % 4) + x.1))
  let hdr := leNat (s.peek (s.saveAt quad (8 * (4 * (c % 4) + x.1))) 8)
  let rd := fun off n => leNat (s.peek (b + off) n)
  s.modCtx c x (fun y => { y with
    g := Vector.ofFn (fun r => BitVec.ofNat 64 (rd (8 * r.1) 8))
    v := Vector.ofFn (fun r => BitVec.ofNat 1024 (rd (0x1000 + 128 * r.1) 128))
    m := Vector.ofFn (fun r => BitVec.ofNat 128 (rd (0x200 + 16 * r.1) 16))
    k := Vector.ofFn (fun r => ⟨BitVec.ofNat 128 (rd (0x100 + 16 * r.1) 16), (rd (0x800 + 8 * r.1) 1).testBit 0⟩)
    q := Vector.ofFn (fun r => BitVec.ofNat 16 (rd (0x300 + 16 * r.1) 2))
    pc := BitVec.ofNat 56 (hdr / 256)
    fpmode := BitVec.ofNat 2 (rd 0x408 1)
    fpflags := BitVec.ofNat 5 (rd 0x410 1)
    stallchk := (rd 0x418 1).testBit 0
    landctl := BitVec.ofNat 16 (rd 0x420 2)
    repRep := BitVec.ofNat 16 (rd 0x42A 2)
    repIdx := BitVec.ofNat 4 (rd 0x428 2 / 4096)
    repPend := (s.core c).rep.any (fun r => r.ctx == x && r.stopped)
    trapCause := BitVec.ofNat 8 (rd 0x440 1)
    trapPc := BitVec.ofNat 64 (rd 0x448 8)
    trapVal := BitVec.ofNat 64 (rd 0x450 8)
    fixed := [], stopped := false, forced := false, atCkpt := false })

/-- A core read back from its image. -/
def State.loadCore (s : State) (c : Nat) : State :=
  let b := s.saveAt (c / 4) (0x30000 + 0x8000 * (c % 4))
  let rd := fun off n => leNat (s.peek (b + off) n)
  let m0 := (s.core c).mu
  let sel : MuSel := ⟨Fin.ofNat 8 (rd 0x5400 8), rd 0x5408 8, Fin.ofNat 4 (rd 0x5410 8), Fin.ofNat 4 (rd 0x5418 8), Fin.ofNat 4 (rd 0x5420 8)⟩
  let m1 : Mu := { m0 with
    acc := [], tbl := [], ovf := BitVec.ofNat 8 (rd 0x4000 1), sel := sel, accepted := sel
    nextSeq := BitVec.ofNat 16 (rd 0x5428 2), err := BitVec.ofNat 8 (rd 0x5430 1), done := rd 0x5438 8 }
  let m2 := (List.range 2048).foldl (fun m i => m.setEl (i / 256) (i % 256) (BitVec.ofNat 64 (rd (8 * i) 8))) m1
  let m3 := (List.range 1024).foldl (fun m i => m.setEntry (i / 256) (i % 256) (BitVec.ofNat 20 (rd (0x4400 + 4 * i) 4))) m2
  s.modCore c (fun k => { k with mu := m3, saved := false, accMask := 0, left := true, rep := s.repAt (b + 0x6000) k.clock })

/-- What STATE 3 does (R388): saved lines back with their bits, other lines zero and empty, registers from the image, then STATE 0. -/
def State.restore (s : State) (quad : Nat) : State :=
  let base := scratchBase quad
  let bit := fun (st : State) off l => (st.mem.read (s.saveAt quad (off + l / 8))).getLsbD (l % 8)
  let empty := { s.zero base 0x100000 with full := s.full.filter (fun l => decide (l < base / 128 ∨ base / 128 + 8192 ≤ l)) }
  let s1 := ((List.range 8192).filter (bit s 0x50400)).foldl (fun (st : State) l =>
    let a := base + 128 * l
    (st.poke a (s.peek (s.saveAt quad (0x100000 + 128 * l)) 128)).setFull a (bit s 0x50000 l)) empty
  let s2 := (List.range 4).foldl (fun (st : State) i =>
    (List.finRange 4).foldl (fun (st : State) x => st.loadCtx (4 * quad + i) x) (st.loadCore (4 * quad + i))) s1
  s2.modQuad quad (fun k => { k with ctlState := 0, savedLines := [] })

/-- A write of TILECTL.TARGET (R383): the field reads as it was last written (R7); the value acts in STATE 0 or 2 and is held in STATE 1
or 3; TARGET 0 in STATE 2 sets STATE 3 (R388). -/
def State.tilectl (s0 : State) (quad : Nat) (w : Writer) (b : Bool) : State :=
  let s := s0.modQuad quad (fun k => { k with target := b })
  let k := s.quad quad
  if k.ctlState = 0 then (if b then s.preempt quad w else s.modQuad quad (fun k => { k with target := false, heldTarget := none }))
  else if k.ctlState = 2 then s.modQuad quad (fun k => { k with ctlState := if b then 2 else 3, heldTarget := none })
  else s.modQuad quad (fun k => { k with heldTarget := some b, heldBy := w })

/-- The live-range entry of a `ckpt` (R386, Table 21-7): its masks and its ranges of lines; absent, malformed or unreadable entries
give none. -/
def State.liveEntry (s : State) (c : Nat) (pc : VAddr) : Option (Nat × Nat × Nat × List (Nat × Nat)) :=
  let t := (s.quad (c / 4)).ckptTbl.toNat
  let job := s.jobOf c
  let phys := fun (va : Nat) => match s.walk job va with
    | .leaf x _ => some (x.pa + (va % 2 ^ 56 - x.va))
    | _ => none
  let dw := fun (va : Nat) => (phys va).map (fun a => (s.peekD a).toNat)
  if t % 64 ≠ 0 then none
  else match dw t with
    | none => none
    | some n =>
      (List.range (n % 65536)).findSome? (fun i =>
        let e := t + 64 * (i + 1)
        match (List.range 8).mapM (fun j => dw (e + 8 * j)) with
        | some [e0, e1, e2, e3, e4, e5, e6, e7] =>
          let nr := bitsOf e0 56 3
          let rs := [e4, e5, e6, e7]
          let good := nr ≤ 4 && bitsOf e0 59 5 == 0 && bitsOf e2 8 56 == 0 && e3 == 0
            && rs.all (fun r => r / 2 ^ 34 == 0)
            && (rs.take nr).all (fun r => decide (r % 2 ^ 20 % 128 = 0 ∧ 1 ≤ bitsOf r 20 14 ∧ bitsOf r 20 14 ≤ 8192))
          if e0 % 2 ^ 56 = pc.toNat ∧ good then
            some (bitsOf e1 0 32, bitsOf e1 32 32, bitsOf e2 0 8, (rs.take nr).map (fun r => (r % 2 ^ 20, bitsOf r 20 14)))
          else none
        | _ => none)

end Sys2Proof.Machine
end

