-- ==== Sys2Proof/Machine/Windows.lean ====
section
/-! DEFINITION. Registers behind addresses: core windows (Table 5-2, R115 to R117), privileged windows (R341, Table 19-1), the
queue-manager page (Table 21-1), the security controller (Table 23-3); state registers by index (Table 19-3); store buffers drained
(R127). -/
namespace Sys2Proof.Machine

/-! State registers. -/

/-- PARTID (Table 19-4). -/
def Die.partId (d : Die) : Dword := d.idReg.setWidth 64
/-- ARBORCFG (Table 19-4). -/
def Die.arborCfg (d : Die) : Dword := d.cfgReg.setWidth 64
/-- FRZSTAT (Table 19-4) as core `c` reads it. -/
def Die.frzStat (d : Die) (c : Nat) : Dword := BitVec.ofNat 64 ((if d.frozen then 2 ^ 63 else 0) + (mapGet d.stop d.stops c).toNat)

/-- TIMER (Table 19-3). -/
def Core.timer (k : Core) : Dword := BitVec.ofNat 64 k.clock + k.timerOff

/-- The value of state register `i` as a context sees it; `none` for a reserved index (R346). -/
def State.stateReg (s : State) (c : Nat) (x : Fin 4) (i : Nat) : Option Dword :=
  let y := s.ctx c x
  let q := s.quad (c / 4)
  let d := s.die (c / 1024)
  match i with
  | 0x000 => some (s.ctxid c x)
  | 0x001 => some (y.fpmode.setWidth 64)
  | 0x002 => some (y.fpflags.setWidth 64)
  | 0x003 => some (if y.stallchk then 1 else 0)
  | 0x004 => some (y.landctl.setWidth 64)
  | 0x005 => some y.reppos
  | 0x008 => some (s.core c).timer
  | 0x009 => some q.quiesceTo
  | 0x00A => some (if q.permits then 1 else 0)
  | 0x100 => some (y.trapCause.setWidth 64)
  | 0x101 => some y.trapPc
  | 0x102 => some y.trapVal
  | 0x120 => some q.ckptTbl
  | 0x130 => some q.mintBase
  | 0x131 => some q.mintLen
  | 0x132 => some (q.mintPerm.setWidth 64)
  | 0x200 => some d.partId
  | 0x201 => some d.arborCfg
  | 0x202 => some (d.frzStat c)
  | n => if 0x110 ≤ n ∧ n ≤ 0x11F then some ((q.trapTbl.get (Fin.ofNat 16 (n - 0x110))).setWidth 64) else none

/-- Whether a state register belongs to a context (Table 19-3). -/
def stateRegPerCtx (i : Nat) : Bool := decide (i ≤ 5 ∨ (0x100 ≤ i ∧ i ≤ 0x102))

/-- Every fixed-latency result of a context in its register: what is written from outside afterwards stays (R341, R351). -/
def Core.settle (k : Core) (x : Fin 4) : Core := k.setCtx x ((k.ctxs.get x).land (k.clock + 1024))

/-- Every bit of a state register set as written (R341), CTXID's and other RO fields' too (log entry 8). What PARTID says takes effect at the
next reset of the die (R345), and the column in force stays as the firewall has it (R343). -/
def State.putStateReg (s : State) (c : Nat) (x : Fin 4) (i : Nat) (v : Dword) : State :=
  let n := v.toNat
  match i with
  | 0x000 => s.modCtx c x (fun y => { y with idBits := some (v &&& 0xFFFFFFFF) })
  | 0x001 => s.modCtx c x (fun y => { y with fpmode := v.setWidth 2 })
  | 0x002 => (s.modCore c (·.settle x)).modCtx c x (fun y => { y with fpflags := v.setWidth 5 })
  | 0x003 => s.modCtx c x (fun y => { y with stallchk := v.getLsbD 0 })
  | 0x004 => s.modCtx c x (fun y => { y with landctl := v.setWidth 16 })
  | 0x005 => s.modCtx c x (fun y => { y with
      repRep := BitVec.ofNat 16 (bitsOf n 16 16), repIdx := BitVec.ofNat 4 (bitsOf n 12 4), repPend := v.getLsbD 0 })
  | 0x008 => s.modCore c (fun k => { k with timerOff := v - BitVec.ofNat 64 k.clock })
  | 0x009 => s.modQuad (c / 4) (fun q => { q with quiesceTo := if v < 1024 then 1024 else v })
  | 0x00A => s.modQuad (c / 4) (fun q => { q with permits := v.getLsbD 0 })
  | 0x100 => s.modCtx c x (fun y => { y with trapCause := v.setWidth 8 })
  | 0x101 => s.modCtx c x (fun y => { y with trapPc := v })
  | 0x102 => s.modCtx c x (fun y => { y with trapVal := v })
  | 0x120 => s.modQuad (c / 4) (fun q => { q with ckptTbl := v })
  | 0x130 => s.modQuad (c / 4) (fun q => { q with mintBase := v })
  | 0x131 => s.modQuad (c / 4) (fun q => { q with mintLen := v })
  | 0x132 => s.modQuad (c / 4) (fun q => { q with mintPerm := v.setWidth 8 })
  | 0x200 => s.modDie (c / 1024) (fun d => { d with idReg := v.setWidth 8 &&& 0xF3 })
  | 0x201 => s.modDie (c / 1024) (fun d => { d with cfgReg := v.setWidth 5 })
  | 0x202 => s.modDie (c / 1024) (fun d => { d with frozen := v.getLsbD 63, stop := v.setWidth 63, stops := [] })
  | n => if 0x110 ≤ n ∧ n ≤ 0x11F then
      s.modQuad (c / 4) (fun q => { q with trapTbl := vset q.trapTbl (Fin.ofNat 16 (n - 0x110)) (v.setWidth 18) })
    else s

/-! Core windows (Table 5-2). -/

/-- Part of a wide register at a dword offset. -/
def dwordOf {w : Nat} (x : BitVec w) (k : Nat) : Dword := x.extractLsb' (64 * k) 64

/-- A wide register with one dword replaced. -/
def putDword {w : Nat} (x : BitVec w) (k : Nat) (d : Dword) : BitVec w :=
  BitVec.ofNat w (putBits x.toNat (64 * k) 64 d.toNat)

/-- The dword at an offset of a core window; `none` at a reserved offset. -/
def State.windowDword (s : State) (c off : Nat) : Option Dword :=
  let k := s.core c
  if off < 0x8000 then
    let x : Fin 4 := Fin.ofNat 4 (off / 0x2000)
    let y := (k.ctxs.get x).land k.clock
    let o := off % 0x2000
    if o < 0x100 then some (y.rg (Fin.ofNat 32 (o / 8)))
    else if o < 0x200 then some (dwordOf (y.rk (Fin.ofNat 16 ((o - 0x100) / 16))).bits (o / 8 % 2))
    else if o < 0x280 then some (dwordOf (y.rm (Fin.ofNat 8 ((o - 0x200) / 16))) (o / 8 % 2))
    else if o < 0x300 then some 0
    else if o < 0x400 then some (if o / 8 % 2 = 0 then (y.q.get (Fin.ofNat 16 ((o - 0x300) / 16))).setWidth 64 else 0)
    else if 0x800 ≤ o ∧ o < 0x880 then some (if (y.rk (Fin.ofNat 16 ((o - 0x800) / 8))).tag then 1 else 0)
    else if 0x1000 ≤ o then some (dwordOf (y.rv (Fin.ofNat 32 ((o - 0x1000) / 128))) (o / 8 % 16))
    else none
  else if off < 0xC000 then some (mapGet 0 k.mu.acc ((off - 0x8000) / 8))
  else if off < 0xD000 then
    let e := (off - 0xC000) / 4
    some (BitVec.ofNat 64 ((mapGet 0 k.mu.tbl e).toNat + (mapGet 0 k.mu.tbl (e + 1)).toNat * 2 ^ 32))
  else if off < 0xE000 then some 0
  else if off < 0xE800 then some (dwordOf (k.deque.getD ((off - 0xE000) / 32) 0) (off / 8 % 4))
  else if 0xF000 ≤ off ∧ off < 0xF100 then
    let x : Fin 4 := Fin.ofNat 4 ((off - 0xF000) / 0x40)
    let y := k.ctxs.get x
    some (match off % 0x40 / 8 with
      | 0 => y.fpmode.setWidth 64
      | 1 => y.fpflags.setWidth 64
      | 2 => y.landctl.setWidth 64
      | 3 => s.ctxid c x
      | _ => 0)
  else none

/-- Why a write of `n` bytes to a core window by another agent, or by the core itself, is refused (Table 5-2, R115 to R117): `whole` says
that the writer can write 128 bytes in one piece, which no core store does (R172). A decode table takes a write of any size (R102). -/
def State.windowCheck (s : State) (c off n : Nat) (whole : Bool) : Option Cause :=
  if (s.windowDword c (off / 8 * 8)).isNone then some .buserr
  else if off < 0x8000 then
    let y := s.ctx c (Fin.ofNat 4 (off / 0x2000))
    let o := off % 0x2000
    if 0x1C00 ≤ o ∧ whole ∧ n = 128 ∧ o % 128 = 0 ∧ y.landctl.getLsbD (8 + (o - 0x1C00) / 128) then none else some .window
  else if off < 0xC000 then (if n = 8 ∧ off % 8 = 0 then none else some .window)
  else if off < 0xD000 then (if off + n ≤ 0xD000 then none else some .window)
  else some .window

/-- Whether a landing register holds an earlier write, so that the engine must hold this one (R116). -/
def State.landingBusy (s : State) (c : Nat) (x : Fin 4) (i : Fin 8) : Bool := (s.ctx c x).landctl.getLsbD i.1

/-- A remote write to a landing register whose VALID bit is 0 (R116). -/
def State.landWrite (s : State) (c : Nat) (x : Fin 4) (i : Fin 8) (v : VReg) : State :=
  s.modCtx c x (fun y => { y with
    v := vset y.v (Fin.ofNat 32 (24 + i.1)) v, landctl := y.landctl ||| BitVec.ofNat 16 (2 ^ i.1) })

/-- A remote write to an accumulator element; refused while a command in flight names the tile (R117). -/
def State.accWrite (s : State) (c t k : Nat) (x : Dword) : Option State :=
  if (s.core c).mu.busyTile t then none else some (s.setMu c ((s.core c).mu.setEl t k x))

/-- A remote write to a decode-table entry (R102). -/
def State.tableWrite (s : State) (c t k : Nat) (x : BitVec 32) : State :=
  s.setMu c ((s.core c).mu.setEntry t k (x.setWidth 20))

/-- A privileged write of a dword of a core window: every bit as written (R341). -/
def State.putWindow (s : State) (c off : Nat) (d : Dword) : State :=
  if off < 0x8000 then
    let x : Fin 4 := Fin.ofNat 4 (off / 0x2000)
    let o := off % 0x2000
    (s.modCore c (·.settle x)).modCtx c x (fun y =>
      if o < 0x100 then { y with g := vset y.g (Fin.ofNat 32 (o / 8)) d }
      else if o < 0x200 then
        let r : Fin 16 := Fin.ofNat 16 ((o - 0x100) / 16)
        { y with k := vset y.k r { y.k.get r with bits := putDword (y.k.get r).bits (o / 8 % 2) d } }
      else if o < 0x280 then
        let r : Fin 8 := Fin.ofNat 8 ((o - 0x200) / 16)
        { y with m := vset y.m r (putDword (y.m.get r) (o / 8 % 2) d) }
      else if 0x300 ≤ o ∧ o < 0x400 then
        (if o / 8 % 2 = 0 then { y with q := vset y.q (Fin.ofNat 16 ((o - 0x300) / 16)) (d.setWidth 16) } else y)
      else if 0x800 ≤ o ∧ o < 0x880 then
        let r : Fin 16 := Fin.ofNat 16 ((o - 0x800) / 8)
        { y with k := vset y.k r { y.k.get r with tag := d.getLsbD 0 } }
      else if 0x1000 ≤ o then
        let r : Fin 32 := Fin.ofNat 32 ((o - 0x1000) / 128)
        { y with v := vset y.v r (putDword (y.v.get r) (o / 8 % 16) d) }
      else y)
  else if off < 0xC000 then s.setMu c ((s.core c).mu.setEl ((off - 0x8000) / 0x800) ((off - 0x8000) % 0x800 / 8) d)
  else if off < 0xD000 then
    let e := (off - 0xC000) / 4
    let m := (s.core c).mu
    s.setMu c ((m.setEntry (e / 256) (e % 256) (d.setWidth 20)).setEntry (e / 256) (e % 256 + 1) ((d.extractLsb' 32 32).setWidth 20))
  else if 0xE000 ≤ off ∧ off < 0xE800 then
    s.modCore c (fun k => { k with deque := listModify (fun r => putDword r (off / 8 % 4) d) ((off - 0xE000) / 32) k.deque })
  else if 0xF000 ≤ off ∧ off < 0xF100 then
    s.putStateReg c (Fin.ofNat 4 ((off - 0xF000) / 0x40)) (match off % 0x40 / 8 with
      | 0 => 1
      | 1 => 2
      | 2 => 4
      | 3 => 0
      | _ => 6) d
  else s

/-- Whether a context holds a firing or handler that issues or waits in a wait other than a trap wait (R341). -/
def Ctx.occupied (x : Ctx) : Bool :=
  match x.run, x.wait with
  | .free, _ => false
  | _, .trap => false
  | _, _ => !x.stopped

/-! Element records (R275). -/

/-- The dword at an offset of an element's record. -/
def Element.recDword (e : Element) (off : Nat) : Dword :=
  if off < 256 then e.l.get (Fin.ofNat 32 (off / 8))
  else
    let y := e.ctxs.get (Fin.ofNat 4 ((off - 256) / 80))
    let o := (off - 256) % 80
    if o < 64 then (y.words.get (Fin.ofNat 16 (o / 4 + 1))) ++ (y.words.get (Fin.ofNat 16 (o / 4)))
    else if o < 72 then y.ctlw
    else BitVec.ofNat 64 ((List.finRange 4).foldl (fun n i => n + (y.routes.get i).toNat * 2 ^ (16 * i.1)) 0)

/-- What a write leaves in CTLW (Table 12-5): RSVD bits read as zero (R8), and a reserved FMT or LEN leaves that field as it was (R9). -/
def ctlwWritten (old x : Dword) : Dword :=
  (x &&& 0xFFFE000000000380) ||| ((if bitsOf x.toNat 5 2 = 3 then old else x) &&& 0x60) ||| ((if 16 < bitsOf x.toNat 0 5 then old else x) &&& 0x1F)

/-- A context record with the dword at an offset replaced; bit 0 of a route is RSVD (R276). -/
def ElCtx.putRec (y : ElCtx) (o : Nat) (d : Dword) : ElCtx :=
  if o < 64 then { y with words := vset (vset y.words (Fin.ofNat 16 (o / 4)) (d.setWidth 32)) (Fin.ofNat 16 (o / 4 + 1)) (d.extractLsb' 32 32) }
  else if o < 72 then { y with ctlw := ctlwWritten y.ctlw d }
  else { y with routes := Vector.ofFn (fun i => d.extractLsb' (16 * i.1) 16 &&& 0xFFFE) }

/-- An element's record with the dword at an offset replaced. -/
def Element.putRec (e : Element) (off : Nat) (d : Dword) : Element :=
  if off < 256 then { e with l := vset e.l (Fin.ofNat 32 (off / 8)) d }
  else
    let i : Fin 4 := Fin.ofNat 4 ((off - 256) / 80)
    { e with ctxs := vset e.ctxs i ((e.ctxs.get i).putRec ((off - 256) % 80) d) }

/-- An element. -/
def State.element (s : State) (e : Nat) : Element := mapGet {} s.elements e

/-- The state with an element changed. -/
def State.modElement (s : State) (e : Nat) (f : Element → Element) : State :=
  { s with elements := mapPut e (f (s.element e)) s.elements }

/-! Security controller (Table 23-3). -/

/-- SCSTAT, the dword at 0x0008. -/
def Sec.stat (x : Sec) : Dword :=
  BitVec.ofNat 64 ((if x.busy then 2 ^ 63 else 0) + x.owner.toNat * 2 ^ 51 + x.res.toNat * 65536 + x.seq.toNat)

/-- A dword of the security controller. -/
def Sec.dword (x : Sec) (off : Nat) : Dword :=
  if off = 0 then x.cmd
  else if off = 8 then x.stat
  else if off = 0x10 then x.scres
  else BitVec.ofNat 64 (leNat ((List.range 8).map (fun i => mapGet 0 x.buf (off - 0x1000 + i))))

/-- Bytes written into SCBUF. -/
def Sec.fill (x : Sec) (off : Nat) (bs : List Byte) : Sec :=
  { x with buf := (List.range bs.length).foldl (fun b i => mapPut (off + i) (bs.getD i 0) b) x.buf }

/-- Whether ARG is reserved for an OP of SCCMD (Table 23-3): there are four key slots (R412) and eight MREGs. -/
def reservedArg (op arg : Nat) : Bool := (op == 1 && decide (4 ≤ arg)) || ((op == 2 || op == 4) && decide (8 ≤ arg))

/-- A write of SCCMD (R414): while BUSY it is ignored; with OP nonzero it starts a command for the writing core. A reserved OP or ARG leaves its
field as it was (R9), and its command completes with RES 6 (R415). -/
def State.sccmd (s : State) (d : Nat) (core : Nat) (x : Dword) : State :=
  s.modDie d (fun y =>
    let op := bitsOf x.toNat 60 4
    if y.sec.busy then y
    else if op = 0 then { y with sec := { y.sec with cmd := x &&& 0xFF00000000000000 } }
    else if 6 ≤ op then
      { y with sec := { y.sec with cmd := (y.sec.cmd &&& 0xF000000000000000) ||| (x &&& 0x0F00000000000000), busy := true
                                   pendRes := some 6, scres := 0, owner := BitVec.ofNat 12 core } }
    else if reservedArg op (bitsOf x.toNat 56 4) then
      { y with sec := { y.sec with cmd := (y.sec.cmd &&& 0x0F00000000000000) ||| (x &&& 0xF000000000000000), busy := true
                                   pendRes := some 6, scres := 0, owner := BitVec.ofNat 12 core } }
    else { y with sec := { y.sec with cmd := x &&& 0xFF00000000000000, busy := true, pendRes := none, owner := BitVec.ofNat 12 core } })

/-! Registers behind regions 0x02 to 0x04. -/

/-- TILECTL (Table 21-6). -/
def Quad.tilectlWord (k : Quad) : Dword :=
  BitVec.ofNat 64 ((if k.forced then 16 else 0) + k.ctlState.1 * 4 + (if k.target then 1 else 0))

/-- A dword of a queue-manager page. -/
def State.qmDword (s : State) (isl off : Nat) : Dword :=
  if off < 8 then (s.island isl).qmCmd
  else if off < 0x10 then (s.island isl).qmStat
  else if off < 0x1800 then s.slotWord isl ((off - 0x1000) / 8)
  else if 0x80000 ≤ off ∧ off < 0x80200 then
    let k := s.quad (firstCoreOfIsland isl / 4 + (off - 0x80000) / 0x40)
    if off % 0x40 < 8 then k.tilectlWord else k.saveBase.setWidth 64 <<< 21
  else 0

/-- The dword that a device register reads as; registers whose layout or contents the spec does not give (the engines', the arbor
configuration's, a peer module's) read as a free value (log entry 9). `none` at a reserved offset. -/
def State.deviceDword (s : State) (pa : Nat) : Option Dword :=
  match coreWindow? pa with
  | some (c, off) => s.windowDword c off
  | none =>
    let d := dieOfPa pa
    match regionOf pa, subOf pa with
    | 3, 0 =>
      let c := 1024 * d + lowOf pa / 0x40000
      let off := lowOf pa % 0x40000
      if off < 0x20000 then s.windowDword c off
      else s.stateReg c (Fin.ofNat 4 ((off - 0x20000) / 0x8000)) ((off - 0x20000) % 0x8000 / 8)
    | 3, 1 => some ((s.element (recordOfPa pa).1).recDword (recordOfPa pa).2)
    | 3, 2 => some ((s.die d).sec.dword (lowOf pa))
    | 3, _ => some (Config.freeDword s.freeCtr)
    | 4, 2 => if qmAssigned (islandOfPa pa) (lowOf pa % 0x100000) then some (s.qmDword (islandOfPa pa) (lowOf pa % 0x100000)) else none
    | 4, _ => some (Config.freeDword s.freeCtr)
    | r, _ => if isPeerRegion r then some (Config.freeDword s.freeCtr) else none

/-- Bytes read from device registers, dword by dword; `none` where an offset is reserved. -/
def State.deviceBytes (s : State) (pa n : Nat) : Option (List Byte) :=
  ((List.range ((pa % 8 + n + 7) / 8)).mapM (fun k => (s.deviceDword (pa / 8 * 8 + 8 * k)).map dwordBytes)).map
    (fun l => (l.flatten.drop (pa % 8)).take n)

/-- Why a write to a device register is refused at the writer (step 6 of R172): reserved offsets, WINDOW rules. -/
def State.deviceCheck (s : State) (pa n : Nat) (whole : Bool) : Option Cause :=
  match coreWindow? pa with
  | some (c, off) => s.windowCheck c off n whole
  | none =>
    if (s.deviceDword (pa / 8 * 8)).isNone then some .buserr
    else match regionOf pa, subOf pa with
      | 3, 0 =>
        let c := 1024 * dieOfPa pa + lowOf pa / 0x40000
        let off := lowOf pa % 0x40000
        let perCtx := fun (x : Nat) => if (s.ctx c (Fin.ofNat 4 x)).occupied then some Cause.window else none
        if off < 0x8000 then perCtx (off / 0x2000)
        else if 0xF000 ≤ off ∧ off < 0xF100 then perCtx ((off - 0xF000) / 0x40)
        else if 0x20000 ≤ off ∧ stateRegPerCtx ((off - 0x20000) % 0x8000 / 8) then perCtx ((off - 0x20000) / 0x8000)
        else none
      | 3, 2 => if 0x1000 ≤ lowOf pa ∧ (s.die (dieOfPa pa)).sec.busy then some .window else none
      | _, _ => none

/-- The core that a writer acts as, for OWNER. -/
def writerCore : Writer → Nat
  | .context c _ => c
  | _ => 0

/-- A dword of a device register written (R341, R376, R383, R366, R414). -/
def State.putDevice (s : State) (w : Writer) (pa : Nat) (x : Dword) : State :=
  let d := dieOfPa pa
  match regionOf pa, subOf pa with
  | 3, 0 =>
    let c := 1024 * d + lowOf pa / 0x40000
    let off := lowOf pa % 0x40000
    if off < 0x20000 then s.putWindow c off x
    else s.putStateReg c (Fin.ofNat 4 ((off - 0x20000) / 0x8000)) ((off - 0x20000) % 0x8000 / 8) x
  | 3, 1 => s.modElement (recordOfPa pa).1 (fun e => e.putRec (recordOfPa pa).2 x)
  | 3, 2 =>
    if lowOf pa = 0 then s.sccmd d (writerCore w) x
    else if 0x1000 ≤ lowOf pa ∧ !(s.die d).sec.busy then
      s.modDie d (fun y => { y with sec := y.sec.fill (lowOf pa - 0x1000) (dwordBytes x) })
    else s
  | 4, 2 =>
    let isl := islandOfPa pa
    let off := lowOf pa % 0x100000
    if off < 8 then s.qmCommand isl x
    else if off = 0xF0000 then s.pgwake isl x
    else if 0x80000 ≤ off ∧ off < 0x80200 ∧ isCoreIsland isl then
      let q := firstCoreOfIsland isl / 4 + (off - 0x80000) / 0x40
      if off % 0x40 = 0 then s.tilectl q w (x.getLsbD 0)
      else s.modQuad q (fun k => { k with saveBase := x.extractLsb' 21 31 })
    else s
  | _, _ => s

/-- Bytes written over a dword. -/
def mergeDword (old : Dword) (at_ : Nat) (bs : List Byte) : Dword :=
  BitVec.ofNat 64 (putBits old.toNat (8 * at_) (8 * bs.length) (leNat bs))

/-- A checked write of 1 to 8 bytes, or of whole dwords, to device registers. -/
def State.writeDevice (s : State) (w : Writer) : Nat → Nat → List Byte → State
  | 0, _, _ => s
  | n + 1, pa, bs =>
    if bs.isEmpty then s
    else
      let at_ := pa % 8
      let m := 8 - at_
      let base := pa / 8 * 8
      let x := mergeDword ((s.deviceDword base).getD 0) at_ (bs.take m)
      let s1 := match coreWindow? pa with
        | some (c, off) =>
          if off < 0x8000 then s
          else if off < 0xC000 then (s.accWrite c ((off - 0x8000) / 0x800) ((off - 0x8000) % 0x800 / 8) x).getD s
          else
            let e := (off - 0xC000) / 8 * 2
            (s.tableWrite c (e / 256) (e % 256) (x.setWidth 32)).tableWrite c (e / 256) (e % 256 + 1) (x.extractLsb' 32 32)
        | none => s.putDevice w base x
      s1.writeDevice w n (base + 8) (bs.drop m)

/-! Writes in pieces (R116, R117). -/

/-- The pieces in which a piece of a line is written to device registers: a whole landing register, else dwords. -/
def linePieces (pa n : Nat) : List (Nat × Nat) :=
  let landing : Bool := match coreWindow? pa with
    | some (_, off) => decide (off < 0x8000 ∧ 0x1C00 ≤ off % 0x2000)
    | none => false
  if landing ∧ n = 128 ∧ pa % 128 = 0 then [(pa, 128)]
  else
    let head := min n ((8 - pa % 8) % 8)
    (if head = 0 then [] else [(pa, head)]) ++ (List.range ((n - head + 7) / 8)).map (fun i => (pa + head + 8 * i, min 8 (n - head - 8 * i)))

/-- The pieces of a write, line by line: addresses and sizes. -/
def devPieces (pa n : Nat) : List (Nat × Nat) :=
  (List.range (n / 128 + 2)).flatMap (fun i =>
    let from_ := max pa ((pa / 128 + i) * 128)
    let to_ := min (pa + n) ((pa / 128 + i + 1) * 128)
    if to_ ≤ from_ then [] else linePieces from_ (to_ - from_))

/-- Why an agent that is no core may not write a range of registers (R115, R116, R341). -/
def State.piecesBarred (s : State) (pa n : Nat) : Option Cause := (devPieces pa n).findSome? (fun p => s.deviceCheck p.1 p.2 true)

/-- Whether an address is an accumulator element of a tile that a command in flight names (R117). -/
def State.accBusy (s : State) (pa : Nat) : Bool :=
  match coreWindow? pa with
  | some (c, off) => decide (0x8000 ≤ off ∧ off < 0xC000) && (s.core c).mu.busyTile ((off - 0x8000) / 0x800)
  | none => false

/-- What the registers decide when such a write arrives (R117): the refusals above, and WINDOW for a busy accumulator tile. -/
def State.piecesRefused (s : State) (pa n : Nat) : Option Cause :=
  (s.piecesBarred pa n) <|> (if (devPieces pa n).any (fun p => s.accBusy p.1) then some .window else none)

/-- Whether a piece must be held: a landing register is still VALID (R116). -/
def State.piecesHeld (s : State) (pa n : Nat) : Bool :=
  (devPieces pa n).any (fun p => match coreWindow? p.1 with
    | some (c, off) => decide (off < 0x8000) && s.landingBusy c (Fin.ofNat 4 (off / 0x2000)) (Fin.ofNat 8 ((off % 0x2000 - 0x1C00) / 128))
    | none => false)

/-- The pieces written: landing registers whole, other registers dword by dword. -/
def State.putPieces (s : State) (w : Writer) (pa : Nat) (bs : List Byte) : State :=
  (devPieces pa bs.length).foldl (fun (st : State) p =>
    let part := (bs.drop (p.1 - pa)).take p.2
    match coreWindow? p.1 with
    | some (c, off) =>
      if off < 0x8000 then st.landWrite c (Fin.ofNat 4 (off / 0x2000)) (Fin.ofNat 8 ((off % 0x2000 - 0x1C00) / 128)) (BitVec.ofNat 1024 (leNat part))
      else st.writeDevice w 2 p.1 part
    | none => st.writeDevice w 2 p.1 part) s

/-! Store buffers (R127). -/

/-- Whether a mask names all of `n` bytes. -/
def fullMask (n : Nat) : Nat := 2 ^ n - 1

/-- The bytes of a mask written, all at once where it names every byte. -/
def State.writeMasked (s : State) (pa mask : Nat) (bs : List Byte) : State :=
  if mask % 2 ^ bs.length = fullMask bs.length then s.writePlain pa bs
  else (List.range bs.length).foldl (fun (st : State) i =>
    if mask.testBit i then st.writePlain (pa + i) [bs.getD i 0] else st) s

/-- The bytes that a masked store leaves in device registers. -/
def State.deviceMerge (s : State) (e : StoreEntry) : List Byte :=
  let old := (s.deviceBytes e.pa e.bytes.length).getD e.bytes
  (List.range e.bytes.length).map (fun i => if e.mask.testBit i then e.bytes.getD i 0 else old.getD i 0)

/-- What the target of a core's store decides when it arrives (R117, R341, R414): a busy accumulator tile, a context that is not free. -/
def State.lateRefusal (s : State) (pa n : Nat) : Option Cause :=
  if (coreWindow? pa).isSome then (if s.accBusy pa then some .window else none)
  else (List.range ((n + 7) / 8)).findSome? (fun i => s.deviceCheck (pa + 8 * i) (min n 8) false)

/-- A store leaves its buffer (R127, R172): plain memory, its tag, or a register behind a window; a store that its target refuses on arrival
is discarded with an imprecise record; a store to a peer without a link, to its memory or to its windows, is lost with a LINKDOWN report. `none` where a host cache must
answer a snoop first (R396). -/
def State.performEntry (s : State) (c : Nat) (x : Fin 4) (e : StoreEntry) : Sum State State :=
  if s.linkDown e.pa then .inr (s.report (.quad (c / 4)) { cause := .linkdown, src := 7, imp := true, addr := e.va.setWidth 64 })
  else if isPlain e.pa then
    match s.snoop e.pa e.bytes.length with
    | some s1 => .inl s1
    | none =>
      let s1 := s.writeMasked e.pa e.mask e.bytes
      .inr (if e.tag then s1.setTag e.pa true else s1)
  else
    match s.lateRefusal e.pa e.bytes.length with
    | some cause =>
      .inr (s.report (.quad (c / 4)) { s.contextRec c x cause (e.va.setWidth 64) with imp := true, place := e.pc.setWidth 64 })
    | none => .inr (s.writeDevice (.context c x) 16 e.pa (s.deviceMerge e))

/-- The oldest store of a context performed, where it can be. -/
def State.performOldest (s : State) (c : Nat) (x : Fin 4) : State :=
  match (s.ctx c x).stores with
  | [] => s
  | e :: r =>
    match s.performEntry c x e with
    | .inl s1 => s1
    | .inr s1 => s1.modCtx c x (fun y => { y with stores := r })

/-- A store buffer drained: at most `n` stores performed. -/
def State.drain (c : Nat) (x : Fin 4) : Nat → State → State
  | 0, s => s
  | n + 1, s => State.drain c x n (s.performOldest c x)

/-- The issuing context's store buffer drained, and whether it is empty. -/
def State.drainMine (s : State) : State × Bool :=
  let s1 := State.drain s.cur s.me s.my.stores.length s
  (s1, s1.my.stores.isEmpty)

end Sys2Proof.Machine
end

