-- ==== Sys2Proof/Machine/Operands.lean ====
section
/-! DEFINITION. The operand forms of core words and the accesses behind them: register results, memory operands (R171), loads, stores,
atomics, full/empty and capability transfers as the checks of R172 leave them. -/
namespace Sys2Proof.Machine

/-! Register results. -/

/-- An operation that writes one g register with latency `lat` (Table 6-3). -/
def State.gResult (s : State) (st : Fin 8) (rd : List RegId) (d : Fin 32) (lat : Nat) (f : Ctx → Dword) :
    Host.Outcome State Fault Refusal :=
  s.run st rd [.g d] lat (fun s1 => .regs s1 [.g d (f s1.my)])

/-- A register-register operation of major 0x00. -/
def State.alu (s : State) (st : Fin 8) (d a b : Fin 32) (f : Dword → Dword → Dword) : Host.Outcome State Fault Refusal :=
  s.gResult st [.g a, .g b] d 1 (fun x => f (x.rg a) (x.rg b))

/-- An operation on one register and an immediate. -/
def State.aluImm (s : State) (st : Fin 8) (d a : Fin 32) (f : Dword → Dword) : Host.Outcome State Fault Refusal :=
  s.gResult st [.g a] d 1 (fun x => f (x.rg a))

/-- A division: a result of variable latency (R161). -/
def State.division (s : State) (st : Fin 8) (d a b : Fin 32) (f : Dword → Dword → Dword) : Host.Outcome State Fault Refusal :=
  s.run st [.g a, .g b] [.g d] 0 (fun s1 => .vars s1 [.g d (f (s1.my.rg a) (s1.my.rg b))])

/-- Truth as a dword. -/
def dbit (b : Bool) : Dword := if b then 1 else 0

/-- SignExtend(imm13, 64). -/
def imm13 (i : Fin 8192) : Dword := sextTo64 13 i.1

/-- An operation on one k register. -/
def State.capResult (s : State) (st : Fin 8) (rd : List RegId) (d : Fin 16) (f : Ctx → Cap) : Host.Outcome State Fault Refusal :=
  s.run st rd [.k d] 1 (fun s1 => .regs s1 [.k d (f s1.my)])

/-! Control transfer. -/

/-- A target `n` words from the pc, modulo 2^56 (R165, R166). -/
def Ctx.rel (x : Ctx) (bits n : Nat) : VAddr := x.pc + BitVec.ofInt 56 (4 * signedOf bits n)

/-- A conditional branch (R165): a target outside a handler's words raises ILLEGAL at the branch (R60, R167). -/
def State.branch (s : State) (st : Fin 8) (a b : Fin 32) (o : Fin 2048) (p : Dword → Dword → Bool) : Host.Outcome State Fault Refusal :=
  s.run st [.g a, .g b] [] 1 (fun s1 =>
    let x := s1.my
    if p (x.rg a) (x.rg b) then
      (if x.mayGo (x.rel 11 o.1) then .done s1 [] [] (some (x.rel 11 o.1)) else .raise .illegal 0)
    else .regs s1 [])

/-! Memory operands (R171). -/

/-- The address of MODE 0. -/
def Ctx.memDisp (x : Ctx) (k : Fin 16) (disp : Fin 1024) (n : Nat) : Nat :=
  ((x.rk k).cursor + BitVec.ofInt 56 (signedOf 10 disp.1 * n)).toNat

/-- The address of MODE 1. -/
def Ctx.memIdx (x : Ctx) (k : Fin 16) (i : Fin 32) (scale : Fin 4) : Nat :=
  ((x.rk k).cursor + ((x.rg i) <<< scale.1).setWidth 56).toNat

/-- The address of an atomic or a block: the cursor plus a byte offset in a register. -/
def Ctx.memOff (x : Ctx) (k : Fin 16) (a : Fin 32) : Nat := ((x.rk k).cursor + (x.rg a).setWidth 56).toNat

/-- A memory operand. -/
inductive MemOp where
  | disp (k : Fin 16) (i : Fin 1024)
  | idx (k : Fin 16) (x : Fin 32) (c : Fin 4)
  | off (k : Fin 16) (a : Fin 32)
  deriving DecidableEq, Repr

/-- The registers that a memory operand reads. -/
def MemOp.regs : MemOp → List RegId
  | .disp k _ => [.k k]
  | .idx k x _ => [.k k, .g x]
  | .off k a => [.k k, .g a]

/-- The capability of a memory operand. -/
def MemOp.cap (m : MemOp) (x : Ctx) : Cap :=
  match m with
  | .disp k _ => x.rk k
  | .idx k _ _ => x.rk k
  | .off k _ => x.rk k

/-- The address of a memory operand for an access of `n` bytes (R171, R177). -/
def MemOp.addr (m : MemOp) (x : Ctx) (n : Nat) : Nat :=
  match m with
  | .disp k i => x.memDisp k i n
  | .idx k i c => x.memIdx k i c
  | .off k a => x.memOff k a

/-! Reading and writing. -/

/-- What reading bytes gives. -/
inductive Got where
  | bytes (s : State) (bs : List Byte)
  | fault (c : Cause)
  | wait (s : State)

/-- Whether tile-privilege code touches an overflow ring (R49). -/
def State.ringBarred (s : State) (pa : Nat) : Bool := s.privOf s.cur == 0 && s.inRing pa

/-- Why a read of `n` bytes by the issuing context is refused at step 6 of R172 (R49, R114), or fails on poison (R374) that no store of
its own buffer covers. -/
def State.readBarred (s : State) (pa n : Nat) : Option Cause :=
  if isPlain pa then
    if s.ringBarred pa then some .perm
    else if (List.range n).any (fun i => s.poison.contains (pa + i) && (bufferedByte (pa + i) s.my.stores).isNone) then some .eccerr
    else none
  else if (s.deviceBytes pa n).isNone then some .buserr
  else none

/-- The bytes at a place that the context may read: plain memory as its store buffer leaves it (R127), or registers. -/
def State.viewAt (s : State) (pa n : Nat) : List Byte :=
  if isPlain pa then s.viewBytes s.my.stores pa n else (s.deviceBytes pa n).getD []

/-- The bytes of a checked read of the issuing context: effectful memory and registers behind windows after its earlier stores
(R123); a read of a peer's memory waits for a port that is up (log entry 27). -/
def State.readAt (s : State) (pa n : Nat) (eff : Bool) : Got :=
  match s.readBarred pa n with
  | some c => .fault c
  | none =>
    if s.linkDown pa then .wait s
    else if isPlain pa && !eff then .bytes s (s.viewAt pa n)
    else
      let (s1, empty) := s.drainMine
      if empty then .bytes s1.tick (s1.viewAt pa n) else .wait s1

/-- A load (R172, R173): the checks, the bytes, and the register that they give. -/
def State.load (s : State) (k : Cap) (va n al need : Nat) (f : State → List Byte → RegWrite) : Res :=
  match s.checked s.myAccess k va n al need 0 with
  | .fault s1 c v => .raiseIn s1 c (BitVec.ofNat 64 v)
  | .miss s1 => .wait .miss s1
  | .ok s1 pa eff =>
    match s1.readAt pa n eff with
    | .fault c => .raiseIn s1 c (BitVec.ofNat 64 va)
    | .wait s2 => .wait .resource s2
    | .bytes s2 bs => .vars s2 [f s2 bs]

/-- The refusal of step 6 of R172 for a write of `n` bytes by the issuing context. -/
def State.writeBarred (s : State) (pa n : Nat) : Option Cause :=
  if isPlain pa then (if s.ringBarred pa then some .perm else none)
  else if (coreWindow? pa).isSome then s.deviceCheck pa n false
  else (List.range ((n + 7) / 8)).findSome? (fun i => s.deviceCheck (pa + 8 * i) n false)

/-- A store enters the store buffer once it has passed steps 1 to 6 of R172. -/
def State.store (s : State) (k : Cap) (va n al need : Nat) (tag : Bool) (rel : Option Nat) (bs : List Byte) : Res :=
  match s.checked s.myAccess k va n al need 1 with
  | .fault s1 c v => .raiseIn s1 c (BitVec.ofNat 64 v)
  | .miss s1 => .wait .miss s1
  | .ok s1 pa _ =>
    match s1.writeBarred pa n with
    | some c => .raiseIn s1 c (BitVec.ofNat 64 va)
    | none =>
      .regs (s1.modMy (fun x => { x with
        stores := x.stores ++ [⟨pa, bs, fullMask bs.length, tag, BitVec.ofNat 56 va, x.pc, rel⟩] })) []

/-- Bytes of a range that may cross pages, once every check of R172 has passed. -/
inductive Range where
  | ok (s : State) (pieces : List (Nat × Nat)) (eff : Bool)
  | fault (s : State) (c : Cause) (va : Nat)
  | miss (s : State)

/-- Steps 3 to 6 of R172 for a read of `n` bytes page by page, the capability already checked. -/
def State.rangePages (s : State) (k : Cap) : Nat → Nat → Nat → List (Nat × Nat) → Bool → Range
  | 0, _, _, acc, eff => .ok s acc eff
  | f + 1, va, n, acc, eff =>
    if n = 0 then .ok s acc eff
    else
      let m := min n (4096 - va % 4096)
      match s.checked s.myAccess k va m 1 permR 0 with
      | .fault s1 c v => .fault s1 c v
      | .miss s1 => .miss s1
      | .ok s1 pa e =>
        match s1.readBarred pa m with
        | some c => .fault s1 c va
        | none => s1.rangePages k f (va + m) (n - m) (acc ++ [(pa, m)]) (eff || e)

/-- Steps 2 to 6 of R172 for a read of `n` bytes. -/
def State.readRange (s : State) (k : Cap) (va n : Nat) : Range :=
  match k.check va n permR with
  | some c => .fault s c va
  | none => s.rangePages k (n / 4096 + 2) va n [] false

/-- The bytes of checked pieces. -/
def State.rangeBytes (s : State) (ps : List (Nat × Nat)) : List Byte := ps.flatMap (fun p => s.viewAt p.1 p.2)

/-- A load of a g register, extended by sign or by zero (Table 7-7). -/
def State.loadG (s : State) (st : Fin 8) (d : Fin 32) (m : MemOp) (n : Nat) (signed : Bool) : Host.Outcome State Fault Refusal :=
  s.run st m.regs [.g d] 0 (fun s1 =>
    s1.load (m.cap s1.my) (m.addr s1.my n) n n permR (fun _ bs =>
      .g d (if signed then sextTo64 (8 * n) (leNat bs) else BitVec.ofNat 64 (leNat bs))))

/-- A store of a g register (Table 7-7), a release store where a scope is given (R174). -/
def State.storeG (s : State) (st : Fin 8) (g : Fin 32) (m : MemOp) (n : Nat) (rel : Option Nat) : Host.Outcome State Fault Refusal :=
  s.run st (.g g :: m.regs) [] 1 (fun s1 =>
    s1.store (m.cap s1.my) (m.addr s1.my n) n n permW false rel (leBytes n (s1.my.rg g).toNat))

/-! Atomics (R177, R178). -/

/-- F of Table 7-8. -/
def amoF (op : Nat) (old b d : Dword) : Dword :=
  match op with
  | 0 => old + b
  | 1 => old &&& b
  | 2 => old ||| b
  | 3 => old ^^^ b
  | 4 => if old.toInt ≤ b.toInt then old else b
  | 5 => if old.toInt ≤ b.toInt then b else old
  | 6 => if old ≤ b then old else b
  | 7 => if old ≤ b then b else old
  | 8 => b
  | 9 => if old = d then b else old
  | _ => old ||| BitVec.ofNat 64 (2 ^ (b.toNat % 64))

/-- What an indivisible access to a dword gives. -/
inductive Once where
  | ok (s : State) (pa : Nat)
  | fault (s : State) (c : Cause)
  | wait (w : Wait) (s : State)

/-- The checks of an atomic on a dword, up to the drained store buffer (R177, R178); `host` says whether region 0x10 takes it. The refusals
of regions 0x03 and 0x04 come before the reach of the capability, that of region 0x10 behind it (log entry 64). Poison is met when the
access is performed, behind the context's own stores (R374). -/
def State.atomicAt (s : State) (k : Cap) (va : Nat) (host : Bool) : Once :=
  match s.located s.myAccess k va 8 8 (permR + permW + permA) 3 with
  | .fault s1 c _ => .fault s1 c
  | .miss s1 => .wait .miss s1
  | .ok s1 pa _ =>
    if regionOf pa = 3 ∨ regionOf pa = 4 then .fault s1 .buserr
    else match s1.route s1.myAccess k.hasG pa with
      | some c => .fault s1 c
      | none =>
        if (coreWindow? pa).isSome then .fault s1 .window
        else if regionOf pa = 0x10 ∧ !host then .fault s1 .buserr
        else if s1.ringBarred pa then .fault s1 .perm
        else if s1.linkDown pa then .wait .resource s1
        else
          let (s2, empty) := s1.drainMine
          if !empty then .wait .resource s2
          else if s2.poisoned pa 8 then .fault s2 .eccerr
          else .ok s2 pa

/-- The dword written by an atomic; a line that a host cache may hold is snooped first (R396). -/
def State.atomicPut (s : State) (pa : Nat) (x : Dword) : State ⊕ State :=
  match s.snoop pa 8 with
  | some s1 => .inl s1
  | none => .inr (s.writePlain pa (dwordBytes x))

/-- An atomic (R177). -/
def State.amo (s : State) (st : Fin 8) (d a b : Fin 32) (k : Fin 16) (op : Nat) : Host.Outcome State Fault Refusal :=
  s.run st ([.k k, .g a, .g b] ++ (if op = 9 then [.g d] else [])) [.g d] 0 (fun s1 =>
    let x := s1.my
    let va := x.memOff k a
    match s1.atomicAt (x.rk k) va (op == 0 || op == 8 || op == 9) with
    | .fault s2 c => .raiseIn s2 c (BitVec.ofNat 64 va)
    | .wait w s2 => .wait w s2
    | .ok s2 pa =>
      let old := s2.peekD pa
      let res : Dword := if op = 10 then dbit (old.getLsbD ((x.rg b).toNat % 64)) else old
      if op = 9 ∧ old ≠ x.rg d then .vars s2 [.g d res]
      else match s2.atomicPut pa (amoF op old (x.rg b) (x.rg d)) with
        | .inl s3 => .wait .resource s3
        | .inr s3 => .vars s3 [.g d res])

/-! Full/empty accesses (R80, R81, R175). -/

/-- Whether a full/empty access of another context that waits for the same state of a line came before place `n` in the order of arrival. -/
def State.feBefore (s : State) (line : Nat) (full : Bool) (n : Nat) : Bool :=
  s.cores.any (fun e => (List.finRange 4).any (fun x => (e.1 != s.cur.1 || x != s.me) &&
    match (e.2.ctxs.get x).feWait with
    | some (l, f, k) => l == line && f == full && decide (k < n)
    | none => false))

/-- The issuing context takes a place at a line, or keeps the one it has (R80). -/
def State.joinLine (s : State) (line : Nat) (full : Bool) : State :=
  match s.my.feWait with
  | some (l, f, _) => if l = line ∧ f = full then s else { s with arrivals := s.arrivals + 1 }.modMy (fun y => { y with feWait := some (line, full, s.arrivals) })
  | none => { s with arrivals := s.arrivals + 1 }.modMy (fun y => { y with feWait := some (line, full, s.arrivals) })

/-- The place of the issuing context in the order of arrival at a line. -/
def State.placeAt (s : State) (line : Nat) (full : Bool) : Nat :=
  match s.my.feWait with
  | some (l, f, n) => if l = line ∧ f = full then n else s.arrivals
  | none => s.arrivals

/-- The checks of a full/empty access, up to the drained store buffer and the state of the line that it waits for. Of the accesses that
wait for one state of a line, the one that arrived first is performed first (R80). -/
def State.fullEmptyAt (s : State) (k : Cap) (va need : Nat) (kind : Fin 4) (full : Bool) : Once :=
  match s.checked s.myAccess k va 8 8 need kind with
  | .fault s1 c _ => .fault s1 c
  | .miss s1 => .wait .miss s1
  | .ok s1 pa _ =>
    if !isScratch pa ∨ s1.ringBarred pa ∨ s1.onRingLine pa then .fault s1 .perm
    else
      let (s2, empty) := s1.drainMine
      if !empty then .wait .resource s2
      else if s2.isFull pa ≠ full ∨ s2.feBefore (pa / 128) full (s2.placeAt (pa / 128) full) then .wait .resource (s2.joinLine (pa / 128) full)
      else if kind = 0 ∧ s2.poisoned pa 8 then .fault s2 .eccerr
      else .ok s2 pa

/-- `ld.fe` (R175). -/
def State.loadFe (s : State) (st : Fin 8) (d : Fin 32) (m : MemOp) : Host.Outcome State Fault Refusal :=
  s.run st m.regs [.g d] 0 (fun s1 =>
    let va := m.addr s1.my 8
    match s1.fullEmptyAt (m.cap s1.my) va permR 0 true with
    | .fault s2 c => .raiseIn s2 c (BitVec.ofNat 64 va)
    | .wait w s2 => .wait w s2
    | .ok s2 pa => .vars (s2.setFull pa false) [.g d (s2.peekD pa)])

/-- `st.fe` (R175). -/
def State.storeFe (s : State) (st : Fin 8) (g : Fin 32) (m : MemOp) : Host.Outcome State Fault Refusal :=
  s.run st (.g g :: m.regs) [] 1 (fun s1 =>
    let va := m.addr s1.my 8
    match s1.fullEmptyAt (m.cap s1.my) va permW 1 false with
    | .fault s2 c => .raiseIn s2 c (BitVec.ofNat 64 va)
    | .wait w s2 => .wait w s2
    | .ok s2 pa => .regs ((s2.pokeD pa (s1.my.rg g)).setFull pa true) [])

/-! Capability transfers (R176). -/

/-- `ld.cap` (R176): after the context's own stores, so that the tag is the one that stands in memory. -/
def State.loadCap (s : State) (st : Fin 8) (d : Fin 16) (m : MemOp) : Host.Outcome State Fault Refusal :=
  s.run st m.regs [.k d] 0 (fun s1 =>
    let va := m.addr s1.my 16
    match s1.checked s1.myAccess (m.cap s1.my) va 16 16 (permR + permL) 0 with
    | .fault s2 c v => .raiseIn s2 c (BitVec.ofNat 64 v)
    | .miss s2 => .wait .miss s2
    | .ok s2 pa _ =>
      if 2 < regionOf pa ∨ s2.ringBarred pa then .raiseIn s2 .perm (BitVec.ofNat 64 va)
      else
        let (s3, empty) := s2.drainMine
        if !empty then .wait .resource s3
        else match s3.readAt pa 16 false with
          | .fault c => .raiseIn s3 c (BitVec.ofNat 64 va)
          | .wait s4 => .wait .resource s4
          | .bytes s4 bs => .vars s4 [.k d ⟨BitVec.ofNat 128 (leNat bs), isPlain pa && s4.tagAt pa⟩])

/-- `st.cap` (R176). -/
def State.storeCap (s : State) (st : Fin 8) (d : Fin 16) (m : MemOp) : Host.Outcome State Fault Refusal :=
  s.run st (.k d :: m.regs) [] 1 (fun s1 =>
    let c := s1.my.rk d
    let va := m.addr s1.my 16
    let need := if c.tag then permW + permS else permW
    match s1.checked s1.myAccess (m.cap s1.my) va 16 16 need 1 with
    | .ok s2 pa _ =>
      if 2 < regionOf pa then .raiseIn s2 .perm (BitVec.ofNat 64 va)
      else s2.store (m.cap s1.my) va 16 16 need c.tag none (leBytes 16 c.bits.toNat)
    | .fault s2 e v => .raiseIn s2 e (BitVec.ofNat 64 v)
    | .miss s2 => .wait .miss s2)

end Sys2Proof.Machine
end

