-- ==== Sys2Proof/Machine/Fetch.lean ====
section
/-! DEFINITION. Fetching a context's instruction words (R137, R59, R241) and the privilege that a word asks for (R141, R347). -/
namespace Sys2Proof.Machine

/-- What fetching a word gives. -/
inductive Fetched where
  | word (s : State) (w : Nat)
  | fault (s : State) (c : Cause)
  | miss (s : State)

/-- How many words an instruction cache holds (R19). -/
def icacheWords : Nat := 16384

/-- The word that a quad executes at a physical address (R125): its instruction cache keeps a word that it has fetched; where a store has
changed that word in memory, the old one or the new one is executed, as a free choice says (log entry 59). -/
def State.cachedWord (s : State) (q pa : Nat) : State × Nat :=
  let now : BitVec 32 := BitVec.ofNat 32 (leNat (s.peek pa 4))
  let keep := fun (st : State) => st.modQuad q (fun k => { k with icache := ((pa, now) :: k.icache.filter (fun e => e.1 != pa)).take icacheWords })
  match mapFind (s.quad q).icache pa with
  | none => (keep s, now.toNat)
  | some old =>
    if old = now then (s, now.toNat)
    else if Config.freeNat s.freeCtr % 2 = 0 then (s.tick, old.toNat)
    else (keep s.tick, now.toNat)

/-- The word at an address of a context (R137): from the inbox entry in a handler (R59), else through the tile's code capability. -/
def State.fetchAt (s : State) (c : Nat) (x : Fin 4) (va : Nat) : Fetched :=
  let y := s.ctx c x
  match y.run with
  | .handler e _ _ _ =>
    if y.mayGo (BitVec.ofNat 56 va) then .word s (leNat (s.peek (inboxBase c e + va % 256) 4)) else .fault s .illegal
  | _ =>
    let a := s.accessOf c x
    let code := ((s.tileOf c).map (·.code)).getD {}
    match code.check va 4 permX with
    | some e => .fault s e
    | none =>
      match s.look a va 2 with
      | .fail s1 e => .fault s1 e
      | .miss s1 => .miss s1
      | .hit s1 pa _ =>
        match s1.route a code.hasG pa with
        | some e => .fault s1 e
        | none =>
          if !isPlain pa then .fault s1 .buserr
          else if s1.poisoned pa 4 then .fault s1 .eccerr
          else
            let (s2, w) := s1.cachedWord (c / 4) pa
            .word s2 w

/-- The least privilege of an assigned MINOR of major 0x3F (Table 19-5). -/
def minorPriv (minor : Nat) : Option Nat :=
  if minor = 0x01 ∨ minor = 0x03 ∨ (0x10 ≤ minor ∧ minor ≤ 0x17) then some 0
  else if minor = 0x02 ∨ (0x08 ≤ minor ∧ minor ≤ 0x0B) then some 1
  else if 0x04 ≤ minor ∧ minor ≤ 0x06 then some 2
  else none

/-- The cause of steps 1 to 4 of R141 for a word at a privilege, before its own operation. -/
def wordCause (priv w : Nat) : Option Cause :=
  let privFails := match minorPriv (bitsOf w 0 8) with
    | some p => bitsOf w 23 6 == 0x3F && w != 0xFFFFFFFF && decide (priv < p)
    | none => false
  if privFails then some .priv
  else match decodeCore w with
    | .ok _ => none
    | .reject _ => some .illegal

end Sys2Proof.Machine
end

