-- ==== Sys2Proof/Machine/Lanes.lean ====
section
/-! DEFINITION. Lanes of vector registers and masks (R182, R183), and what the vector operations of majors 0x20 to 0x26, 0x2A and 0x2D do
with them (R184 to R192, R197, R200): each as a body that a vector word or a captured word of `vrep` runs (R201). -/
namespace Sys2Proof.Machine

/-- Lane width in bits of an integer W (Table 8-1). -/
def laneBits (w : Fin 4) : Nat := 8 * 2 ^ w.1

/-- Format of a floating-point W (Table 8-1). -/
def laneFmt (w : Fin 4) : Fmt :=
  match w.1 with
  | 0 => bfloat16
  | 1 => binary16
  | 2 => binary32
  | _ => binary64

/-- Lane `i` of width `b` bits. -/
def laneOf (b : Nat) (x : VReg) (i : Nat) : Nat := bitsOf x.toNat (i * b) b

/-- A register from its lanes, at most `n` of width `b`; a lane without a value keeps the old one. -/
def fromLanes (b n : Nat) (old : VReg) (f : Nat → Option Nat) : VReg :=
  BitVec.ofNat 1024 ((List.range n).foldl (fun acc i => acc + ((f i).getD (laneOf b old i)) % 2 ^ b * 2 ^ (i * b)) 0)

/-- Whether MASK makes lane `i` active (R183). -/
def Ctx.active (x : Ctx) (m : Fin 8) (b i : Nat) : Bool := m.1 == 0 || (x.rm m).getLsbD (i * (b / 8))

/-- The registers that a mask field adds to an instruction's sources: the mask, and the destination that it leaves in part. -/
def maskReads (m : Fin 8) (d : RegId) : List RegId := if m.1 = 0 then [] else [.m m, d]

/-- A vector operation on registers: what it reads and writes, its latency, and its results. -/
structure VBody where
  reads : List RegId
  writes : List RegId
  lat : Nat
  act : State → Except Cause (List RegWrite)

/-- Lane results of an operation without flags. -/
def VBody.lanes (d : Fin 32) (m : Fin 8) (srcs : List RegId) (lat b : Nat) (f : Ctx → Nat → Nat) : VBody :=
  ⟨srcs ++ maskReads m (.v d), [.v d], lat, fun s =>
    let x := s.my
    .ok [.v d (fromLanes b (1024 / b) (x.rv d) (fun i => if x.active m b i then some (f x i) else none))]⟩

/-- An integer operation on two lanes (Table 8-3): the width, then the lanes. -/
def VBody.int2 (d a b : Fin 32) (w : Fin 4) (m : Fin 8) (f : Nat → Nat → Nat → Nat) : VBody :=
  .lanes d m [.v a, .v b] 2 (laneBits w) (fun x i => f (laneBits w) (laneOf (laneBits w) (x.rv a) i) (laneOf (laneBits w) (x.rv b) i))

/-- An integer operation on one lane. -/
def VBody.int1 (d a : Fin 32) (w : Fin 4) (m : Fin 8) (f : Nat → Nat → Nat) : VBody :=
  .lanes d m [.v a] 2 (laneBits w) (fun x i => f (laneBits w) (laneOf (laneBits w) (x.rv a) i))

/-- An integer clamped to the signed range of `b` bits. -/
def clampS (b : Nat) (i : Int) : Nat := patternOf b (max (-(2 ^ (b - 1) : Nat)) (min i ((2 ^ (b - 1) : Nat) - 1)))

/-- Mask bits set or cleared lane by lane; inactive lanes keep theirs (R185). -/
def maskLanes (b : Nat) (old : Mask) (act hit : Nat → Bool) : Mask :=
  BitVec.ofNat 128 ((List.range 128).foldl (fun acc k =>
    let i := k / (b / 8)
    acc + (if (if act i then hit i else old.getLsbD k) then 2 ^ k else 0)) 0)

/-- A comparison of integer lanes into a mask (R185); `c`: 0 eq, 1 ne, 2 lt, 3 ge, 4 ltu, 5 geu. -/
def VBody.icmp (c : Nat) (md : Fin 8) (a b : Fin 32) (w : Fin 4) (k : Fin 8) : VBody :=
  ⟨[.v a, .v b] ++ maskReads k (.m md), [.m md], 2, fun s =>
    let x := s.my
    let n := laneBits w
    let hit := fun i =>
      let p := laneOf n (x.rv a) i
      let q := laneOf n (x.rv b) i
      match c with
      | 0 => p == q
      | 1 => p != q
      | 2 => decide (signedOf n p < signedOf n q)
      | 3 => decide (signedOf n q ≤ signedOf n p)
      | 4 => decide (p < q)
      | _ => decide (q ≤ p)
    .ok [.m md (maskLanes n (x.rm md) (x.active k n) hit)]⟩

/-- `vsel` (R185): writes every lane and does not read its destination. -/
def VBody.select (d a b : Fin 32) (w : Fin 4) (m : Fin 8) : VBody :=
  ⟨[.v a, .v b] ++ (if m.1 = 0 then [] else [.m m]), [.v d], 2, fun s =>
    let x := s.my
    let n := laneBits w
    .ok [.v d (fromLanes n (1024 / n) 0 (fun i => some (if x.active m n i then laneOf n (x.rv a) i else laneOf n (x.rv b) i)))]⟩

/-- FPMODE.RM of a context (Table 4-3). -/
def Ctx.rmode (x : Ctx) : Nat := x.fpmode.toNat

/-- The flags that active lanes raise (R98). -/
def unionFlags (n : Nat) (act : Nat → Bool) (f : Nat → FRes) : BitVec 5 :=
  (List.range n).foldl (fun a i => if act i then a ||| (f i).flags else a) 0

/-- Floating-point lane results with flags; `rd` adds the destination to the sources on every lane (R186). -/
def VBody.flt (d : Fin 32) (m : Fin 8) (srcs : List RegId) (b : Nat) (f : Ctx → Nat → FRes) : VBody :=
  ⟨srcs ++ maskReads m (.v d), [.v d], 4, fun s =>
    let x := s.my
    .ok [.v d (fromLanes b (1024 / b) (x.rv d) (fun i => if x.active m b i then some (f x i).bits else none)),
         .flags (unionFlags (1024 / b) (x.active m b) (f x))]⟩

/-- A floating-point operation on two lanes (Table 8-4): format, rounding mode, lanes. -/
def VBody.flt2 (d a b : Fin 32) (w : Fin 4) (m : Fin 8) (f : Fmt → Nat → Nat → Nat → FRes) : VBody :=
  let t := laneFmt w
  .flt d m [.v a, .v b] t.width (fun x i => f t x.rmode (laneOf t.width (x.rv a) i) (laneOf t.width (x.rv b) i))

/-- A floating-point operation on one lane. -/
def VBody.flt1 (d a : Fin 32) (w : Fin 4) (m : Fin 8) (f : Fmt → Nat → Nat → FRes) : VBody :=
  let t := laneFmt w
  .flt d m [.v a] t.width (fun x i => f t x.rmode (laneOf t.width (x.rv a) i))

/-- A fused operation: reads its destination on every lane. -/
def VBody.fused (d a b : Fin 32) (w : Fin 4) (m : Fin 8) (f : Fmt → Nat → Nat → Nat → Nat → FRes) : VBody :=
  let t := laneFmt w
  .flt d m [.v a, .v b, .v d] t.width (fun x i =>
    f t x.rmode (laneOf t.width (x.rv a) i) (laneOf t.width (x.rv b) i) (laneOf t.width (x.rv d) i))

/-- A comparison of floating-point lanes into a mask (R187). -/
def VBody.fcmp (c : Nat) (md : Fin 8) (a b : Fin 32) (w : Fin 4) (k : Fin 8) : VBody :=
  ⟨[.v a, .v b] ++ maskReads k (.m md), [.m md], 4, fun s =>
    let x := s.my
    let t := laneFmt w
    let r := fun i => t.compare c (laneOf t.width (x.rv a) i) (laneOf t.width (x.rv b) i)
    .ok [.m md (maskLanes t.width (x.rm md) (x.active k t.width) (fun i => (r i).1)),
         .flags (unionFlags (1024 / t.width) (x.active k t.width) (fun i => ⟨0, (r i).2⟩))]⟩

/-! Conversions (R189, R190). -/

/-- The format of a float code of Table 8-5; integers have none. -/
def cvtFmt (c : Nat) : Option Fmt :=
  match c with
  | 8 => some bfloat16
  | 9 => some binary16
  | 10 => some binary32
  | 11 => some binary64
  | 12 => some e8m10
  | _ => none

/-- The value that a lane of a format code holds. -/
def cvtValue (c x : Nat) : FVal :=
  match cvtFmt c with
  | some f => f.value (x % 2 ^ f.width)
  | none => .ofInt (if c % 2 = 0 then signedOf (fmtBits c) x else (x % 2 ^ fmtBits c : Nat))

/-- Conversion of one lane between format codes (Table 4-2, R189). -/
def cvtLane (mode dst src x : Nat) : FRes :=
  if dst = src then ⟨if dst = 12 then x % 2 ^ 19 else x, 0⟩
  else match cvtFmt dst, cvtFmt src with
    | some f, _ => f.of mode (cvtValue src x)
    | none, some _ => floatToInt (dst % 2 == 0) (fmtBits dst) mode (cvtValue src x)
    | none, none => ⟨patternOf (fmtBits dst) (if src % 2 = 0 then signedOf (fmtBits src) x else (x % 2 ^ fmtBits src : Nat)), 0⟩

/-- `vcvt` (R189). -/
def VBody.cvt (d a : Fin 32) (t f : Fin 16) (p : Fin 4) : VBody :=
  let ws := fmtBits f.1
  let wd := fmtBits t.1
  if ws ≤ wd then
    let n := 1024 / wd
    ⟨[.v a], [.v d], 4, fun s =>
      let x := s.my
      let r := fun i => cvtLane x.rmode t.1 f.1 (laneOf ws (x.rv a) (p.1 * n + i))
      .ok [.v d (fromLanes wd n 0 (fun i => some (r i).bits)), .flags (unionFlags n (fun _ => true) r)]⟩
  else
    let n := 1024 / ws
    ⟨[.v a, .v d], [.v d], 4, fun s =>
      let x := s.my
      let r := fun i => cvtLane x.rmode t.1 f.1 (laneOf ws (x.rv a) i)
      .ok [.v d (fromLanes wd (1024 / wd) (x.rv d) (fun j => if p.1 * n ≤ j ∧ j < p.1 * n + n then some (r (j - p.1 * n)).bits else none)),
           .flags (unionFlags n (fun _ => true) r)]⟩

/-- The format and lane width of FMT in `vdec` and `venc` (R190). -/
def codeFmt (f : Fin 4) : Fmt × Nat :=
  match f.1 with
  | 0 => (bfloat16, 16)
  | 1 => (binary16, 16)
  | 2 => (binary32, 32)
  | _ => (e8m10, 32)

/-- `vdec` (R190). -/
def VBody.dec (d a : Fin 32) (t f p : Fin 4) (m : Fin 8) : VBody :=
  let (fm, w) := codeFmt f
  ⟨[.v a] ++ maskReads m (.v d), [.v d], 4, fun s =>
    let x := s.my
    let tb := (s.core s.cur).mu.table t.1
    let n := 1024 / w
    let r := fun i =>
      let c := laneOf 8 (x.rv a) (p.1 * n + i)
      if f.1 = 3 then ⟨tb.val c, 0⟩ else fm.of x.rmode (tb.decode c)
    .ok [.v d (fromLanes w n (x.rv d) (fun i => if x.active m w i then some (r i).bits else none)),
         .flags (unionFlags n (x.active m w) r)]⟩

/-- `venc` (R190): TABLE where the table is of class NONE. -/
def VBody.enc (d a : Fin 32) (t f p : Fin 4) (m : Fin 8) : VBody :=
  let (fm, w) := codeFmt f
  ⟨[.v a, .v d] ++ (if m.1 = 0 then [] else [.m m]), [.v d], 4, fun s =>
    let x := s.my
    let tb := (s.core s.cur).mu.table t.1
    let n := 1024 / w
    let r := fun i => tb.encode (fm.value (laneOf w (x.rv a) i % 2 ^ fm.width))
    if tb.cls = .none then .error .table
    else .ok [.v d (fromLanes 8 128 (x.rv d) (fun j =>
               if p.1 * n ≤ j ∧ j < p.1 * n + n ∧ x.active m w (j - p.1 * n) then some (r (j - p.1 * n)).bits else none)),
              .flags (unionFlags n (x.active m w) r)]⟩

/-- `vbaq` (R191). -/
def VBody.baq (d a b : Fin 32) (t : Fin 4) : VBody :=
  ⟨[.v a, .v b, .g d], [.v d, .g d], 6, fun s =>
    let x := s.my
    let tb := (s.core s.cur).mu.table t.1
    if tb.cls = .none then .error .table
    else
      let codes := fun (v : VReg) => (List.range 128).map (fun i => laneOf 8 v i)
      let r := tb.reduce (codes (x.rv a)) (codes (x.rv b)) (bitsOf (x.rg d).toNat 0 16) (bitsOf (x.rg d).toNat 16 16)
      .ok [.v d (fromLanes 8 128 0 (fun i => r.1[i]?)), .g d (BitVec.ofNat 64 r.2)]⟩

/-- `vbfly` (R192). -/
def VBody.bfly (d a b : Fin 32) (w : Fin 4) (g : Fin 8) : VBody :=
  let t := laneFmt w
  ⟨[.v a, .v b], [.v d], 4, fun s =>
    let x := s.my
    let n := 1024 / t.width
    let h := 2 ^ g.1
    let va := fun i => t.value (laneOf t.width (x.rv a) i)
    let vb := fun i => t.value (laneOf t.width (x.rv b) i)
    let r := fun i =>
      if i / h % 2 = 0 then t.fmaV x.rmode (va (i + h)) (vb (i + h)) (va i)
      else t.fmaV x.rmode (va i).flip (vb i) (va (i - h))
    .ok [.v d (fromLanes t.width n 0 (fun i => some (r i).bits)), .flags (unionFlags n (fun _ => true) r)]⟩

/-! Movement (R197). -/

/-- `vbcast`. -/
def VBody.bcast (d a : Fin 32) (w : Fin 4) (m : Fin 8) : VBody :=
  .lanes d m [.g a] 2 (laneBits w) (fun x _ => (x.rg a).toNat)

/-- `vperm`: indices modulo the number of lanes. -/
def VBody.perm (d a b : Fin 32) (w : Fin 4) (m : Fin 8) : VBody :=
  let n := laneBits w
  .lanes d m [.v a, .v b] 2 n (fun x i => laneOf n (x.rv a) (laneOf n (x.rv b) i % (1024 / n)))

/-- `vslide`. -/
def VBody.slide (d a b : Fin 32) (w : Fin 4) (m : Fin 8) : VBody :=
  let n := laneBits w
  .lanes d m [.v a, .g b] 2 n (fun x i =>
    let j : Int := i + (x.rg b).toInt
    if 0 ≤ j ∧ j < (1024 / n : Nat) then laneOf n (x.rv a) j.toNat else 0)

/-- The active lanes in increasing order. -/
def Ctx.activeList (x : Ctx) (m : Fin 8) (n : Nat) : List Nat := (List.range (1024 / n)).filter (x.active m n)

/-- `vcomp`: writes every lane and does not read its destination. -/
def VBody.comp (d a : Fin 32) (w : Fin 4) (m : Fin 8) : VBody :=
  let n := laneBits w
  ⟨[.v a] ++ (if m.1 = 0 then [] else [.m m]), [.v d], 2, fun s =>
    let x := s.my
    .ok [.v d (fromLanes n (1024 / n) 0 (fun i => some ((((x.activeList m n)[i]?).map (laneOf n (x.rv a))).getD 0)))]⟩

/-- `vexpd`. -/
def VBody.expd (d a : Fin 32) (w : Fin 4) (m : Fin 8) : VBody :=
  let n := laneBits w
  .lanes d m [.v a] 2 n (fun x i => laneOf n (x.rv a) ((x.activeList m n).idxOf i))

/-! Masks (R200). -/

/-- A mask from two masks. -/
def VBody.mask2 (d a b : Fin 8) (f : Mask → Mask → Mask) : VBody :=
  ⟨[.m a, .m b], [.m d], 2, fun s => .ok [.m d (f (s.my.rm a) (s.my.rm b))]⟩

/-- The complement of a mask. -/
def VBody.maskNot (d a : Fin 8) : VBody := ⟨[.m a], [.m d], 2, fun s => .ok [.m d (~~~(s.my.rm a))]⟩

/-- Lanes of a width whose mask bit is 1. -/
def maskedLanes (x : Mask) (w : Fin 4) : List Nat :=
  (List.range (1024 / laneBits w)).filter (fun i => x.getLsbD (i * (laneBits w / 8)))

/-- `mpop`. -/
def VBody.mpop (d : Fin 32) (a : Fin 8) (w : Fin 4) : VBody :=
  ⟨[.m a], [.g d], 2, fun s => .ok [.g d (BitVec.ofNat 64 (maskedLanes (s.my.rm a) w).length)]⟩

/-- `mfirst`. -/
def VBody.mfirst (d : Fin 32) (a : Fin 8) (w : Fin 4) : VBody :=
  ⟨[.m a], [.g d], 2, fun s => .ok [.g d (BitVec.ofNat 64 ((maskedLanes (s.my.rm a) w).headD (1024 / laneBits w)))]⟩

/-- A vector instruction of the issuing context waits while another context's repetition sequence runs on the core (R203). -/
def State.vectorHeld (s : State) : Bool := (s.core s.cur).rep.isSome

/-- The issue of a vector instruction. -/
def State.vrun (s : State) (st : Fin 8) (v : VBody) : Host.Outcome State Fault Refusal :=
  s.run st v.reads v.writes v.lat (fun s1 =>
    if s1.vectorHeld then .wait .resource s1
    else match v.act s1 with
      | .ok ws => .regs s1 ws
      | .error c => .raise c 0)

end Sys2Proof.Machine
end

