-- ==== Sys2Proof/Machine/Queues.lean ====
section
/-! DEFINITION. Queue instructions: majors 0x34 to 0x37 (R226 to R239). -/
namespace Sys2Proof.Machine

/-! Engine queues as queues (R251, R252). -/

/-- An entry appended to an engine queue: it takes the next sequence number (Table 11-6). -/
def EngQueue.append (q : EngQueue) (e : EngEntry) : EngQueue :=
  { q with entries := q.entries ++ [e], tail := q.tail + 1, nextSeq := q.nextSeq + 1 }

/-- Whether the issuing quad's tile has a port on an engine queue: an `.out` clause of an actor names it (R252). -/
def State.enginePort (s : State) (quad n : Nat) : Bool :=
  match (s.quad quad).tile with
  | some t => t.actors.any (fun a => a.decl.outs.any (fun p => p.queue == n))
  | none => false

/-- Room of an engine queue for an entry of a firing: a slot it holds reserved, or one that no firing has reserved (R37, R41). -/
def EngQueue.room (q : EngQueue) (k : Option FiringKey) : Bool :=
  let left := ((q.slots.map (·.left)).sum)
  let mine : Nat := match k with
    | some k => ((q.slots.filter (fun r => r.key = k)).map (·.left)).sum
    | none => 0
  decide (q.entries.length < 32) && (decide (0 < mine) || decide (q.entries.length + left < 32))

/-- A reserved slot used up. -/
def EngQueue.use (q : EngQueue) (k : Option FiringKey) : EngQueue :=
  match k with
  | some k => { q with slots := q.slots.map (fun r => if r.key = k then { r with left := r.left - 1 } else r) }
  | none => q

/-! Naming a queue. -/

/-- The queue identifier that a q register holds (R147, R226). -/
def Ctx.qid (x : Ctx) (q : Fin 16) : Nat := (x.q.get q).toNat

/-- The tile of the issuing core as the owner of a port. -/
def State.myTile (s : State) : Owner := .tile (.quad (s.cur.1 / 4))

/-- Whether a queue with this identifier exists. -/
def State.queueExists (s : State) (n : Nat) : Bool := n != 0 && (isEngineId n || (s.queue? n).isSome)

/-! What a release waits for (R77). -/

/-- Whether a push of the issuing context is still on its way, other than on the lane and port named. -/
def State.pushesLeft (s : State) (but : Option (Nat × Nat × Bool)) : Bool :=
  s.queues.any (fun e => e.2.inflight.any (fun f => f.src == some (s.cur.1, s.me) && but != some (e.1, f.port, f.urgent)))

/-- The release of a push (R47, R77): the stores of the issuing context performed, and its pushes accepted; those that go before it in the
same lane and port keep their order by themselves (R76). The flag says whether nothing is left. -/
def State.releaseMine (s : State) (but : Option (Nat × Nat × Bool)) : State × Bool :=
  let r := s.drainMine
  (r.1, r.2 && !r.1.pushesLeft but)

/-- The queue of a q register and the tile's consumer port on it (R226). -/
def State.myCons (s : State) (q : Fin 16) : Option (Nat × Queue × Nat) :=
  let n := s.my.qid q
  if n = 0 then none
  else match s.queue? n with
    | none => none
    | some x => (x.consOf s.myTile).map (fun c => (n, x, c))

/-- The queue of a q register and the tile's producer port on it. -/
def State.myProd (s : State) (q : Fin 16) : Option (Nat × Queue × Nat) :=
  let n := s.my.qid q
  if n = 0 then none
  else match s.queue? n with
    | none => none
    | some x => (x.prodOf s.myTile).map (fun p => (n, x, p))

/-- Item size behind a q register; 0 where there is no queue. -/
def State.itemSize (s : State) (q : Fin 16) : Nat :=
  match s.queue? (s.my.qid q) with
  | some x => x.isz
  | none => 0

/-! Items and registers (R228). -/

/-- The second register of a pair. -/
def pairOf (v : Fin 32) : Fin 32 := v + 1

/-- The registers that a v field names for an item size. -/
def itemRegs (v : Fin 32) (isz : Nat) : List RegId := if isz = 256 then [.v v, .v (pairOf v)] else [.v v]

/-- The writes of an item to a v register or a pair. -/
def itemToV (v : Fin 32) (isz : Nat) (bs : List Byte) : List RegWrite :=
  if isz = 256 then [.v v (BitVec.ofNat 1024 (leNat (bs.take 128))), .v (pairOf v) (BitVec.ofNat 1024 (leNat (bs.drop 128)))]
  else [.v v (BitVec.ofNat 1024 (leNat (bs.take 128)))]

/-- The write of an item to a g register. -/
def itemToG (g : Fin 32) (bs : List Byte) : RegWrite := .g g (BitVec.ofNat 64 (leNat (bs.take 8)))

/-- The bytes that a register field sends. -/
def Ctx.itemFrom (x : Ctx) (r : Fin 32) (vec : Bool) (isz : Nat) : List Byte :=
  if vec then padTo isz (leBytes (min isz 128) (x.rv r).toNat ++ (if isz = 256 then leBytes 128 (x.rv (pairOf r)).toNat else []))
  else padTo isz (leBytes 8 (x.rg r).toNat)

/-! Taking. -/

/-- The candidate of the issuing context on a port (R230). -/
def State.myCand (s : State) (q : Queue) (c : Nat) : Cand := s.candidate q c s.my.firing?

/-- The q register whose item an instruction word waits for. -/
def popsFrom (w : BitVec 32) : Option (Fin 16) :=
  match decodeCore w.toNat with
  | .ok (.qpop _ _ q _ _) => some q
  | .ok (.qgetC _ _ q _) => some q
  | _ => none

/-- Whether a context has a pop ready on a queue but for the item, and no reservation of its firing covers it: it waits for the item, or is to
issue it again. -/
def State.popWaits (s : State) (c : Nat) (x : Fin 4) (id : Nat) (q : Queue) : Bool :=
  let y := s.ctx c x
  y.since.isSome && (y.wait == .pop || y.wait == .none) && !y.stopped && !(s.core c).halted && s.clocked c
    && (y.word.bind popsFrom).any (fun r => y.qid r == id)
    && !q.items.any (fun r => some r.key == y.firing?)

/-- Whether another context of the quad takes an unreserved item before context `y` of core `c` (R227): a pop of a lower context of the core,
or of a lower core, waits on the queue. -/
def State.popYields (s : State) (c : Nat) (y : Fin 4) (id : Nat) (q : Queue) (u : Bool) (i : BitVec 32) : Bool :=
  let quad := c / 4
  let mine := q.items.any (fun r => q.consOf (.tile (.quad quad)) == some r.cons && r.urgent == u && r.index == i)
  !mine && (List.range 4).any (fun k => (List.finRange 4).any (fun x =>
    decide (4 * quad + k < c ∨ (4 * quad + k = c ∧ x.1 < y.1)) && s.popWaits (4 * quad + k) x id q))

/-- Whether the pop that a context waits in may go on (R56, R230): it finds an item that no other context takes first, or no queue any more. -/
def State.popReady (s : State) (c : Nat) (x : Fin 4) : Bool :=
  let y := s.ctx c x
  match y.word.bind popsFrom with
  | none => true
  | some r =>
    match s.queue? (y.qid r) with
    | none => true
    | some q =>
      match q.consOf (.tile (.quad (c / 4))) with
      | none => true
      | some p =>
        match s.candidate q p y.firing? with
        | .item u i => !s.popYields c x (y.qid r) q u i
        | _ => false

/-- The wait of a pop: a stall event; an unmapped queue is asked for, an empty urgent lane resets its count (R57). -/
def State.popWait (s : State) (id c : Nat) : Res := .wait .pop ((s.noteEmpty id c).want id)

/-- A taken slot whose header says KIND 3: it is delivered as data, and the taking agent posts a QFORMAT report that names the slot
(R73). -/
def State.noteKind (s : State) (t : TileRef) (r : FaultRec) (q : Queue) (u : Bool) (i : BitVec 32) : State :=
  if s.kindAt q u i = 3 then s.report t { r with cause := .qformat, ans := false, addr := BitVec.ofNat 64 (q.dataVa u i) } else s

/-- The issuing context takes an item (R57, R73). -/
def State.takeMine (s : State) (id : Nat) (q : Queue) (c : Nat) (u : Bool) (i : BitVec 32) : State :=
  (s.noteKind (.quad (s.cur.1 / 4)) (s.contextRec s.cur s.me .qformat 0) q u i).take id c u i

/-- `qpop` (R231). -/
def execQpop (st : Fin 8) (d : Fin 32) (q : Fin 16) (v : Fin 2) (t : Fin 256) (s : State) : Host.Outcome State Fault Refusal :=
  let isz := s.itemSize q
  s.run st [] (if v = 1 then itemRegs d isz else [.g d]) 0 (fun s1 =>
    match s1.myCons q with
    | none => .raise .qport 0
    | some (id, x, c) =>
      if v = 1 ∧ isz = 256 ∧ d.1 % 2 = 1 then .raise .qport 0
      else match s1.myCand x c with
        | .item u i =>
          if s1.popYields s1.cur s1.me id x u i then s1.popWait id c
          else if t.1 ≠ 0 ∧ s1.itypeAt x u i ≠ BitVec.ofNat 8 t.1 then .raise .type 0
          else
            let bs := s1.itemAt x u i
            .vars (s1.takeMine id x c u i) (if v = 1 then itemToV d isz bs else [itemToG d bs])
        | _ => s1.popWait id c)

/-- The status dword of `qtry` and `qpeek` (Table 10-2). -/
def tryStatus (mkid : BitVec 32) (itype : BitVec 8) (urg taken : Bool) (found : Nat) : Dword :=
  BitVec.ofNat 64 (mkid.toNat * 2 ^ 32 + itype.toNat * 256 + (if urg then 8 else 0) + (if taken then 4 else 0) + found)

/-- `qtry` and `qpeek` (R232). -/
def State.tryItem (s : State) (st : Fin 8) (d : Fin 32) (q : Fin 16) (t : Fin 256) (taking : Bool) : Host.Outcome State Fault Refusal :=
  let isz := s.itemSize q
  s.run st [] (.g d :: itemRegs d isz) 0 (fun s1 =>
    match s1.myCons q with
    | none => .raise .qport 0
    | some (id, x, c) =>
      if isz = 256 ∧ d.1 % 2 = 1 then .raise .qport 0
      else match s1.myCand x c with
        | .item u i =>
          let ty := s1.itypeAt x u i
          if t.1 ≠ 0 ∧ ty ≠ BitVec.ofNat 8 t.1 then .raise .type 0
          else .vars (if taking then s1.takeMine id x c u i else s1)
            (.g d (tryStatus 0 ty u taking 1) :: itemToV d isz (s1.itemAt x u i))
        | .marker m => .vars (s1.noteEmpty id c) [.g d (tryStatus m 0 false false 2)]
        | .parked => .vars s1 [.g d (tryStatus 0 0 false false 3)]
        | .none => .vars ((s1.noteEmpty id c).want id) [.g d (tryStatus 0 0 false false 0)])

/-- `qtry` (R232). -/
def execQtry (st : Fin 8) (d : Fin 32) (q : Fin 16) (t : Fin 256) (s : State) : Host.Outcome State Fault Refusal :=
  s.tryItem st d q t true

/-- `qpeek` (R232). -/
def execQpeek (st : Fin 8) (d : Fin 32) (q : Fin 16) (t : Fin 256) (s : State) : Host.Outcome State Fault Refusal :=
  s.tryItem st d q t false

/-! Items in place (R233, R234). -/

/-- What a context holds through a q register on one side. -/
def Ctx.held (x : Ctx) (q : Fin 16) (producer : Bool) : Option Hold := x.holds.find? (fun h => h.q == q && h.producer == producer)

/-- A hold ended. -/
def Ctx.unhold (x : Ctx) (q : Fin 16) (producer : Bool) : Ctx :=
  { x with holds := x.holds.filter (fun h => !(h.q == q && h.producer == producer)) }

/-- `qget.c` (R233): a reserved item stays the firing's, as the one it holds. -/
def execQgetC (st : Fin 8) (d : Fin 32) (q : Fin 16) (t : Fin 256) (s : State) : Host.Outcome State Fault Refusal :=
  s.run st [] [.g d] 0 (fun s1 =>
    match s1.myCons q with
    | none => .raise .qport 0
    | some (id, x, c) =>
      if (s1.my.held q false).isSome then .raise .qport 0
      else match s1.myCand x c with
        | .item u i =>
          if s1.popYields s1.cur s1.me id x u i then s1.popWait id c
          else if t.1 ≠ 0 ∧ s1.itypeAt x u i ≠ BitVec.ofNat 8 t.1 then .raise .type 0
          else
            let x1 : Queue := { x with heldItems := x.heldItems ++ [(c, u, i)] }
            .vars ((s1.setQueue id x1).modMy (fun y => { y with holds := y.holds ++ [⟨q, id, false, u, i, BitVec.ofNat 8 t.1⟩] }))
              [.g d (BitVec.ofNat 64 (x.dataVa u i))]
        | _ => s1.popWait id c)

/-- The slot at the tail of the normal lane taken for a port without an item (R233). -/
def State.holdSlot (s : State) (id : Nat) (q : Queue) (p : Nat) (k : Option FiringKey) : State :=
  s.setQueue id { q with
    tailN := q.tailN + 1
    owners := q.owners ++ [(false, q.tailN, p)]
    heldSlots := q.heldSlots ++ [(p, q.tailN)]
    slots := useSlots k p 1 q.slots
    prods := listModify (fun y => if y.remote then { y with used := y.used + 1 } else y) p q.prods
    lastUse := s.micros }

/-- Whether a push of a port into the normal lane is still on its way, so that the slot at the tail is not yet the one behind it (R76). -/
def Queue.sending (q : Queue) (p : Nat) : Bool := q.inflight.any (fun f => f.port == p && !f.urgent)

/-- `qget.p` (R233): the slot it takes stands behind the port's earlier pushes (R76). -/
def execQgetP (st : Fin 8) (d : Fin 32) (q : Fin 16) (t : Fin 256) (s : State) : Host.Outcome State Fault Refusal :=
  s.run st [] [.g d] 0 (fun s1 =>
    match s1.myProd q with
    | none => .raise .qport 0
    | some (id, x, p) =>
      if (s1.my.held q true).isSome then .raise .qport 0
      else if x.type ≠ 0 ∧ x.type ≠ BitVec.ofNat 8 t.1 then .raise .type 0
      else if !x.hasRoom s1.my.firing? p false 1 ∨ x.sending p then .wait .resource (s1.want id)
      else
        .vars ((s1.holdSlot id x p s1.my.firing?).modMy (fun y => { y with
            holds := y.holds ++ [⟨q, id, true, false, x.tailN, BitVec.ofNat 8 t.1⟩] }))
          [.g d (BitVec.ofNat 64 (x.dataVa false x.tailN))])

/-- `qdone.c` (R233); while the queue is unmapped it waits (R379). -/
def execQdoneC (st : Fin 8) (q : Fin 16) (s : State) : Host.Outcome State Fault Refusal :=
  s.run st [] [] 1 (fun s1 =>
    match s1.myCons q, s1.my.held q false with
    | some (id, x, c), some h =>
      if x.mapped.isNone then .wait .resource (s1.want id)
      else .regs ((s1.takeMine id x c h.urgent h.index).modMy (fun y => y.unhold q false)) []
    | _, _ => .raise .qport 0)

/-- A held slot published: its header is written after the data (R71, R233). -/
def State.publish (s : State) (id : Nat) (i : BitVec 32) (type : BitVec 8) : State :=
  match s.queue? id with
  | none => s
  | some q =>
    let q1 := { q with heldSlots := q.heldSlots.filter (fun h => h.2 != i), lastUse := s.micros }
    ((s.headSlot id q1 i type).settleReleased id).hostHalf id

/-- `qdone.p` (R233): after the context's stores and pushes, those behind the held slot included (R77); while the queue is unmapped it waits
(R379). -/
def execQdoneP (st : Fin 8) (q : Fin 16) (s : State) : Host.Outcome State Fault Refusal :=
  s.run st [] [] 1 (fun s1 =>
    match s1.myProd q, s1.my.held q true with
    | some (id, x, _), some h =>
      let (s2, empty) := s1.releaseMine none
      if x.mapped.isNone then .wait .resource (s1.want id)
      else if empty then .regs ((s2.publish id h.index h.type).modMy (fun y => y.unhold q true)) [] else .wait .resource s2
    | _, _ => .raise .qport 0)

/-! Pushes and markers. -/

/-- What a push meets before its entry is written: a cause, a wait for a free slot, or nothing (R226, R235, R252). -/
inductive Gate where
  | raise (c : Cause)
  | wait (s : State)
  | free
  deriving DecidableEq, Repr

/-- The port, type and room of a push by the issuing context into the queue of a q register; `engine` says whether an engine queue takes
such an entry. -/
def State.pushGate (s : State) (q : Fin 16) (urg : Bool) (kind : Nat) (type : BitVec 8) (engine : Bool) : Gate :=
  let n := s.my.qid q
  let k := s.my.firing?
  if isEngineId n then
    (if !engine ∨ !s.enginePort (s.cur.1 / 4) n then .raise .qport
     else if !(s.eng n).room k then .wait s
     else .free)
  else match s.myProd q with
    | none => .raise .qport
    | some (id, x, p) =>
      if kind = 0 ∧ x.type ≠ 0 ∧ type ≠ x.type then .raise .type
      else if !x.hasRoom k p (urg && decide (x.urgSlots ≠ 0)) (x.slotsFor kind) then .wait (s.want id)
      else .free

/-- An entry written, once the context's own stores and pushes are performed (R77); `entry` makes it in that state, as an item and as what an
engine queue takes instead. -/
def State.pushNow (s : State) (q : Fin 16) (urg : Bool) (entry : State → Item × Option EngEntry) : Res :=
  let n := s.my.qid q
  let k := s.my.firing?
  match s.myProd q with
  | some (id, x, p) =>
    let u := urg && decide (x.urgSlots ≠ 0)
    let (s2, empty) := s.releaseMine (some (id, p, u))
    if empty then .regs (s2.pushFrom (some (s2.cur.1, s2.me)) id p k u (entry s2).1) [] else .wait .resource s2
  | none =>
    let (s2, empty) := s.releaseMine none
    match (entry s2).2 with
    | some e => if empty then .regs (s2.modEng n (fun x => (x.use k).append e)) [] else .wait .resource s2
    | none => .raise .qport 0

/-- A push of one entry by the issuing context into the queue of a q register: it waits for a free slot and for the context's own
stores and pushes (R75, R77, R235). -/
def State.pushMine (s : State) (q : Fin 16) (urg : Bool) (kind : Nat) (type : BitVec 8) (engine : Bool)
    (entry : State → Item × Option EngEntry) : Res :=
  match s.pushGate q urg kind type engine with
  | .raise c => .raise c 0
  | .wait s1 => .wait .resource s1
  | .free => s.pushNow q urg entry

/-- `qpush` and `qpushu` (R235). -/
def State.pushItem (s : State) (st : Fin 8) (d : Fin 32) (q : Fin 16) (v : Fin 2) (t : Fin 256) (urg : Bool) :
    Host.Outcome State Fault Refusal :=
  let isz := s.itemSize q
  s.run st (if v = 1 then itemRegs d isz else [.g d]) [] 1 (fun s1 =>
    if v = 1 ∧ isz = 256 ∧ d.1 % 2 = 1 then .raise .qport 0
    else s1.pushMine q urg 0 (BitVec.ofNat 8 t.1) false (fun s2 => (⟨0, BitVec.ofNat 8 t.1, 0, s2.my.itemFrom d (v == 1) isz⟩, none)))

/-- `qpush` (R235). -/
def execQpush (st : Fin 8) (d : Fin 32) (q : Fin 16) (v : Fin 2) (t : Fin 256) (s : State) : Host.Outcome State Fault Refusal :=
  s.pushItem st d q v t false

/-- `qpushu` (R235). -/
def execQpushu (st : Fin 8) (d : Fin 32) (q : Fin 16) (v : Fin 2) (t : Fin 256) (s : State) : Host.Outcome State Fault Refusal :=
  s.pushItem st d q v t true

/-- `qmark` (R236): the ACTOR field is not used in this form. -/
def execQmark (st : Fin 8) (g : Fin 32) (q : Fin 16) (_a : Fin 64) (s : State) : Host.Outcome State Fault Refusal :=
  s.run st [.g g] [] 1 (fun s1 =>
    let m : BitVec 32 := (s1.my.rg g).setWidth 32
    s1.pushMine q false 1 0 true (fun _ => (⟨1, 0, m, []⟩, some (.marker m))))

/-- `qmark.a` (R236): a marker delivered to an actor without inputs; it waits while an earlier one stands there (log entry 17). -/
def execQmarkA (st : Fin 8) (g : Fin 32) (a : Fin 64) (s : State) : Host.Outcome State Fault Refusal :=
  s.run st [.g g] [] 1 (fun s1 =>
    let quad := s1.cur.1 / 4
    match s1.actor? quad a.1 with
    | none => .raise .qport 0
    | some x =>
      if !x.decl.ins.isEmpty then .raise .qport 0
      else if x.direct.isSome then .wait .resource s1
      else .regs (s1.modActor quad a.1 (fun y => { y with direct := some ((s1.my.rg g).setWidth 32) })) [])

/-- The island of an engine queue's engine: CE by identifier; LE and DE at the first island of their stack group. -/
def engineIsland (n : Nat) : Nat :=
  if n < 0x8800 then (n - 0x8000) / 8
  else
    let g := (n - 0x8800) % 0x40 / 4
    modulePos (g / 2) 0 (4 * (g % 2))

/-! Wait entries as they stand (R84, R85). -/

/-- What a wait entry at a head says. -/
inductive Holds where
  | yes (s : State)
  | no (s : State)
  | bad
  | fault (s : State) (c : Cause) (va : Nat)

/-- Whether a wait entry holds (R85); a signal is read at its virtual address through the job's page table. -/
def State.entryHolds (s : State) (bs : List Byte) (job island q : Nat) : Holds :=
  let n := leNat ((bs.drop 1).take 1)
  match leNat (bs.take 1) with
  | 0 =>
    if n = 0 ∨ 8 < n then .bad
    else if s.fenceHolds bs then .yes s
    else .no ((List.range n).foldl (fun (st : State) i => st.want (leNat ((bs.drop (8 + 2 * i)).take 2))) s)
  | 1 =>
    let va := leNat ((bs.drop 8).take 8) % 2 ^ 56
    let a : Access := ⟨.manager q, island, job, 0, false, none⟩
    match s.look a va 0 with
    | .miss s1 => .no s1
    | .fail s1 c => .fault s1 c va
    | .hit s1 pa _ =>
      let x := if isPlain pa then s1.peekD pa else (s1.deviceDword pa).getD 0
      if leNat ((bs.drop 16).take 8) ≤ x.toNat then .yes s1 else .no s1
  | _ => .bad

/-! Status and windows. -/

/-- HKIND, HTYPE and HURG of `qstat` (Table 10-3): what Candidate finds. -/
def State.headInfo (s : State) (q : Queue) (c : Nat) : Nat × Nat × Bool :=
  match s.myCand q c with
  | .none => (0, 0, false)
  | .item u i => (1, (s.itypeAt q u i).toNat, u)
  | .marker _ => (2, 0, false)
  | .parked => (3, 0, false)

/-- Items present for a consumer port, both lanes, reserved ones included (Table 10-3); a slot that `qget.p` holds has none yet (R233). -/
def Queue.present_ (q : Queue) (x : ConsPort) : Nat :=
  (q.tailN - x.headN).toNat + (q.tailU - x.headU).toNat - x.taken.length
    - (q.heldSlots.filter (fun h => decide ((h.2 - x.headN).toNat < (q.tailN - x.headN).toNat))).length

/-- Whether the head of an engine queue is a wait entry that does not hold (R253, R259). -/
def State.engineParked (s : State) (n : Nat) : Bool :=
  match (s.eng n).entries with
  | .wait bs t :: _ => !s.holdsNow bs ((s.tileJob t).getD 0)
  | _ => false

/-- The word of `qstat` (Table 10-3). An unmapped queue holds no items and offers no slots (R63, R379). An engine queue, which is never
unmapped, reads MAPPED 1, and PARKED while its head is a wait entry that does not hold, as in R259 (DEDUCED: log
entry 84). -/
def State.qstatWord (s : State) (n : Nat) : Dword :=
  if isEngineId n then
    let e := s.eng n
    let port := s.enginePort (s.cur.1 / 4) n
    BitVec.ofNat 64 ((if port then 2 ^ 48 else 0) + 2 ^ 46 + (if s.engineParked n then 2 ^ 45 else 0)
      + (if port then (32 - e.entries.length) * 2 ^ 17 else 0))
  else match s.queue? n with
    | none => 0
    | some q =>
      let prod := q.prodOf s.myTile
      let cons := q.consOf s.myTile
      let (hk, ht, hu) := match cons with
        | some c => s.headInfo q c
        | none => (0, 0, false)
      let remote := match prod with
        | some p => !q.isLocal p
        | none => false
      let (occ, parked) := match cons.bind (fun c => q.cons[c]?) with
        | some x => (q.present_ x, q.mapped.isSome && s.parkedNow q x)
        | none => (0, false)
      BitVec.ofNat 64 ((if remote then 2 ^ 49 else 0) + (if prod.isSome then 2 ^ 48 else 0) + (if cons.isSome then 2 ^ 47 else 0)
        + (if q.mapped.isSome then 2 ^ 46 else 0) + (if parked then 2 ^ 45 else 0) + (if hu then 2 ^ 44 else 0)
        + hk * 2 ^ 42 + ht * 2 ^ 34 + (if q.mapped.isNone then 0 else (match prod with
          | some p => min (q.offered p) (2 ^ 17 - 1)
          | none => 0) * 2 ^ 17 + min occ (2 ^ 17 - 1)))

/-- `qstat` (R237). -/
def execQstat (st : Fin 8) (d : Fin 32) (q : Fin 16) (s : State) : Host.Outcome State Fault Refusal :=
  s.run st [] [.g d] 0 (fun s1 =>
    let n := s1.my.qid q
    if !s1.queueExists n then .raise .qport 0 else .vars s1 [.g d (s1.qstatWord n)])

/-- `qwin` (R238): a window set while the queue is unmapped goes into its state block (R378). -/
def execQwin (st : Fin 8) (d : Fin 32) (q : Fin 16) (g : Fin 32) (s : State) : Host.Outcome State Fault Refusal :=
  s.run st [.g g] [.g d] 0 (fun s1 =>
    match s1.myProd q with
    | none => .raise .qport 0
    | some (id, x, p) =>
      if x.isLocal p then .raise .qport 0
      else
        let w := (s1.my.rg g).toNat
        let old := ((x.prods[p]?).map (·.window)).getD 0
        let others := ((x.prods.filter (·.remote)).map (·.window)).sum - old
        if 1 ≤ w ∧ w ≤ x.cap ∧ others + w ≤ x.cap then
          .vars (s1.changeQueue id (fun y => { y with prods := listModify (fun z => { z with window := w }) p y.prods })) [.g d (BitVec.ofNat 64 old)]
        else .vars s1 [.g d 0])

/-! Wait entries (R84, R239). -/

/-- The tail index of a queue at this moment: of the normal lane, which a wait entry itself stands in (log entry 68). -/
def State.tailOf (s : State) (n : Nat) : BitVec 32 :=
  if isEngineId n then (s.eng n).tail else ((s.queue? n).map (·.tailN)).getD 0

/-- Body of a queue fence (Table 3-4). -/
def fenceBytes (ids : List Nat) (tails : List (BitVec 32)) : List Byte :=
  leBytes 8 (ids.length * 256) ++ padTo 16 (ids.flatMap (leBytes 2)) ++ padTo 32 (tails.flatMap (fun t => leBytes 4 t.toNat)) ++ leBytes 8 0

/-- Body of a signal wait (Table 3-4). -/
def signalBytes (va : Nat) (target : Dword) : List Byte :=
  leBytes 8 1 ++ leBytes 8 va ++ dwordBytes target ++ List.replicate 40 0

/-- Whether the issuing tile can name a queue (R239, log entry 69): a queue of its job, one on which it holds a port, an engine queue of its
island or stack group. -/
def State.canName (s : State) (n : Nat) : Bool :=
  if isEngineId n then
    let here := islandOfCore s.cur
    s.enginePort (s.cur.1 / 4) n
      || (if n < 0x8800 then engineIsland n == here else stackOfIsland (engineIsland n) == stackOfIsland here)
  else match s.queue? n with
    | some q => n != 0 && (q.job == s.jobOf s.cur || (q.consOf s.myTile).isSome || (q.prodOf s.myTile).isSome)
    | none => false

/-- A wait entry of the issuing tile, as an item and as what an engine queue takes. -/
def State.waitEntry (s : State) (bs : List Byte) : Item × Option EngEntry := (⟨2, 0, 0, bs⟩, some (.wait bs (.quad (s.cur.1 / 4))))

/-- `qfence` (R239): the field holds N − 1; the tails are those of the moment of the push. -/
def execQfence (st : Fin 8) (v : Fin 32) (q : Fin 16) (n : Fin 8) (s : State) : Host.Outcome State Fault Refusal :=
  s.run st [.v v] [] 1 (fun s1 =>
    let ids := (List.range (n.1 + 1)).map (fun i => laneOf 16 (s1.my.rv v) i)
    if ids.any (fun i => !s1.canName i) then .raise .qport 0
    else s1.pushMine q false 2 0 true (fun s2 => s2.waitEntry (fenceBytes ids (ids.map s2.tailOf))))

/-- `qfence.sig` (R239): at the push, the address is checked as an 8-byte load through kc. -/
def execQfenceSig (st : Fin 8) (v : Fin 32) (q k : Fin 16) (s : State) : Host.Outcome State Fault Refusal :=
  s.run st [.v v, .k k] [] 1 (fun s1 =>
    let x := s1.my
    let va := ((x.rk k).cursor + BitVec.ofNat 56 (laneOf 64 (x.rv v) 0)).toNat
    match s1.pushGate q false 2 0 true with
    | .raise c => .raise c 0
    | .wait s2 => .wait .resource s2
    | .free =>
      match s1.checked s1.myAccess (x.rk k) va 8 8 permR 0 with
      | .fault s2 c a => .raiseIn s2 c (BitVec.ofNat 64 a)
      | .miss s2 => .wait .miss s2
      | .ok s2 pa _ =>
        match s2.readBarred pa 8 with
        | some c => .raiseIn s2 c (BitVec.ofNat 64 va)
        | none => s2.pushNow q false (fun s3 => s3.waitEntry (signalBytes va (BitVec.ofNat 64 (laneOf 64 (x.rv v) 1)))))

/-! Steps of the queue managers. -/

/-- The tiles that hold consumer ports. -/
def Queue.consTiles (q : Queue) : List TileRef :=
  q.cons.filterMap (fun c => match c.owner with
    | .tile t => some t
    | _ => none)

/-- WAIT_ENTRY_HOLDS (R85): the entry at the head of a consumer port of a mapped queue is passed once it holds; a malformed one is passed with
a QFORMAT report. -/
def State.passEntry (s : State) (id c : Nat) : State :=
  match s.queue? id with
  | none => s
  | some q =>
    match q.cons[c]? with
    | none => s
    | some x =>
      if !s.parkedFor q x ∨ q.mapped.isNone then s
      else
        let i := x.headN
        let n := q.slotsFor 2
        match s.entryHolds (s.entryBytes q i) q.job q.homeIsland id with
        | .yes s1 => s1.passSlots id c false i n
        | .no s1 => s1
        | .bad =>
          let s1 := s.passSlots id c false i n
          (match x.owner with
            | .tile t => s1.report t { cause := .qformat, src := 5, addr := BitVec.ofNat 64 q.base }
            | _ => s1)
        | .fault s1 e va => q.consTiles.foldl (fun (st : State) t => st.report t { cause := e, src := 5, addr := BitVec.ofNat 64 va }) s1

/-- The wait entry at the head of an engine queue (R253). -/
def State.passEngineEntry (s : State) (n : Nat) : State :=
  match (s.eng n).entries with
  | .wait bs t :: r =>
    match s.entryHolds bs ((s.tileJob t).getD 0) (engineIsland n) n with
    | .yes s1 => (s1.modEng n (fun q => { q with entries := r })).noteBusy (engineIsland n)
    | .no s1 => s1
    | .bad => ((s.modEng n (fun q => { q with entries := r })).noteBusy (engineIsland n)).report t { cause := .qformat, src := 3, place := BitVec.ofNat 64 n }
    | .fault s1 e va => s1.report t { cause := e, src := 3, place := BitVec.ofNat 64 n, addr := BitVec.ofNat 64 va }
  | _ => s

/-- WAIT_ENTRY_HOLDS (R85, R253). -/
def execWaitEntryHolds (q cons : Nat) (s : State) : Host.Outcome State Fault Refusal :=
  .next (if isEngineId q then s.passEngineEntry q else s.passEntry q cons)

/-- The oldest item in flight of a port, with those of the other ports and later ones. -/
def takeInFlight (p : Nat) : List InFlight → Option (InFlight × List InFlight)
  | [] => none
  | f :: r => if f.port = p then some (f, r) else (takeInFlight p r).map (fun (g, l) => (g, f :: l))

/-- Whether the items of a port go over a link to a home on another module (R83): that module's queue manager accepts them. -/
def ProdPort.leaves (p : ProdPort) : Bool :=
  match p.owner with
  | .peer _ => false
  | _ => p.link.isSome

/-- ITEM_ACCEPT (R76): the home accepts the oldest item of a remote port, while the queue is mapped (R379) and has room for it, in its lane and
in all (R68). Port `gonePort` stands for those whose tile has been released. At the host's producer port it is the admission of an item that PTAIL
had announced beyond the free slots (R399). -/
def execItemAccept (q port : Nat) (s : State) : Host.Outcome State Fault Refusal :=
  .next (match s.queue? q with
    | none => s
    | some x =>
      match takeInFlight port x.inflight with
      | none => if (x.prods[port]?).any (fun p => p.owner == .host) then s.admitHost q port 1 else s
      | some (f, rest) =>
        if x.mapped.isNone ∨ (x.prods[port]?).any ProdPort.leaves ∨ (f.urgent ∧ x.urgSlots ≤ (x.tailU - x.freeU).toNat)
            ∨ x.cap < x.occupancy + x.slotsFor f.kind.1 then s
        else
          (s.setQueue q { x with inflight := rest, prods := listModify (fun p => { p with accepted := p.accepted + 1 }) port x.prods }).accept
            q port f.urgent ⟨f.kind.1, f.type, f.mkid, f.bytes⟩)

/-- The credit of an acknowledgement put on the link of a peer's port (R75, Table 22-4). -/
def State.sendCredit (s : State) (q : Nat) (p : ProdPort) : State :=
  match p.owner, p.link with
  | .peer m, some l =>
    s.sendUnit l 4 (BitVec.ofNat 16 q) m false 1 []
  | _, _ => s

/-- ACKNOWLEDGEMENT_ARRIVAL (R75): the count of a remote port falls; a peer's credit returns over its link. While the queue is unmapped its
counts stand in the state block (R378), and the acknowledgement waits. -/
def execAcknowledgementArrival (q port : Nat) (s : State) : Host.Outcome State Fault Refusal :=
  .next (match s.queue? q with
    | none => s
    | some x =>
      if x.acks.contains port ∧ x.mapped.isSome then
        let s1 := s.setQueue q { x with acks := x.acks.erase port, prods := listModify (fun p => { p with used := p.used - 1 }) port x.prods }
        match x.prods[port]? with
        | some p => s1.sendCredit q p
        | none => s1
      else s)

end Sys2Proof.Machine
end

