-- ==== Sys2Proof/Machine/Vector.lean ====
section
/-! DEFINITION. Vector instructions on registers: majors 0x20 to 0x26, 0x2A and 0x2D (R184 to R192, R197, R200), and which of them a
repetition buffer may hold (R201). -/
namespace Sys2Proof.Machine

/-- `vadd` (Table 8-3). -/
def execVadd (st : Fin 8) (d a b : Fin 32) (w : Fin 4) (m : Fin 8) (s : State) : Host.Outcome State Fault Refusal :=
  s.vrun st (.int2 d a b w m (fun n x y => (x + y) % 2 ^ n))

/-- `vsub` (Table 8-3). -/
def execVsub (st : Fin 8) (d a b : Fin 32) (w : Fin 4) (m : Fin 8) (s : State) : Host.Outcome State Fault Refusal :=
  s.vrun st (.int2 d a b w m (fun n x y => (x + 2 ^ n - y) % 2 ^ n))

/-- `vmul` (Table 8-3). -/
def execVmul (st : Fin 8) (d a b : Fin 32) (w : Fin 4) (m : Fin 8) (s : State) : Host.Outcome State Fault Refusal :=
  s.vrun st (.int2 d a b w m (fun n x y => x * y % 2 ^ n))

/-- `vmulh` (Table 8-3). -/
def execVmulh (st : Fin 8) (d a b : Fin 32) (w : Fin 4) (m : Fin 8) (s : State) : Host.Outcome State Fault Refusal :=
  s.vrun st (.int2 d a b w m (fun n x y => patternOf n (signedOf n x * signedOf n y / (2 ^ n : Nat))))

/-- `vadds` (Table 8-3). -/
def execVadds (st : Fin 8) (d a b : Fin 32) (w : Fin 4) (m : Fin 8) (s : State) : Host.Outcome State Fault Refusal :=
  s.vrun st (.int2 d a b w m (fun n x y => clampS n (signedOf n x + signedOf n y)))

/-- `vsubs` (Table 8-3). -/
def execVsubs (st : Fin 8) (d a b : Fin 32) (w : Fin 4) (m : Fin 8) (s : State) : Host.Outcome State Fault Refusal :=
  s.vrun st (.int2 d a b w m (fun n x y => clampS n (signedOf n x - signedOf n y)))

/-- `vmin` (Table 8-3). -/
def execVmin (st : Fin 8) (d a b : Fin 32) (w : Fin 4) (m : Fin 8) (s : State) : Host.Outcome State Fault Refusal :=
  s.vrun st (.int2 d a b w m (fun n x y => if signedOf n y < signedOf n x then y else x))

/-- `vmax` (Table 8-3). -/
def execVmax (st : Fin 8) (d a b : Fin 32) (w : Fin 4) (m : Fin 8) (s : State) : Host.Outcome State Fault Refusal :=
  s.vrun st (.int2 d a b w m (fun n x y => if signedOf n x < signedOf n y then y else x))

/-- `vminu` (Table 8-3). -/
def execVminu (st : Fin 8) (d a b : Fin 32) (w : Fin 4) (m : Fin 8) (s : State) : Host.Outcome State Fault Refusal :=
  s.vrun st (.int2 d a b w m (fun n x y => min x y))

/-- `vmaxu` (Table 8-3). -/
def execVmaxu (st : Fin 8) (d a b : Fin 32) (w : Fin 4) (m : Fin 8) (s : State) : Host.Outcome State Fault Refusal :=
  s.vrun st (.int2 d a b w m (fun n x y => max x y))

/-- `vand` (Table 8-3). -/
def execVand (st : Fin 8) (d a b : Fin 32) (w : Fin 4) (m : Fin 8) (s : State) : Host.Outcome State Fault Refusal :=
  s.vrun st (.int2 d a b w m (fun n x y => x &&& y))

/-- `vor` (Table 8-3). -/
def execVor (st : Fin 8) (d a b : Fin 32) (w : Fin 4) (m : Fin 8) (s : State) : Host.Outcome State Fault Refusal :=
  s.vrun st (.int2 d a b w m (fun n x y => x ||| y))

/-- `vxor` (Table 8-3). -/
def execVxor (st : Fin 8) (d a b : Fin 32) (w : Fin 4) (m : Fin 8) (s : State) : Host.Outcome State Fault Refusal :=
  s.vrun st (.int2 d a b w m (fun n x y => x ^^^ y))

/-- `vshl` (Table 8-3). -/
def execVshl (st : Fin 8) (d a b : Fin 32) (w : Fin 4) (m : Fin 8) (s : State) : Host.Outcome State Fault Refusal :=
  s.vrun st (.int2 d a b w m (fun n x y => x * 2 ^ (y % n) % 2 ^ n))

/-- `vshr` (Table 8-3). -/
def execVshr (st : Fin 8) (d a b : Fin 32) (w : Fin 4) (m : Fin 8) (s : State) : Host.Outcome State Fault Refusal :=
  s.vrun st (.int2 d a b w m (fun n x y => x / 2 ^ (y % n)))

/-- `vsra` (Table 8-3). -/
def execVsra (st : Fin 8) (d a b : Fin 32) (w : Fin 4) (m : Fin 8) (s : State) : Host.Outcome State Fault Refusal :=
  s.vrun st (.int2 d a b w m (fun n x y => patternOf n (signedOf n x / (2 ^ (y % n) : Nat))))

/-- `vabs` (Table 8-3). -/
def execVabs (st : Fin 8) (d a : Fin 32) (w : Fin 4) (m : Fin 8) (s : State) : Host.Outcome State Fault Refusal :=
  s.vrun st (.int1 d a w m (fun n x => patternOf n (signedOf n x).natAbs))

/-- `vclz` (Table 8-3). -/
def execVclz (st : Fin 8) (d a : Fin 32) (w : Fin 4) (m : Fin 8) (s : State) : Host.Outcome State Fault Refusal :=
  s.vrun st (.int1 d a w m (fun n x => clzN n x))

/-- `vpopc` (Table 8-3). -/
def execVpopc (st : Fin 8) (d a : Fin 32) (w : Fin 4) (m : Fin 8) (s : State) : Host.Outcome State Fault Refusal :=
  s.vrun st (.int1 d a w m (fun n x => popcN n x))

/-- `vcmp` eq, ne, lt, ge (R185). -/
def execVcmp (st : Fin 8) (c : Fin 4) (m : Fin 8) (a b : Fin 32) (w : Fin 4) (k : Fin 8) (s : State) : Host.Outcome State Fault Refusal :=
  s.vrun st (.icmp c.1 m a b w k)

/-- `vcmp` ltu, geu (R185). -/
def execVcmpUnsigned (st : Fin 8) (c : Fin 2) (m : Fin 8) (a b : Fin 32) (w : Fin 4) (k : Fin 8) (s : State) : Host.Outcome State Fault Refusal :=
  s.vrun st (.icmp (4 + c.1) m a b w k)

/-- `vsel` (R185). -/
def execVsel (st : Fin 8) (d a b : Fin 32) (w : Fin 4) (m : Fin 8) (s : State) : Host.Outcome State Fault Refusal :=
  s.vrun st (.select d a b w m)

/-- `vfadd` (Table 8-4). -/
def execVfadd (st : Fin 8) (d a b : Fin 32) (w : Fin 4) (m : Fin 8) (s : State) : Host.Outcome State Fault Refusal :=
  s.vrun st (.flt2 d a b w m (fun t md x y => t.add md x y))

/-- `vfsub` (Table 8-4). -/
def execVfsub (st : Fin 8) (d a b : Fin 32) (w : Fin 4) (m : Fin 8) (s : State) : Host.Outcome State Fault Refusal :=
  s.vrun st (.flt2 d a b w m (fun t md x y => t.sub md x y))

/-- `vfmul` (Table 8-4). -/
def execVfmul (st : Fin 8) (d a b : Fin 32) (w : Fin 4) (m : Fin 8) (s : State) : Host.Outcome State Fault Refusal :=
  s.vrun st (.flt2 d a b w m (fun t md x y => t.mul md x y))

/-- `vfma` (R186): reads its destination on every lane. -/
def execVfma (st : Fin 8) (d a b : Fin 32) (w : Fin 4) (m : Fin 8) (s : State) : Host.Outcome State Fault Refusal :=
  s.vrun st (.fused d a b w m (fun t md x y z => t.fma md x y z))

/-- `vfms` (R186): reads its destination on every lane. -/
def execVfms (st : Fin 8) (d a b : Fin 32) (w : Fin 4) (m : Fin 8) (s : State) : Host.Outcome State Fault Refusal :=
  s.vrun st (.fused d a b w m (fun t md x y z => t.fms md x y z))

/-- `vfmin` (Table 8-4). -/
def execVfmin (st : Fin 8) (d a b : Fin 32) (w : Fin 4) (m : Fin 8) (s : State) : Host.Outcome State Fault Refusal :=
  s.vrun st (.flt2 d a b w m (fun t md x y => t.pick false x y))

/-- `vfmax` (Table 8-4). -/
def execVfmax (st : Fin 8) (d a b : Fin 32) (w : Fin 4) (m : Fin 8) (s : State) : Host.Outcome State Fault Refusal :=
  s.vrun st (.flt2 d a b w m (fun t md x y => t.pick true x y))

/-- `vfcmp` (R187). -/
def execVfcmp (st : Fin 8) (c : Fin 4) (m : Fin 8) (a b : Fin 32) (w : Fin 4) (k : Fin 8) (s : State) : Host.Outcome State Fault Refusal :=
  s.vrun st (.fcmp c.1 m a b w k)

/-- `vfabs` (Table 8-4). -/
def execVfabs (st : Fin 8) (d a : Fin 32) (w : Fin 4) (m : Fin 8) (s : State) : Host.Outcome State Fault Refusal :=
  s.vrun st (.flt1 d a w m (fun t md x => ⟨x % 2 ^ (t.width - 1), 0⟩))

/-- `vfneg` (Table 8-4). -/
def execVfneg (st : Fin 8) (d a : Fin 32) (w : Fin 4) (m : Fin 8) (s : State) : Host.Outcome State Fault Refusal :=
  s.vrun st (.flt1 d a w m (fun t md x => ⟨x ^^^ 2 ^ (t.width - 1), 0⟩))

/-- `vfrcpe` (R188). -/
def execVfrcpe (st : Fin 8) (d a : Fin 32) (w : Fin 4) (m : Fin 8) (s : State) : Host.Outcome State Fault Refusal :=
  s.vrun st (.flt1 d a w m (fun t md x => t.recipEst md x))

/-- `vfrsqe` (R188). -/
def execVfrsqe (st : Fin 8) (d a : Fin 32) (w : Fin 4) (m : Fin 8) (s : State) : Host.Outcome State Fault Refusal :=
  s.vrun st (.flt1 d a w m (fun t md x => t.rsqrtEst md x))

/-- `vcvt` (R189). -/
def execVcvt (st : Fin 8) (d a : Fin 32) (t f : Fin 16) (p : Fin 4) (s : State) : Host.Outcome State Fault Refusal :=
  s.vrun st (.cvt d a t f p)

/-- `vdec` (R190). -/
def execVdec (st : Fin 8) (d a : Fin 32) (t f p : Fin 4) (m : Fin 8) (s : State) : Host.Outcome State Fault Refusal :=
  s.vrun st (.dec d a t f p m)

/-- `venc` (R190). -/
def execVenc (st : Fin 8) (d a : Fin 32) (t f p : Fin 4) (m : Fin 8) (s : State) : Host.Outcome State Fault Refusal :=
  s.vrun st (.enc d a t f p m)

/-- `vbaq` (R191). -/
def execVbaq (st : Fin 8) (d a b : Fin 32) (t : Fin 4) (s : State) : Host.Outcome State Fault Refusal :=
  s.vrun st (.baq d a b t)

/-- `vbfly` (R192). -/
def execVbfly (st : Fin 8) (d a b : Fin 32) (w : Fin 4) (g : Fin 8) (s : State) : Host.Outcome State Fault Refusal :=
  s.vrun st (.bfly d a b w g)

/-- `vbcast` (Table 8-8). -/
def execVbcast (st : Fin 8) (d a : Fin 32) (w : Fin 4) (m : Fin 8) (s : State) : Host.Outcome State Fault Refusal :=
  s.vrun st (.bcast d a w m)

/-- `vperm` (Table 8-8). -/
def execVperm (st : Fin 8) (d a b : Fin 32) (w : Fin 4) (m : Fin 8) (s : State) : Host.Outcome State Fault Refusal :=
  s.vrun st (.perm d a b w m)

/-- `vslide` (Table 8-8). -/
def execVslide (st : Fin 8) (d a b : Fin 32) (w : Fin 4) (m : Fin 8) (s : State) : Host.Outcome State Fault Refusal :=
  s.vrun st (.slide d a b w m)

/-- `vcomp` (Table 8-8). -/
def execVcomp (st : Fin 8) (d a : Fin 32) (w : Fin 4) (m : Fin 8) (s : State) : Host.Outcome State Fault Refusal :=
  s.vrun st (.comp d a w m)

/-- `vexpd` (Table 8-8). -/
def execVexpd (st : Fin 8) (d a : Fin 32) (w : Fin 4) (m : Fin 8) (s : State) : Host.Outcome State Fault Refusal :=
  s.vrun st (.expd d a w m)

/-- `mand` (Table 8-10). -/
def execMand (st d a b : Fin 8) (s : State) : Host.Outcome State Fault Refusal :=
  s.vrun st (.mask2 d a b (fun x y => x &&& y))

/-- `mor` (Table 8-10). -/
def execMor (st d a b : Fin 8) (s : State) : Host.Outcome State Fault Refusal :=
  s.vrun st (.mask2 d a b (fun x y => x ||| y))

/-- `mxor` (Table 8-10). -/
def execMxor (st d a b : Fin 8) (s : State) : Host.Outcome State Fault Refusal :=
  s.vrun st (.mask2 d a b (fun x y => x ^^^ y))

/-- `mnot` (Table 8-10). -/
def execMnot (st d a : Fin 8) (s : State) : Host.Outcome State Fault Refusal :=
  s.vrun st (.maskNot d a)

/-- `mpop` (Table 8-10). -/
def execMpop (st : Fin 8) (d : Fin 32) (a : Fin 8) (w : Fin 4) (s : State) : Host.Outcome State Fault Refusal :=
  s.vrun st (.mpop d a w)

/-- `mfirst` (Table 8-10). -/
def execMfirst (st : Fin 8) (d : Fin 32) (a : Fin 8) (w : Fin 4) (s : State) : Host.Outcome State Fault Refusal :=
  s.vrun st (.mfirst d a w)

/-- The body of a captured instruction with its v registers renamed by `r` (R201, R202); `none` for a word that `vrep` may not
capture. -/
def capturedBody (r : Fin 32 → Fin 32) : Instr → Option VBody
  | .vadd _ d a b w m => some (.int2 (r d) (r a) (r b) w m (fun n x y => (x + y) % 2 ^ n))
  | .vsub _ d a b w m => some (.int2 (r d) (r a) (r b) w m (fun n x y => (x + 2 ^ n - y) % 2 ^ n))
  | .vmul _ d a b w m => some (.int2 (r d) (r a) (r b) w m (fun n x y => x * y % 2 ^ n))
  | .vmulh _ d a b w m => some (.int2 (r d) (r a) (r b) w m (fun n x y => patternOf n (signedOf n x * signedOf n y / (2 ^ n : Nat))))
  | .vadds _ d a b w m => some (.int2 (r d) (r a) (r b) w m (fun n x y => clampS n (signedOf n x + signedOf n y)))
  | .vsubs _ d a b w m => some (.int2 (r d) (r a) (r b) w m (fun n x y => clampS n (signedOf n x - signedOf n y)))
  | .vmin _ d a b w m => some (.int2 (r d) (r a) (r b) w m (fun n x y => if signedOf n y < signedOf n x then y else x))
  | .vmax _ d a b w m => some (.int2 (r d) (r a) (r b) w m (fun n x y => if signedOf n x < signedOf n y then y else x))
  | .vminu _ d a b w m => some (.int2 (r d) (r a) (r b) w m (fun n x y => min x y))
  | .vmaxu _ d a b w m => some (.int2 (r d) (r a) (r b) w m (fun n x y => max x y))
  | .vand _ d a b w m => some (.int2 (r d) (r a) (r b) w m (fun n x y => x &&& y))
  | .vor _ d a b w m => some (.int2 (r d) (r a) (r b) w m (fun n x y => x ||| y))
  | .vxor _ d a b w m => some (.int2 (r d) (r a) (r b) w m (fun n x y => x ^^^ y))
  | .vshl _ d a b w m => some (.int2 (r d) (r a) (r b) w m (fun n x y => x * 2 ^ (y % n) % 2 ^ n))
  | .vshr _ d a b w m => some (.int2 (r d) (r a) (r b) w m (fun n x y => x / 2 ^ (y % n)))
  | .vsra _ d a b w m => some (.int2 (r d) (r a) (r b) w m (fun n x y => patternOf n (signedOf n x / (2 ^ (y % n) : Nat))))
  | .vabs _ d a w m => some (.int1 (r d) (r a) w m (fun n x => patternOf n (signedOf n x).natAbs))
  | .vclz _ d a w m => some (.int1 (r d) (r a) w m (fun n x => clzN n x))
  | .vpopc _ d a w m => some (.int1 (r d) (r a) w m (fun n x => popcN n x))
  | .vcmp _ c m a b w k => some (.icmp c.1 m (r a) (r b) w k)
  | .vcmpUnsigned _ c m a b w k => some (.icmp (4 + c.1) m (r a) (r b) w k)
  | .vsel _ d a b w m => some (.select (r d) (r a) (r b) w m)
  | .vfadd _ d a b w m => some (.flt2 (r d) (r a) (r b) w m (fun t md x y => t.add md x y))
  | .vfsub _ d a b w m => some (.flt2 (r d) (r a) (r b) w m (fun t md x y => t.sub md x y))
  | .vfmul _ d a b w m => some (.flt2 (r d) (r a) (r b) w m (fun t md x y => t.mul md x y))
  | .vfma _ d a b w m => some (.fused (r d) (r a) (r b) w m (fun t md x y z => t.fma md x y z))
  | .vfms _ d a b w m => some (.fused (r d) (r a) (r b) w m (fun t md x y z => t.fms md x y z))
  | .vfmin _ d a b w m => some (.flt2 (r d) (r a) (r b) w m (fun t md x y => t.pick false x y))
  | .vfmax _ d a b w m => some (.flt2 (r d) (r a) (r b) w m (fun t md x y => t.pick true x y))
  | .vfcmp _ c m a b w k => some (.fcmp c.1 m (r a) (r b) w k)
  | .vfabs _ d a w m => some (.flt1 (r d) (r a) w m (fun t md x => ⟨x % 2 ^ (t.width - 1), 0⟩))
  | .vfneg _ d a w m => some (.flt1 (r d) (r a) w m (fun t md x => ⟨x ^^^ 2 ^ (t.width - 1), 0⟩))
  | .vfrcpe _ d a w m => some (.flt1 (r d) (r a) w m (fun t md x => t.recipEst md x))
  | .vfrsqe _ d a w m => some (.flt1 (r d) (r a) w m (fun t md x => t.rsqrtEst md x))
  | .vcvt _ d a t f p => some (.cvt (r d) (r a) t f p)
  | .vdec _ d a t f p m => some (.dec (r d) (r a) t f p m)
  | .venc _ d a t f p m => some (.enc (r d) (r a) t f p m)
  | .vbfly _ d a b w g => some (.bfly (r d) (r a) (r b) w g)
  | .vperm _ d a b w m => some (.perm (r d) (r a) (r b) w m)
  | .vcomp _ d a w m => some (.comp (r d) (r a) w m)
  | .vexpd _ d a w m => some (.expd (r d) (r a) w m)
  | .mand _ d a b => some (.mask2 d a b (fun x y => x &&& y))
  | .mor _ d a b => some (.mask2 d a b (fun x y => x ||| y))
  | .mxor _ d a b => some (.mask2 d a b (fun x y => x ^^^ y))
  | .mnot _ d a => some (.maskNot d a)
  | _ => none

end Sys2Proof.Machine
end

