-- ==== Sys2Proof/Machine/Dests.lean ====
section
/-! DEFINITION. The registers that an instruction names as destinations, as a skip answer needs them (R373). -/
namespace Sys2Proof.Machine

/-- The destinations of an instruction, masks included (R373); `isz` is the size of the items behind the q register that a taking
instruction names. Instructions of the vector unit without an arm of their own write what their body writes; the others name none. -/
def instrDests (isz : Nat) : Instr → List RegId
  | .add _ d _ _ => [.g d]
  | .sub _ d _ _ => [.g d]
  | .mul _ d _ _ => [.g d]
  | .mulh _ d _ _ => [.g d]
  | .mulhu _ d _ _ => [.g d]
  | .div _ d _ _ => [.g d]
  | .divu _ d _ _ => [.g d]
  | .rem _ d _ _ => [.g d]
  | .remu _ d _ _ => [.g d]
  | .and _ d _ _ => [.g d]
  | .or _ d _ _ => [.g d]
  | .xor _ d _ _ => [.g d]
  | .andn _ d _ _ => [.g d]
  | .shl _ d _ _ => [.g d]
  | .shr _ d _ _ => [.g d]
  | .sra _ d _ _ => [.g d]
  | .rol _ d _ _ => [.g d]
  | .slt _ d _ _ => [.g d]
  | .sltu _ d _ _ => [.g d]
  | .min _ d _ _ => [.g d]
  | .max _ d _ _ => [.g d]
  | .minu _ d _ _ => [.g d]
  | .maxu _ d _ _ => [.g d]
  | .clz _ d _ => [.g d]
  | .ctz _ d _ => [.g d]
  | .popc _ d _ => [.g d]
  | .bswap _ d _ => [.g d]
  | .sel _ d _ _ => [.g d]
  | .sext _ d _ _ => [.g d]
  | .zext _ d _ _ => [.g d]
  | .addi _ d _ _ => [.g d]
  | .andi _ d _ _ => [.g d]
  | .ori _ d _ _ => [.g d]
  | .xori _ d _ _ => [.g d]
  | .shli _ d _ _ => [.g d]
  | .shri _ d _ _ => [.g d]
  | .srai _ d _ _ => [.g d]
  | .slti _ d _ _ => [.g d]
  | .sltui _ d _ _ => [.g d]
  | .lui _ d _ => [.g d]
  | .addpc _ d _ => [.g d]
  | .bext _ d _ _ _ => [.g d]
  | .bins _ d _ _ _ => [.g d]
  | .jal _ _ => [.g 31]
  | .jalr _ d _ _ => [.g d]
  | .capBnd _ d _ _ => [.k d]
  | .capPrm _ d _ _ => [.k d]
  | .capSet _ d _ _ => [.k d]
  | .capAdd _ d _ _ => [.k d]
  | .capGet _ d _ _ => [.g d]
  | .capAddImm _ d _ _ => [.k d]
  | .ldB _ d _ _ => [.g d]
  | .ldBIdx _ d _ _ _ => [.g d]
  | .ldBu _ d _ _ => [.g d]
  | .ldBuIdx _ d _ _ _ => [.g d]
  | .ldH _ d _ _ => [.g d]
  | .ldHIdx _ d _ _ _ => [.g d]
  | .ldHu _ d _ _ => [.g d]
  | .ldHuIdx _ d _ _ _ => [.g d]
  | .ldW _ d _ _ => [.g d]
  | .ldWIdx _ d _ _ _ => [.g d]
  | .ldWu _ d _ _ => [.g d]
  | .ldWuIdx _ d _ _ _ => [.g d]
  | .ldD _ d _ _ => [.g d]
  | .ldDIdx _ d _ _ _ => [.g d]
  | .ldX _ d _ _ => [.v d]
  | .ldXIdx _ d _ _ _ => [.v d]
  | .ldBAcq _ d _ _ _ _ => [.g d]
  | .ldBuAcq _ d _ _ _ _ => [.g d]
  | .ldHAcq _ d _ _ _ _ => [.g d]
  | .ldHuAcq _ d _ _ _ _ => [.g d]
  | .ldWAcq _ d _ _ _ _ => [.g d]
  | .ldWuAcq _ d _ _ _ _ => [.g d]
  | .ldDAcq _ d _ _ _ _ => [.g d]
  | .ldFe _ d _ _ => [.g d]
  | .ldFeIdx _ d _ _ _ => [.g d]
  | .ldCap _ d _ _ => [.k d]
  | .ldCapIdx _ d _ _ _ => [.k d]
  | .amoAdd _ d _ _ _ => [.g d]
  | .amoAnd _ d _ _ _ => [.g d]
  | .amoOr _ d _ _ _ => [.g d]
  | .amoXor _ d _ _ _ => [.g d]
  | .amoMin _ d _ _ _ => [.g d]
  | .amoMax _ d _ _ _ => [.g d]
  | .amoMinu _ d _ _ _ => [.g d]
  | .amoMaxu _ d _ _ _ => [.g d]
  | .amoSwap _ d _ _ _ => [.g d]
  | .amoCas _ d _ _ _ => [.g d]
  | .amoTas _ d _ _ _ => [.g d]
  | .vld _ d _ _ => [.v d]
  | .vldIdx _ d _ _ _ _ => [.v d]
  | .vlds _ d _ _ _ _ => [.v d]
  | .vgath _ d _ _ _ _ => [.v d]
  | .vred _ d _ _ _ _ => [.g d]
  | .vbaq _ d _ _ _ => [.v d]
  | .vbcast _ d _ _ _ => [.v d]
  | .vslide _ d _ _ _ _ => [.v d]
  | .mpop _ d _ _ => [.g d]
  | .mfirst _ d _ _ => [.g d]
  | .vmrg _ d _ _ _ _ => [.v d, .v (d + 1)]
  | .vmrgp _ d _ _ _ _ => [.v d, .v (d + 1)]
  | .vsrt _ d _ _ _ _ => [.v d]
  | .mrdAcc _ d _ => [.g d]
  | .mrdTbl _ d _ => [.g d]
  | .mrdStat _ d => [.g d]
  | .mseq _ d _ _ _ => [.g d]
  | .qpop _ d _ v _ => if v = 1 then itemRegs d isz else [.g d]
  | .qtry _ d _ _ => .g d :: itemRegs d isz
  | .qpeek _ d _ _ => .g d :: itemRegs d isz
  | .qgetC _ d _ _ => [.g d]
  | .qgetP _ d _ _ => [.g d]
  | .qstat _ d _ => [.g d]
  | .qwin _ d _ _ => [.g d]
  | .tinit _ d _ _ _ => [.g d]
  | .barArr _ d _ _ => [.g d]
  | .barWt _ d _ _ _ => [.g d]
  | .sigSet _ d _ _ _ => [.g d]
  | .sigAdd _ d _ _ _ => [.g d]
  | .sigWt _ d _ _ _ => [.g d]
  | .cp _ d _ _ => [.g d]
  | .cpg _ d _ _ => [.g d]
  | .cps _ d _ _ => [.g d]
  | .lay _ d _ _ => [.g d]
  | .dcmp _ d _ _ => [.g d]
  | .engSt _ d _ _ => [.g d]
  | .fabCall _ d _ _ => [.g d]
  | .fabWait _ d _ => [.g d]
  | .grLoad _ d _ _ => [.g d]
  | .scanrd _ d _ _ => [.g d]
  | .graft _ d _ _ => [.g d]
  | .prune _ d _ _ => [.g d]
  | .capMint _ d _ _ => [.k d]
  | .sget _ d _ _ => [.g d]
  | i => ((capturedBody id i).map (·.writes)).getD []

/-- The q register that a taking instruction names. -/
def takenQ : Instr → Option (Fin 16)
  | .qpop _ _ q _ _ => some q
  | .qtry _ _ q _ => some q
  | .qpeek _ _ q _ => some q
  | _ => none

end Sys2Proof.Machine
end

