-- ==== Sys2Proof/Machine/Zstd.lean ====
section
/-! DEFINITION. Zstandard frames and their XXH64 checksum as RFC 8878 lays them out (R267). -/
namespace Sys2Proof.Machine

/-! XXH64. -/

def xxP1 : Dword := 0x9E3779B185EBCA87
def xxP2 : Dword := 0xC2B2AE3D27D4EB4F
def xxP3 : Dword := 0x165667B19E3779F9
def xxP4 : Dword := 0x85EBCA77C2B2AE63
def xxP5 : Dword := 0x27D4EB2F165667C5

/-- One lane taken into an accumulator. -/
def xxRound (acc lane : Dword) : Dword := (acc + lane * xxP2).rotateLeft 31 * xxP1

/-- An accumulator merged into the digest. -/
def xxMerge (h v : Dword) : Dword := (h ^^^ xxRound 0 v) * xxP1 + xxP4

/-- The little-endian lane of `n` bytes at an offset. -/
def laneAt (bs : List Byte) (off n : Nat) : Dword := BitVec.ofNat 64 (leNat ((bs.drop off).take n))

/-- The stripes of 32 bytes taken into the four accumulators, at most `n` of them, and the bytes left. -/
def xxStripes : Nat → List Byte → (Dword × Dword × Dword × Dword) → (Dword × Dword × Dword × Dword) × List Byte
  | 0, bs, v => (v, bs)
  | n + 1, bs, (a, b, c, d) =>
    xxStripes n (bs.drop 32) (xxRound a (laneAt bs 0 8), xxRound b (laneAt bs 8 8), xxRound c (laneAt bs 16 8), xxRound d (laneAt bs 24 8))

/-- Whole dwords behind the stripes, at most `n`. -/
def xxDwords : Nat → List Byte → Dword → Dword × List Byte
  | 0, bs, h => (h, bs)
  | n + 1, bs, h => xxDwords n (bs.drop 8) ((h ^^^ xxRound 0 (laneAt bs 0 8)).rotateLeft 27 * xxP1 + xxP4)

/-- The last bytes. -/
def xxTail (bs : List Byte) (h : Dword) : Dword :=
  let (h1, r) := if 4 ≤ bs.length then ((h ^^^ laneAt bs 0 4 * xxP1).rotateLeft 23 * xxP2 + xxP3, bs.drop 4) else (h, bs)
  r.foldl (fun h b => (h ^^^ b.setWidth 64 * xxP5).rotateLeft 11 * xxP1) h1

/-- The XXH64 digest with seed 0, from which a content checksum is taken. -/
def xxh64 (bs : List Byte) : Dword :=
  let ((a, b, c, d), r) := xxStripes (bs.length / 32) bs (xxP1 + xxP2, xxP2, 0, 0 - xxP1)
  let h0 := if bs.length < 32 then xxP5
    else [a, b, c, d].foldl xxMerge (a.rotateLeft 1 + b.rotateLeft 7 + c.rotateLeft 12 + d.rotateLeft 18)
  let (h1, t) := xxDwords (r.length / 8) r (h0 + BitVec.ofNat 64 bs.length)
  let h2 := xxTail t h1
  let h3 := (h2 ^^^ h2 >>> 33) * xxP2
  let h4 := (h3 ^^^ h3 >>> 29) * xxP3
  h4 ^^^ h4 >>> 32

/-! Bit streams that are read from their end. -/

/-- The bits of a byte, the highest first. -/
def bitsDown (b : Byte) : List Bool := (List.range 8).map (fun i => b.getLsbD (7 - i))

/-- The bits of a stream in the order in which they are read: behind the end mark, the highest 1 of its last byte; `none` where that is 0. -/
def streamBits (bs : List Byte) : Option (List Bool) :=
  match bs.reverse with
  | [] => none
  | b :: r => if b = 0 then none else some (((bitsDown b).dropWhile (fun x => !x)).drop 1 ++ r.flatMap bitsDown)

/-- The number that bits give, the highest first. -/
def bitsNat (l : List Bool) : Nat := l.foldl (fun n b => 2 * n + b.toNat) 0

/-- A number of `n` bits read; `none` where fewer are left. -/
def takeBits (n : Nat) (l : List Bool) : Option (Nat × List Bool) :=
  if l.length < n then none else some (bitsNat (l.take n), l.drop n)

/-! Finite state entropy tables. -/

/-- A cell of a decoding table: its symbol, the bits to read and the base of the next state. -/
structure FseCell where
  sym : Nat
  bits : Nat
  base : Nat
  deriving DecidableEq, Repr

/-- A decoding table with its accuracy. -/
structure FseTable where
  log : Nat
  cells : List FseCell
  deriving DecidableEq, Repr

/-- The table of one symbol that needs no bits. -/
def fseRle (s : Nat) : FseTable := ⟨0, [⟨s, 0, 0⟩]⟩

/-- The next cell that the spread comes to: not one of those at the end, at most `n` steps on. -/
def fseStep (size high : Nat) : Nat → Nat → Nat
  | 0, p => p
  | n + 1, p =>
    let q := (p + size / 2 + size / 8 + 3) % size
    if high ≤ q then fseStep size high n q else q

/-- The symbols of a distribution spread over a table: those of probability "less than 1" stand at its end. -/
def fseSpread (log : Nat) (norm : List Int) : List Nat :=
  let size := 2 ^ log
  let ns := (List.range norm.length).zip norm
  let low := (ns.filter (fun p => p.2 == -1)).map (·.1)
  let high := size - low.length
  let start := (List.range low.length).foldl (fun (m : List (Nat × Nat)) i => mapPut (size - 1 - i) (low.getD i 0) m) []
  let more := ns.flatMap (fun p => if p.2 ≤ 0 then [] else List.replicate p.2.toNat p.1)
  let m := (more.foldl (fun (acc : List (Nat × Nat) × Nat) s => (mapPut acc.2 s acc.1, fseStep size high size acc.2)) (start, 0)).1
  (List.range size).map (fun i => mapGet 0 m i)

/-- The decoding table of a distribution. -/
def fseTable (log : Nat) (norm : List Int) : FseTable :=
  let go := (fseSpread log norm).foldl (fun (acc : List FseCell × List (Nat × Nat)) s =>
    let n := match mapFind acc.2 s with
      | some k => k
      | none => if norm.getD s 0 = -1 then 1 else (norm.getD s 0).toNat
    let b := log - n.log2
    (acc.1 ++ [⟨s, b, n * 2 ^ b - 2 ^ log⟩], mapPut s (n + 1) acc.2)) ([], [])
  ⟨log, go.1⟩

/-- The zeros that two-bit flags add behind a probability of 0: their number and where the bits go on. -/
def fseZeros (bits : Nat) : Nat → Nat → Nat → Nat × Nat
  | 0, at_, n => (n, at_)
  | k + 1, at_, n =>
    let v := bitsOf bits at_ 2
    if v = 3 then fseZeros bits k (at_ + 2) (n + 3) else (n + v, at_ + 2)

/-- The probabilities of a table description, while some of it is `left` (plus 1): those read, and where the bits go on. -/
def fseProbs (bits most : Nat) : Nat → Nat → Nat → List Int → Option (List Int × Nat)
  | 0, _, _, _ => none
  | k + 1, at_, left, acc =>
    if left = 1 then some (acc, at_)
    else if left = 0 ∨ most < acc.length then none
    else
      let n := left.log2 + 1
      let max := 2 ^ n - 1 - left
      let small := bitsOf bits at_ (n - 1)
      let big := bitsOf bits at_ n
      let (v, w) := if small < max then (small, n - 1) else (if 2 ^ (n - 1) ≤ big then big - max else big, n)
      let p : Int := (v : Int) - 1
      let rest := left - (if v = 0 then 1 else v - 1)
      if left < (if v = 0 then 1 else v - 1) + 1 then none
      else if v = 1 then
        let (z, at2) := fseZeros bits (most + 1) (at_ + w) 0
        fseProbs bits most k at2 rest (acc ++ [0] ++ List.replicate z 0)
      else fseProbs bits most k (at_ + w) rest (acc ++ [p])

/-- A table description (RFC 8878, 4.1.1): the table, for symbols up to `most` and at most the accuracy `maxLog`, and the bytes behind it. -/
def fseRead (maxLog most : Nat) (bs : List Byte) : Option (FseTable × List Byte) :=
  let bits := leNat (bs.take 512)
  let log := bitsOf bits 0 4 + 5
  if maxLog < log ∨ bs.isEmpty then none
  else match fseProbs bits most (most + 2) 4 (2 ^ log + 1) [] with
    | none => none
    | some (norm, at_) =>
      let n := (at_ + 7) / 8
      if most + 1 < norm.length ∨ bs.length < n then none else some (fseTable log norm, bs.drop n)

/-- The cell of a state. -/
def FseTable.at_ (t : FseTable) (i : Nat) : FseCell := t.cells.getD i ⟨0, 0, 0⟩

/-! Huffman trees. -/

/-- A Huffman decoding table: for each value of the longest code, its symbol and the length of its own. -/
structure HufTable where
  log : Nat
  cells : List (Nat × Nat)
  deriving DecidableEq, Repr

/-- The table that the weights of the symbols but the last give (RFC 8878, 4.2.1). -/
def hufTable (ws : List Nat) : Option HufTable :=
  let sum := (ws.map (fun w => if w = 0 then 0 else 2 ^ (w - 1))).sum
  let log := sum.log2 + 1
  let rest := 2 ^ log - sum
  if sum = 0 ∨ 11 < log ∨ 255 < ws.length ∨ 2 ^ rest.log2 ≠ rest then none
  else
    let all := (List.range (ws.length + 1)).zip (ws ++ [rest.log2 + 1])
    some ⟨log, (List.range log).flatMap (fun w => (all.filter (fun p => p.2 == w + 1)).flatMap (fun p => List.replicate (2 ^ w) (p.1, log - w)))⟩

/-- Weights decoded with two states in turn, at most `n` of them; bits that the stream lacks end it. -/
def hufStates (t : FseTable) : Nat → Nat → Nat → List Bool → List Nat → Option (List Nat)
  | 0, _, _, _, _ => none
  | n + 1, a, b, l, acc =>
    let c := t.at_ a
    match takeBits c.bits l with
    | none => some (acc ++ [c.sym, (t.at_ b).sym])
    | some (v, r) => hufStates t n b (c.base + v) r (acc ++ [c.sym])

/-- A tree description and the bytes behind it. -/
def hufRead (bs : List Byte) : Option (HufTable × List Byte) :=
  match bs with
  | [] => none
  | h :: r =>
    let n := h.toNat
    if 128 ≤ n then
      let k := n - 127
      let ws := (List.range k).map (fun i => if i % 2 = 0 then (r.getD (i / 2) 0).toNat / 16 else (r.getD (i / 2) 0).toNat % 16)
      if r.length < (k + 1) / 2 then none else (hufTable ws).map (fun t => (t, r.drop ((k + 1) / 2)))
    else if r.length < n then none
    else match fseRead 6 255 (r.take n) with
      | none => none
      | some (t, body) =>
        match (streamBits body).bind (fun l => (takeBits t.log l).bind (fun (a, l1) => (takeBits t.log l1).map (fun (b, l2) => (a, b, l2)))) with
        | none => none
        | some (a, b, l) =>
          match hufStates t 256 a b l [] with
          | none => none
          | some ws => (hufTable ws).map (fun t => (t, r.drop n))

/-- Symbols of a stream, `n` of them, which take exactly its bits. -/
def hufDecode (t : HufTable) : Nat → List Bool → List Byte → Option (List Byte)
  | 0, l, acc => if l.isEmpty then some acc.reverse else none
  | n + 1, l, acc =>
    let head := l.take t.log
    let c := t.cells.getD (bitsNat head * 2 ^ (t.log - head.length)) (0, 0)
    if l.length < c.2 then none else hufDecode t n (l.drop c.2) (BitVec.ofNat 8 c.1 :: acc)

/-- One stream of `n` symbols. -/
def hufStream (t : HufTable) (n : Nat) (bs : List Byte) : Option (List Byte) := (streamBits bs).bind (fun l => hufDecode t n l [])

/-- Four streams behind their jump table. -/
def hufStreams (t : HufTable) (n : Nat) (bs : List Byte) : Option (List Byte) :=
  let size := fun i => leNat ((bs.drop (2 * i)).take 2)
  let k := (n + 3) / 4
  let body := bs.drop 6
  let b1 := body.drop (size 0)
  let b2 := b1.drop (size 1)
  if bs.length < 6 ∨ body.length < size 0 + size 1 + size 2 ∨ n < 3 * k then none
  else match hufStream t k (body.take (size 0)), hufStream t k (b1.take (size 1)), hufStream t k (b2.take (size 2)),
      hufStream t (n - 3 * k) (b2.drop (size 2)) with
    | some w, some x, some y, some z => some (w ++ x ++ y ++ z)
    | _, _, _, _ => none

/-! Compressed blocks. -/

/-- What a frame keeps from block to block: its content so far, the repeated offsets, and the tables used last. -/
structure ZstdSt where
  out : List Byte := []
  reps : Nat × Nat × Nat := (1, 4, 8)
  huf : Option HufTable := none
  ll : Option FseTable := none
  of : Option FseTable := none
  ml : Option FseTable := none
  deriving DecidableEq, Repr

/-- A literals section: the literals, the tree used, and the bytes behind it. -/
def zstdLiterals (huf : Option HufTable) (bs : List Byte) : Option (List Byte × Option HufTable × List Byte) :=
  let b0 := (bs.getD 0 0).toNat
  let type := b0 % 4
  let fmt := b0 / 4 % 4
  if bs.isEmpty then none
  else if type < 2 then
    let hl := if fmt % 2 = 0 then 1 else if fmt = 1 then 2 else 3
    let n := leNat (bs.take hl) / (if fmt % 2 = 0 then 8 else 16)
    let body := bs.drop hl
    let k := if type = 0 then n else 1
    if bs.length < hl ∨ body.length < k ∨ 131072 < n then none
    else some (if type = 0 then body.take n else List.replicate n (body.getD 0 0), huf, body.drop k)
  else
    let w := if fmt < 2 then 10 else if fmt = 2 then 14 else 18
    let hl := if fmt < 2 then 3 else if fmt = 2 then 4 else 5
    let h := leNat (bs.take hl)
    let n := bitsOf h 4 w
    let size := bitsOf h (4 + w) w
    let body := (bs.drop hl).take size
    if bs.length < hl + size ∨ 131072 < n then none
    else
      let tree := if type = 2 then hufRead body else huf.map (fun t => (t, body))
      match tree with
      | none => none
      | some (t, r) => (if fmt = 0 then hufStream t n r else hufStreams t n r).map (fun l => (l, some t, bs.drop (hl + size)))

/-- Base values and extra bits of literals length codes. -/
def llCodes : List (Nat × Nat) :=
  (List.range 16).map (fun i => (i, 0)) ++ [(16, 1), (18, 1), (20, 1), (22, 1), (24, 2), (28, 2), (32, 3), (40, 3), (48, 4), (64, 6)]
    ++ (List.range 10).map (fun i => (2 ^ (7 + i), 7 + i))

/-- Base values and extra bits of match length codes. -/
def mlCodes : List (Nat × Nat) :=
  (List.range 32).map (fun i => (i + 3, 0)) ++ [(35, 1), (37, 1), (39, 1), (41, 1), (43, 2), (47, 2), (51, 3), (59, 3), (67, 4), (83, 4), (99, 5)]
    ++ (List.range 10).map (fun i => (2 ^ (7 + i) + 3, 7 + i))

/-- The predefined distribution of literals length codes. -/
def llNorm : List Int :=
  [4, 3, 2, 2, 2, 2, 2, 2, 2, 2, 2, 2, 2, 1, 1, 1, 2, 2, 2, 2, 2, 2, 2, 2, 2, 3, 2, 1, 1, 1, 1, 1, -1, -1, -1, -1]

/-- The predefined distribution of match length codes. -/
def mlNorm : List Int := [1, 4, 3, 2, 2, 2, 2, 2, 2] ++ List.replicate 37 1 ++ List.replicate 7 (-1)

/-- The predefined distribution of offset codes. -/
def ofNorm : List Int := List.replicate 6 1 ++ List.replicate 3 2 ++ List.replicate 15 1 ++ List.replicate 5 (-1)

/-- The table of a mode (RFC 8878, 3.1.1.3.2.1), and the bytes behind its description. -/
def zstdTable (mode : Nat) (old : Option FseTable) (log : Nat) (norm : List Int) (maxLog most : Nat) (bs : List Byte) : Option (FseTable × List Byte) :=
  match mode with
  | 0 => some (fseTable log norm, bs)
  | 1 => match bs with
    | b :: r => if most < b.toNat then none else some (fseRle b.toNat, r)
    | [] => none
  | 2 => fseRead maxLog most bs
  | _ => old.map (fun t => (t, bs))

/-- The offset of a sequence and the repeated offsets after it (RFC 8878, 3.1.2.5). -/
def zstdOffset (value lits : Nat) (r : Nat × Nat × Nat) : Nat × Nat × Nat × Nat :=
  let (a, b, c) := r
  if 3 < value then (value - 3, value - 3, a, b)
  else match (if lits = 0 then value + 1 else value) with
    | 1 => (a, a, b, c)
    | 2 => (b, b, a, c)
    | 3 => (c, c, a, b)
    | _ => (a - 1, a - 1, a, b)

/-- A match of `n` bytes at a distance, appended: it repeats the last `off` bytes. -/
def zstdMatch (off n : Nat) (out : List Byte) : List Byte :=
  out ++ ((List.replicate (n / off + 1) (out.drop (out.length - off))).flatten).take n

/-- Sequences decoded and performed, `n` of them: the frame's content, the literals left, the repeated offsets, and the bits left. Every
offset lies within the window and the content. -/
def zstdSeqs (window : Nat) (ll of ml : FseTable) : Nat → (Nat × Nat × Nat) → List Bool → List Byte → List Byte → (Nat × Nat × Nat) →
    Option (List Byte × List Byte × (Nat × Nat × Nat) × List Bool)
  | 0, _, bits, out, lits, reps => some (out, lits, reps, bits)
  | n + 1, (sl, so, sm), bits, out, lits, reps =>
    let cl := ll.at_ sl
    let co := of.at_ so
    let cm := ml.at_ sm
    let (bl, el) := llCodes.getD cl.sym (0, 0)
    let (bm, em) := mlCodes.getD cm.sym (0, 0)
    match (takeBits co.sym bits).bind (fun (o, b1) => (takeBits em b1).bind (fun (m, b2) => (takeBits el b2).map (fun (l, b3) => (o, m, l, b3)))) with
    | none => none
    | some (o, m, l, b3) =>
      let nl := bl + l
      let (off, reps1) := zstdOffset (2 ^ co.sym + o) nl reps
      let out1 := out ++ lits.take nl
      if lits.length < nl ∨ off = 0 ∨ min window out1.length < off then none
      else
        let out2 := zstdMatch off (bm + m) out1
        if n = 0 then some (out2, lits.drop nl, reps1, b3)
        else match (takeBits cl.bits b3).bind (fun (x, r1) => (takeBits cm.bits r1).bind (fun (y, r2) => (takeBits co.bits r2).map (fun (z, r3) =>
            ((cl.base + x, co.base + z, cm.base + y), r3)))) with
          | none => none
          | some (st, b4) => zstdSeqs window ll of ml n st b4 out2 (lits.drop nl) reps1

/-- The header of a sequences section: how many there are, and the bytes behind the number. -/
def zstdCount (bs : List Byte) : Option (Nat × List Byte) :=
  match bs with
  | [] => none
  | b :: r =>
    if b.toNat < 128 then some (b.toNat, r)
    else match r with
      | [] => none
      | c :: r1 =>
        if b.toNat < 255 then some ((b.toNat - 128) * 256 + c.toNat, r1)
        else match r1 with
          | [] => none
          | d :: r2 => some (c.toNat + d.toNat * 256 + 0x7F00, r2)

/-- A compressed block performed. -/
def zstdBlock (window : Nat) (st : ZstdSt) (bs : List Byte) : Option ZstdSt :=
  match zstdLiterals st.huf bs with
  | none => none
  | some (lits, huf, r) =>
    match zstdCount r with
    | none => none
    | some (0, rest) => if rest.isEmpty then some { st with out := st.out ++ lits, huf := huf } else none
    | some (n, rest) =>
      match rest with
      | [] => none
      | m :: r1 =>
        let mode := m.toNat
        if mode % 4 ≠ 0 then none
        else match (zstdTable (mode / 64) st.ll 6 llNorm 9 35 r1).bind (fun (a, r2) =>
            (zstdTable (mode / 16 % 4) st.of 5 ofNorm 8 31 r2).bind (fun (b, r3) =>
              (zstdTable (mode / 4 % 4) st.ml 6 mlNorm 9 52 r3).map (fun (c, r4) => (a, b, c, r4)))) with
          | none => none
          | some (a, b, c, r4) =>
            match (streamBits r4).bind (fun l => (takeBits a.log l).bind (fun (x, l1) => (takeBits b.log l1).bind (fun (y, l2) =>
                (takeBits c.log l2).map (fun (z, l3) => ((x, y, z), l3))))) with
            | none => none
            | some (s0, l) =>
              match zstdSeqs window a b c n s0 l st.out lits st.reps with
              | some (out, left, reps, []) => some { out := out ++ left, reps := reps, huf := huf, ll := some a, of := some b, ml := some c }
              | _ => none

/-! Frames. -/

/-- A frame header: its length, Window_Size, Dictionary_ID, Frame_Content_Size where there is one, and whether a checksum follows. -/
structure ZstdHead where
  len : Nat
  window : Nat
  dict : Nat
  content : Option Nat
  checksum : Bool
  deriving DecidableEq, Repr

/-- The header behind the magic number of a frame; `none` where the input ends in it or its reserved bit is set. -/
def zstdHead (bs : List Byte) : Option ZstdHead :=
  let d := (bs.getD 0 0).toNat
  let single := d / 32 % 2 = 1
  let wlen := if single then 0 else 1
  let dlen := [0, 1, 2, 4].getD (d % 4) 0
  let clen := match d / 64 with
    | 0 => if single then 1 else 0
    | 1 => 2
    | 2 => 4
    | _ => 8
  let len := 1 + wlen + dlen + clen
  let rd := fun off n => leNat ((bs.drop off).take n)
  let content := if clen = 0 then none else some (rd (1 + wlen + dlen) clen + (if clen = 2 then 256 else 0))
  let w := rd 1 1
  let window := if single then content.getD 0 else 2 ^ (10 + w / 8) / 8 * (8 + w % 8)
  if bs.length < len ∨ d / 8 % 2 = 1 then none
  else some ⟨len, window, rd (1 + wlen) dlen, content, d / 4 % 2 == 1⟩

/-- The blocks of a frame from a state on: its content, what follows its last block, and whether they are well formed and within `limit`. -/
def zstdBlocks (window limit : Nat) : Nat → ZstdSt → List Byte → List Byte × Bool × List Byte
  | 0, st, bs => (st.out, false, bs)
  | fuel + 1, st, bs =>
    let h := leNat (bs.take 3)
    let size := h / 8
    let have_ := if h / 2 % 4 = 1 then 1 else size
    let body := (bs.drop 3).take have_
    let rest := bs.drop (3 + have_)
    let most := min window 131072
    let got : Option ZstdSt :=
      if bs.length < 3 + have_ ∨ most < size then none
      else match h / 2 % 4 with
        | 0 => some { st with out := st.out ++ body }
        | 1 => some { st with out := st.out ++ List.replicate size (body.getD 0 0) }
        | 2 => (zstdBlock window st body).filter (fun x => decide (x.out.length ≤ st.out.length + most))
        | _ => none
    match got with
    | none => (st.out, false, bs)
    | some x =>
      if limit < x.out.length then (st.out, false, rest)
      else if h % 2 = 1 then (x.out, true, rest)
      else zstdBlocks window limit fuel x rest

end Sys2Proof.Machine
end

