-- ==== Sys2Proof/Machine/Codecs.lean ====
section
/-! DEFINITION. What the decompression engine decodes (R267, R268): LZ4 blocks, Zstandard frames one behind another, delta-timestamp
streams. -/
namespace Sys2Proof.Machine

/-- The output of a decoder: the bytes it delivers and whether the input was well formed to its end. -/
structure CodecOut where
  out : List Byte
  good : Bool
  deriving DecidableEq, Repr

/-! LZ4 blocks. -/

/-- A length that goes on in further bytes while they are 255. -/
def lzLength : List Byte → Nat → Option (Nat × List Byte)
  | [], _ => none
  | b :: r, n => if b = 255 then lzLength r (n + 255) else some (n + b.toNat, r)

/-- A match of `n` bytes at a distance, appended. -/
def lzMatch (off : Nat) : Nat → List Byte → List Byte
  | 0, out => out
  | n + 1, out => lzMatch off n (out ++ [out.getD (out.length - off) 0])

/-- The sequences of a block (R267): every length within the input and the limit, every offset within the output. -/
def lzBlock (limit : Nat) : Nat → List Byte → List Byte → CodecOut
  | 0, _, out => ⟨out, false⟩
  | _ + 1, [], out => ⟨out, false⟩
  | fuel + 1, t :: r, out =>
    let lit := t.toNat / 16
    match if lit = 15 then lzLength r 15 else some (lit, r) with
    | none => ⟨out, false⟩
    | some (n, r1) =>
      if r1.length < n ∨ limit < out.length + n then ⟨out, false⟩
      else
        let out1 := out ++ r1.take n
        match r1.drop n with
        | [] => ⟨out1, true⟩
        | b0 :: b1 :: r2 =>
          let off := b0.toNat + 256 * b1.toNat
          let ml := t.toNat % 16
          match if ml = 15 then lzLength r2 15 else some (ml, r2) with
          | none => ⟨out1, false⟩
          | some (m, r3) =>
            if off = 0 ∨ out1.length < off ∨ limit < out1.length + m + 4 then ⟨out1, false⟩
            else if r3.isEmpty then ⟨lzMatch off (m + 4) out1, true⟩
            else lzBlock limit fuel r3 (lzMatch off (m + 4) out1)
        | _ => ⟨out1, false⟩

/-! Delta-timestamp streams (R268). -/

/-- The keys of a block from its first key on; `none` where a sum reaches 2^64. -/
def dtcKeys (area w dmin : Nat) : Nat → Nat → Nat → Option (List Nat)
  | 0, _, _ => some []
  | n + 1, i, k =>
    if 2 ^ 64 ≤ k then none
    else (dtcKeys area w dmin n (i + 1) (k + dmin + bitsOf area (i * w) w)).map (k :: ·)

/-- Keys as the engine writes them, each followed by its payload dword where there is one. -/
def dtcOut : List Nat → Option (List Byte) → List Byte
  | [], _ => []
  | k :: r, none => leBytes 8 k ++ dtcOut r none
  | k :: r, some p => leBytes 8 k ++ p.take 8 ++ dtcOut r (some (p.drop 8))

/-- The blocks of a stream; `prev` is the last key before. -/
def dtcBlocks (limit : Nat) : Nat → List Byte → Nat → List Byte → CodecOut
  | 0, _, _, out => ⟨out, false⟩
  | fuel + 1, bs, prev, out =>
    let rd := fun off n => leNat ((bs.drop off).take n)
    let base := rd 0 8
    let nm1 := rd 8 2
    let w := rd 10 1
    let flags := rd 11 1
    let dmin := rd 12 4
    let n := nm1 + 1
    let areaLen := 8 * ((nm1 * w + 63) / 64)
    let area := rd 16 areaLen
    let pay := flags / 2 % 2 = 1
    let payLen := if pay then 8 * n else 0
    let total := 16 + areaLen + payLen
    let outLen := (if pay then 16 else 8) * n
    if bs.length < total ∨ nm1 ≥ 4096 ∨ w > 64 ∨ flags ≥ 4 ∨ base < prev ∨ area / 2 ^ (nm1 * w) ≠ 0 ∨ limit < out.length + outLen then
      ⟨out, false⟩
    else match dtcKeys area w dmin n 0 base with
      | none => ⟨out, false⟩
      | some keys =>
        let out1 := out ++ dtcOut keys (if pay then some ((bs.drop (16 + areaLen)).take payLen) else none)
        let rest := bs.drop total
        if flags % 2 = 1 then ⟨out1, rest.isEmpty⟩
        else dtcBlocks limit fuel rest (keys.getLast?.getD 0) out1

/-! Zstandard frames (R267, RFC 8878). -/

/-- The frames of an input (R267): skippable ones skipped, a window above 8 MiB, a dictionary, a content size above the remaining output or a
checksum that does not match refused. -/
def zstdFrames (limit : Nat) : Nat → List Byte → List Byte → CodecOut
  | 0, _, out => ⟨out, false⟩
  | fuel + 1, bs, out =>
    let magic := leNat (bs.take 4)
    if bs.isEmpty then ⟨out, true⟩
    else if bs.length < 4 then ⟨out, false⟩
    else if magic / 16 = 0x184D2A5 then
      let n := 8 + leNat ((bs.drop 4).take 4)
      if bs.length < n then ⟨out, false⟩ else zstdFrames limit fuel (bs.drop n) out
    else if magic ≠ 0xFD2FB528 then ⟨out, false⟩
    else match zstdHead (bs.drop 4) with
      | none => ⟨out, false⟩
      | some h =>
        if 2 ^ 23 < h.window ∨ h.dict ≠ 0 ∨ h.content.any (fun n => decide (limit - out.length < n)) then ⟨out, false⟩
        else
          let (content, good, rest) := zstdBlocks h.window (limit - out.length) (bs.length + 1) {} (bs.drop (4 + h.len))
          let sum := leNat (rest.take 4)
          if !good ∨ h.content.any (fun n => n != content.length) ∨ (h.checksum ∧ (rest.length < 4 ∨ sum ≠ (xxh64 content).toNat % 2 ^ 32)) then
            ⟨out ++ content, false⟩
          else zstdFrames limit fuel (rest.drop (if h.checksum then 4 else 0)) (out ++ content)

/-- A decoder by CODEC (Table 11-2). -/
def decodeWith (codec limit : Nat) (bs : List Byte) : CodecOut :=
  match codec with
  | 0 => lzBlock limit (bs.length + 1) bs []
  | 1 => zstdFrames limit (bs.length + 1) bs []
  | _ => dtcBlocks limit (bs.length + 1) bs 0 []

end Sys2Proof.Machine
end

