-- ==== Sys2Proof/Machine/Tasks.lean ====
section
/-! DEFINITION. Active messages, tasks, barriers and signals: majors 0x38 to 0x3B (R240 to R250), ending a firing (R42, R62, R234), and
the steps of the inbox, the deque unit and barriers (R46, R50, R58, R59, R241). -/
namespace Sys2Proof.Machine

/-! Active messages. -/

/-- Whether a core may receive a message of the issuing tile (R240): same job, no stall tile, no arbor quad, and traffic passes to its die (R16, R345,
log entry 66). -/
def State.mayMessage (s : State) (target : Nat) : Bool :=
  (s.tileOf target).isSome && s.jobOf target == s.jobOf s.cur && s.privOf target == 0 && !s.isArbor (target / 4)
    && s.reaches (s.cur.1 / 1024) (target / 1024)

/-- `msend` (R240). -/
def execMsend (st : Fin 8) (t l : Fin 32) (k : Fin 16) (s : State) : Host.Outcome State Fault Refusal :=
  s.run st [.g t, .g l, .k k] [] 1 (fun s1 =>
    let x := s1.my
    let n := bitsOf (x.rg l).toNat 0 9
    let h := bitsOf (x.rg l).toNat 16 5
    let target := bitsOf (x.rg t).toNat 0 12
    let va := (x.rk k).cursor.toNat
    if h < 1 ∨ 16 < h ∨ n < 4 * h ∨ 256 < n then .raise .msgformat 0
    else if va % 4 ≠ 0 then .raise .align (BitVec.ofNat 64 va)
    else match s1.readRange (x.rk k) va n with
      | .fault s2 c v => .raiseIn s2 c (BitVec.ofNat 64 v)
      | .miss s2 => .wait .miss s2
      | .ok s2 ps _ =>
        if !s2.mayMessage target then .raiseIn s2 .perm 0
        else if 2 ≤ (s2.core s2.cur).outbox.length then .wait .resource s2
        else
          let (s3, empty) := s2.drainMine
          if !empty then .wait .resource s3
          else .regs (s3.modCore s3.cur (fun c => { c with
            outbox := c.outbox ++ [(target, ⟨s3.cur.1, h, s3.rangeBytes ps⟩)] })) [])

/-- An inbox entry freed (R59). -/
def Core.freeInbox (k : Core) (e : Fin 4) : Core :=
  { k with inbox := vset k.inbox e none, order := k.order.filter (· != e) }

/-- A handler ends (R59): k15 as it was, the entry freed, the context free. What it holds through q registers at `mhret` stays held: R234 ends
holds at `tend` and at an abort (DESIGN CHOICE: log entry 85). -/
def State.endHandler (s : State) (c : Nat) (x : Fin 4) : State :=
  match (s.ctx c x).run with
  | .handler e _ _ k15 =>
    ((s.modCtx c x (fun y => { y with run := .free, k := vset y.k 15 k15 })).modCore c (fun k => k.freeInbox e)).noteBusy (islandOfCore c)
  | _ => s

/-- `mhret` (R59, R241): ILLEGAL outside a handler. -/
def execMhret (st : Fin 8) (s : State) : Host.Outcome State Fault Refusal :=
  s.run st [] [] 1 (fun s1 => if s1.my.inHandler then .regs (s1.endHandler s1.cur s1.me) [] else .raise .illegal 0)

/-- Whether a core's inbox will take one message more than those already on their way to it (R58). -/
def Core.takesMessage (k : Core) : Bool := decide (k.net.length < ((List.finRange 4).filter (fun e => (k.inbox.get e).isNone)).length)

/-- OUTBOX_SEND (R240): the oldest whole message leaves for its core. While that core's inbox is full it waits on its way, its last beat still
in the outbox entry. -/
def execOutboxSend (core : Fin 4096) (s : State) : Host.Outcome State Fault Refusal :=
  .next (match (s.core core).outbox with
    | [] => s
    | (t, m) :: r =>
      if (s.core t).takesMessage then
        (s.modCore core (fun k => { k with outbox := r })).modCore t (fun k => { k with net := k.net ++ [m] })
      else s)

/-- A message into inbox entry `e` of a core: its bytes stand in the entry. -/
def State.fillInbox (s : State) (c : Nat) (e : Fin 4) (m : Msg) : State :=
  (s.poke (inboxBase c e) (padTo 256 m.bytes)).modCore c (fun k => { k with
    inbox := vset k.inbox e (some ⟨m.sender, m.words, m.bytes.length⟩), order := k.order ++ [e]
    steal := { k.steal with backoffEnd := none } })

/-- Whether decrements and messages reach a core: at one whose tile is being pre-empted or is pre-empted they wait (R385). -/
def State.receives (s : State) (c : Nat) : Bool := (s.quad (c / 4)).ctlState == 0

/-- ACTIVE_MESSAGE_ARRIVAL (R58, R385): the oldest message in the network enters a free entry; while none is free it waits. It resumes a halted
core (R353). -/
def execActiveMessageArrival (core : Fin 4096) (s : State) : Host.Outcome State Fault Refusal :=
  .next (match (s.core core).net, (List.finRange 4).find? (fun e => ((s.core core).inbox.get e).isNone) with
    | m :: r, some e => if s.receives core then (s.fillInbox core e m).modCore core (fun k => { k with net := r, halted := false }) else s
    | _, _ => s)

/-- Whether a core's contexts may start work: a tile runs there that is not pre-empted or being pre-empted (R63, R384). Records and
messages of a tile that is being released still run (R382). -/
def State.mayStart (s : State) (c : Nat) : Bool :=
  let q := s.quad (c / 4)
  q.tile.isSome && q.ctlState == 0 && !(s.core c).halted && s.clocked c

/-- A context that could take work: free and not stopped. -/
def State.freeCtx (s : State) (c : Nat) : Option (Fin 4) :=
  (List.finRange 4).find? (fun x => match (s.ctx c x).run with
    | .free => !(s.ctx c x).stopped
    | _ => false)

/-- A context made to run from an address: it is ready, and the core runs it when its turn comes (R56). -/
def State.startCtx (s : State) (c : Nat) (x : Fin 4) (f : Ctx → Ctx) : State :=
  s.wakeCtx c x (fun y => { f y with
    wait := .none, since := none, waited := 0, readyAt := (s.core c).clock, stopped := false, atCkpt := false, forced := false, word := none
    trapped := false })

/-- k15 of a handler (R59, R241): R over the message body of the entry at `v`. BASE has a grain of 256 bytes, so that the capability of a body
behind `words` words starts with the entry, and the accesses of the handler are held to the body besides (`outsideBody`, log entry 71); for an
empty body its length is 0. -/
def bodyCap (v words len : Nat) : Cap := mkCap permR v (if len = 4 * words then 0 else len) 0 (v + 4 * words)

/-- HANDLER_START (R58, R59, R241): the oldest message, one handler at a time. -/
def execHandlerStart (core : Fin 4096) (s : State) : Host.Outcome State Fault Refusal :=
  .next (
    let k := s.core core
    if !s.mayStart core ∨ (List.finRange 4).any (fun x => (k.ctxs.get x).inHandler) then s
    else match k.order, s.freeCtx core with
      | e :: _, some x =>
        match k.inbox.get e with
        | none => s
        | some m =>
          let v := (handlerSpan e m.words).1
          let k15 := bodyCap v m.words m.len
          s.startCtx core x (fun y => { y with
            run := .handler e m.words m.sender (y.k.get 15)
            pc := BitVec.ofNat 56 v
            g := vset (vset y.g 1 (BitVec.ofNat 64 m.sender)) 2 (BitVec.ofNat 64 (m.len - 4 * m.words))
            k := vset y.k 15 k15 })
      | _, _ => s)

/-- MESSAGE_PART_TIMEOUT (R241): a message whose link failed while it was crossing it, and of which 2^16 cycles brought no further beat, is discarded,
and MSGLOST names the sender's core: in ADDR, with SRC 7, since Table 20-5 has no field for it (DESIGN CHOICE: log
entry 91). -/
def execMessagePartTimeout (core : Fin 4096) (s : State) : Host.Outcome State Fault Refusal :=
  .next (
    let k := s.core core
    match k.parts.find? (fun m => m.cut && decide (m.beat + 2 ^ 16 ≤ k.clock)) with
    | none => s
    | some m =>
      (s.modCore core (fun k => { k with parts := k.parts.erase m })).report (.quad (core.1 / 4))
        { cause := .msglost, src := 7, addr := BitVec.ofNat 64 m.msg.sender })

/-! Tasks. -/

/-- Records that a core's deque holds at most (R48). -/
def State.dequeCap (s : State) (c : Nat) : Nat := 64 + s.ringOf c

/-- Physical address of a core's overflow ring: the upper end of its slice (R48). -/
def State.ringBase (s : State) (c : Nat) : Nat := scratchBase (c / 4) + c % 4 * 0x40000 + 0x40000 - s.ringOf c * 32

/-- Records in a core's deque. -/
def Core.dequeLen (k : Core) : Nat := k.deque.length + k.spilled

/-- A core's deque, bottom first (R48): the hardware part, then what has spilled, the oldest record at the start of the ring (log entry 35). -/
def State.dequeOf (s : State) (c : Nat) : List (BitVec 256) :=
  (s.core c).deque ++ ((List.range (s.core c).spilled).map (fun i => BitVec.ofNat 256 (leNat (s.peek (s.ringBase c + 32 * i) 32)))).reverse

/-- A core's deque replaced: the 64 records nearest the bottom in hardware, the others in the overflow ring (R48). -/
def State.setDeque (s : State) (c : Nat) (l : List (BitVec 256)) : State :=
  let older := (l.drop 64).reverse
  let s1 := if older.isEmpty then s else s.poke (s.ringBase c) (older.flatMap (fun r => leBytes 32 r.toNat))
  s1.modCore c (fun k => { k with deque := l.take 64, spilled := older.length })

/-- Whether the deque has room. -/
def State.dequeRoom (s : State) (c : Nat) : Bool := decide ((s.core c).dequeLen < s.dequeCap c)

/-- A record pushed onto the bottom of a deque; it ends a back-off (R54). -/
def State.pushBottom (s : State) (c : Nat) (r : BitVec 256) : State :=
  (s.setDeque c (r :: s.dequeOf c)).modCore c (fun k => { k with steal := { k.steal with backoffEnd := none } })

/-- A task record (Table 2-2). -/
def mkRecord (entry : Nat) (a0 a1 : Dword) (seq : BitVec 32) (home kind : Nat) (urg : Bool) (aff actor : Nat) : BitVec 256 :=
  BitVec.ofNat 256 (seq.toNat * 2 ^ 224 + home % 4096 * 2 ^ 212 + kind % 4 * 2 ^ 206 + (if urg then 2 ^ 205 else 0)
    + aff % 8 * 2 ^ 202 + actor % 64 * 2 ^ 192 + a1.toNat * 2 ^ 128 + a0.toNat * 2 ^ 64 + entry / 4 % 2 ^ 54 * 4)

/-- Whether a template's fields are allowed (R243). -/
def templateOk (t : BitVec 256) : Bool :=
  let n := t.toNat
  bitsOf n 202 3 ≤ 5 && bitsOf n 208 4 == 0 && bitsOf n 198 4 == 0 && bitsOf n 56 8 == 0 && bitsOf n 0 2 == 0

/-- The record that a template gives a task of a kind and home (R243). -/
def fromTemplate (t : BitVec 256) (home kind : Nat) : BitVec 256 :=
  mkRecord (bitsOf t.toNat 0 56) (t.extractLsb' 64 64) (t.extractLsb' 128 64) (recSeq t) home kind (recUrg t) (recAff t) 0

/-- A template read (R243), and what to do with it. -/
def State.withTemplate (s : State) (k : Fin 16) (a : Fin 32) (f : State → BitVec 256 → Res) : Res :=
  let va := s.my.memOff k a
  match s.checked s.myAccess (s.my.rk k) va 32 32 permR 0 with
  | .fault s1 c v => .raiseIn s1 c (BitVec.ofNat 64 v)
  | .miss s1 => .wait .miss s1
  | .ok s1 pa eff =>
    match s1.readAt pa 32 eff with
    | .fault c => .raiseIn s1 c (BitVec.ofNat 64 va)
    | .wait s2 => .wait .resource s2
    | .bytes s2 bs =>
      let t := BitVec.ofNat 256 (leNat bs)
      if templateOk t then f s2 t else .raiseIn s2 .taskcount 0

/-- `tinit` (R244): the block, the handle, and with count 0 the record at once. -/
def execTinit (st : Fin 8) (d a b : Fin 32) (k : Fin 16) (s : State) : Host.Outcome State Fault Refusal :=
  s.run st [.k k, .g a, .g b] [.g d] 0 (fun s1 => s1.withTemplate k a (fun s2 t =>
    let n := (s2.my.rg b).toNat
    let slice := bitsOf n 44 2
    let blk := bitsOf n 32 12
    let home := s2.cur.1 / 4 * 4 + slice
    let rec_ := fromTemplate t home 1
    if 0x40000 - s2.ringOf home * 32 < 64 * blk + 64 then .raiseIn s2 .perm 0
    else if n % 2 ^ 32 = 0 ∧ !s2.dequeRoom home then .wait .resource s2
    else
      let (s3, empty) := s2.releaseMine none
      if !empty then .wait .resource s3
      else
        let bytes := leBytes 32 rec_.toNat ++ leBytes 4 (n % 2 ^ 32) ++ List.replicate 28 0
        let s4 := s3.poke (scratchBase (s3.cur.1 / 4) + slice * 0x40000 + 64 * blk) bytes
        let s5 := if n % 2 ^ 32 = 0 then s4.pushBottom home rec_ else s4
        .vars s5 [.g d (BitVec.ofNat 64 (blk * 4096 + home))]))

/-- `tdec` (R245): after the context's stores and pushes (R47), a decrement message to the home core; PERM also where no traffic passes to its die
(log entry 66). -/
def execTdec (st : Fin 8) (a : Fin 32) (s : State) : Host.Outcome State Fault Refusal :=
  s.run st [.g a] [] 1 (fun s1 =>
    let h := s1.my.rg a
    let home := bitsOf h.toNat 0 12
    if h.toNat / 2 ^ 24 ≠ 0 ∨ (s1.tileOf home).isNone ∨ s1.jobOf home ≠ s1.jobOf s1.cur ∨ !s1.reaches (s1.cur.1 / 1024) (home / 1024) then .raise .perm 0
    else
      let (s2, empty) := s1.releaseMine none
      if empty then .regs (s2.modCore home (fun k => { k with decs := k.decs ++ [BitVec.ofNat 64 (bitsOf h.toNat 12 12)] })) []
      else .wait .resource s2)

/-- `tspawn` (R246). -/
def execTspawn (st : Fin 8) (a b : Fin 32) (k : Fin 16) (s : State) : Host.Outcome State Fault Refusal :=
  s.run st [.k k, .g a, .g b] [] 1 (fun s1 => s1.withTemplate k a (fun s2 t =>
    let home := s2.cur.1 / 4 * 4 + bitsOf (s2.my.rg b).toNat 0 2
    if !s2.dequeRoom home then .wait .resource s2
    else
      let (s3, empty) := s2.releaseMine none
      if empty then .regs (s3.pushBottom home (fromTemplate t home 2)) [] else .wait .resource s3))

/-! Ending a firing. -/

/-- The slots at the tail of the normal lane that are released or not held at all taken back, at most `n` of them. -/
def Queue.retract : Nat → Queue → Queue
  | 0, q => q
  | n + 1, q =>
    let i := q.tailN - 1
    if q.heldSlots.contains (releasedPort, i) then
      let port := (q.owners.find? (fun o => o.1 == false && o.2.1 == i)).map (·.2.2)
      Queue.retract n { q with
        tailN := i
        owners := q.owners.filter (fun o => !(o.1 == false && o.2.1 == i))
        heldSlots := q.heldSlots.filter (fun h => h.2 != i)
        prods := match port with
          | some p => listModify (fun y => if y.remote then { y with used := y.used - 1 } else y) p q.prods
          | none => q.prods }
    else q

/-- A held slot given up (R234): it is given back where no later slot of the lane is in use, becomes an item of KIND 0 and type 0x00 where
later slots have been filled, and waits for that where they are still held. -/
def State.dropSlot (s : State) (h : Hold) : State :=
  s.throughBlock h.queue (fun t => ((t.modQueue h.queue (fun q =>
    let q1 := { q with heldSlots := q.heldSlots.map (fun (x : Nat × BitVec 32) => if x.2 = h.index then (releasedPort, x.2) else x) }
    q1.retract q1.heldSlots.length)).settleReleased h.queue).hostHalf h.queue)

/-- The holds of a context ended (R234). -/
def State.endHolds (s : State) (c : Nat) (x : Fin 4) : State :=
  let o := Owner.tile (.quad (c / 4))
  let s1 := (s.ctx c x).holds.reverse.foldl (fun (st : State) h =>
    if h.producer then st.dropSlot h
    else match st.queue? h.queue, (st.queue? h.queue).bind (fun q => q.consOf o) with
      | some q, some p => st.throughBlock h.queue (fun u =>
          (u.noteKind (.quad (c / 4)) (u.contextRec c x .qformat 0) q h.urgent h.index).take h.queue p h.urgent h.index)
      | _, _ => st) s
  s1.modCtx c x (fun y => { y with holds := [] })

/-- Reserved items not popped are taken, reserved slots not filled released (R42). -/
def State.endReservations (s : State) (key : FiringKey) : State :=
  let s1 := s.queues.foldl (fun (st : State) e =>
    (e.2.items.filter (fun r => r.key = key)).foldl (fun (st : State) r => st.throughBlock e.1 (fun u =>
      ((u.noteKind (.quad key.quad) { cause := .qformat, src := 5, who := some (key.quad, key.actor) } e.2 r.urgent r.index).modQueue e.1
        (fun q => { q with items := q.items.filter (· != r) })).passSlots e.1 r.cons r.urgent r.index 1)) st) s
  let s2 := s1.queues.foldl (fun (st : State) e => st.modQueue e.1 (fun q => { q with slots := q.slots.filter (fun r => r.key ≠ key) })) s1
  { s2 with engines := s2.engines.map (fun e => (e.1, { e.2 with slots := e.2.slots.filter (fun r => r.key ≠ key) })) }

/-- The lines of consumed input tiles set empty (R42). -/
def State.emptyTiles (s : State) (quad : Nat) (l : List InTile) : State :=
  (l.filter (·.consume)).foldl (fun (st : State) t =>
    (List.range t.lines).foldl (fun (st : State) i => st.setFull (scratchBase quad + t.off + 128 * i) false) st) s

/-- The running firing or task of a context ends (R42, R234), by `tend` or by an abort (R62). -/
def State.endFiring (s : State) (c : Nat) (x : Fin 4) (abort : Bool) : State :=
  let s1 := s.endHolds c x
  let s2 := match (s.ctx c x).run with
    | .firing r =>
      let key := firingKey r
      let s2 := s1.endReservations key
      match s2.actor? key.quad key.actor with
      | none => s2
      | some a =>
        let s3 := if abort then s2 else s2.emptyTiles key.quad a.decl.tiles
        s3.modActor key.quad key.actor (fun y => { y with
          inFlight := y.inFlight - 1
          aborts := if abort ∧ y.aborts ≠ -1 then y.aborts + 1 else y.aborts })
    | _ => s1
  (s2.modCtx c x (fun y => { y with run := .free })).noteBusy (islandOfCore c)

/-- Whether a context has a repetition sequence (R203). -/
def State.hasRep (s : State) (c : Nat) (x : Fin 4) : Bool := (s.core c).rep.any (fun r => r.ctx == x)

/-- `tend` (R247). The firing ends once its stores are performed, so that the next firing of its actor, on whatever context, finds the state area
as it left it (R43, log entry 86). -/
def execTend (st : Fin 8) (s : State) : Host.Outcome State Fault Refusal :=
  s.run st [] [] 1 (fun s1 =>
    let x := s1.my
    if x.record.isNone then .raise .illegal 0
    else if !x.vars.isEmpty ∨ s1.hasRep s1.cur s1.me then .wait .resource s1
    else
      let (s2, empty) := s1.drainMine
      if empty then .regs (s2.endFiring s2.cur s2.me false) [] else .wait .resource s2)

/-! Barriers. -/

/-- The fields of a barrier object as a 128-bit number (Table 10-6): GEN, ARRIVED, COUNT, TOEXP. -/
def barFields (b : Nat) : Nat × Nat × Nat × Nat := (bitsOf b 32 32, bitsOf b 0 32, bitsOf b 64 32, bitsOf b 112 8)

/-- Whether a barrier object is well formed (R248); a reserved TOEXP counts as a reserved field. -/
def barOk (b : Nat) : Bool :=
  bitsOf b 64 32 != 0 && bitsOf b 104 3 != 7 && bitsOf b 96 8 == 0 && bitsOf b 107 5 == 0 && bitsOf b 120 8 == 0 && decide (bitsOf b 112 8 ≤ 40)

/-- The barrier object after one arrival (R249). -/
def barArrive (b : Nat) : Nat :=
  let (gen, arr, cnt, _) := barFields b
  if (arr + 1) % 2 ^ 32 = cnt then putBits (putBits b 0 32 0) 32 32 (gen + 1) else putBits b 0 32 (arr + 1)

/-- The checks of a barrier instruction on its 16 bytes (R172, R178, R248), up to the drained store buffer. Poison is met when the access is
performed, behind the context's own stores (R374). A barrier in a peer's memory raises BUSERR as one in region 0x10 does, and one in a core window
WINDOW (DEDUCED: log entry 107). -/
def State.barrierAt (s : State) (k : Cap) (va need : Nat) (kind : Fin 4) : Once :=
  match s.located s.myAccess k va 16 16 need kind with
  | .fault s1 c _ => .fault s1 c
  | .miss s1 => .wait .miss s1
  | .ok s1 pa _ =>
    if kind = 3 ∧ (regionOf pa = 3 ∨ regionOf pa = 4) then .fault s1 .buserr
    else match s1.route s1.myAccess k.hasG pa with
      | some c => .fault s1 c
      | none =>
        if (coreWindow? pa).isSome then .fault s1 .window
        else if 2 < regionOf pa then .fault s1 .buserr
        else if s1.ringBarred pa then .fault s1 .perm
        else
          let (s2, empty) := s1.drainMine
          if !empty then .wait .resource s2
          else if s2.poisoned pa 16 then .fault s2 .eccerr
          else .ok s2 pa

/-- `bar.arr` (R249). -/
def execBarArr (st : Fin 8) (d a : Fin 32) (k : Fin 16) (s : State) : Host.Outcome State Fault Refusal :=
  s.run st [.k k, .g a] [.g d] 0 (fun s1 =>
    let va := s1.my.memOff k a
    match s1.barrierAt (s1.my.rk k) va (permR + permW + permA) 3 with
    | .fault s2 c => .raiseIn s2 c (BitVec.ofNat 64 va)
    | .wait w s2 => .wait w s2
    | .ok s2 pa =>
      let b := leNat (s2.peek pa 16)
      if !barOk b then .raiseIn s2 .barformat 0
      else match s2.snoop pa 16 with
        | some s3 => .wait .resource s3
        | none => .vars (s2.writePlain pa (leBytes 16 (barArrive b))) [.g d (BitVec.ofNat 64 (barFields b).1)])

/-- Whether a barrier has passed generation `g`: its generation lies 1 to 2^31 − 1 ahead (R249). -/
def genPassed (gen : Nat) (g : BitVec 32) : Bool :=
  let diff := (BitVec.ofNat 32 gen - g : BitVec 32).toNat
  decide (1 ≤ diff ∧ diff < 2 ^ 31)

/-- `bar.wt` (R249): the timeout runs from its issue. -/
def execBarWt (st : Fin 8) (d a b : Fin 32) (k : Fin 16) (s : State) : Host.Outcome State Fault Refusal :=
  s.run st [.k k, .g a, .g b] [.g d] 0 (fun s1 =>
    let va := s1.my.memOff k a
    match s1.barrierAt (s1.my.rk k) va permR 0 with
    | .fault s2 c => .raiseIn s2 c (BitVec.ofNat 64 va)
    | .wait w s2 => .wait w s2
    | .ok s2 pa =>
      let o := leNat (s2.peek pa 16)
      let (gen, _, _, toexp) := barFields o
      let now := (s2.core s2.cur).clock
      let due := s2.my.since.getD now + 2 ^ toexp
      let want : BitVec 32 := (s2.my.rg b).setWidth 32
      if !barOk o then .raiseIn s2 .barformat 0
      else if genPassed gen want then .vars s2 [.g d (BitVec.ofNat 64 gen)]
      else if toexp ≠ 0 ∧ due ≤ now then .raiseIn s2 .barrierTimeout 0
      else .wait (.barrier (if toexp = 0 then none else some due) pa want) s2)

/-- Whether the barrier that a context waits on lets it go on now. -/
def State.barrierOpen (s : State) (pa : Nat) (g : BitVec 32) : Bool := genPassed (barFields (leNat (s.peek pa 16))).1 g

/-- BARRIER_TIMEOUT (R249): a barrier wait that its timeout ends, its generation not having passed, raises the cause at its context. -/
def execBarrierTimeout (core : Fin 4096) (ctx : Fin 4) (s : State) : Host.Outcome State Fault Refusal :=
  .next (match (s.ctx core ctx).wait with
    | .barrier (some d) pa g =>
      if d ≤ (s.core core).clock ∧ !s.barrierOpen pa g then
        (s.faultStop core ctx (s.contextRec core ctx .barrierTimeout 0) (.context core ctx)).modCtx core ctx (fun y => { y with since := none, waited := 0 })
      else s
    | _ => s)

/-! Signals (R250). -/

/-- `sig.set`: a swap. -/
def execSigSet (st : Fin 8) (d a b : Fin 32) (k : Fin 16) (s : State) : Host.Outcome State Fault Refusal := s.amo st d a b k 8

/-- `sig.add`: a fetch-and-add. -/
def execSigAdd (st : Fin 8) (d a b : Fin 32) (k : Fin 16) (s : State) : Host.Outcome State Fault Refusal := s.amo st d a b k 0

/-- `sig.wt`. -/
def execSigWt (st : Fin 8) (d a b : Fin 32) (k : Fin 16) (s : State) : Host.Outcome State Fault Refusal :=
  s.run st [.k k, .g a, .g b] [.g d] 0 (fun s1 =>
    let va := s1.my.memOff k a
    match s1.checked s1.myAccess (s1.my.rk k) va 8 8 permR 0 with
    | .fault s2 c v => .raiseIn s2 c (BitVec.ofNat 64 v)
    | .miss s2 => .wait .miss s2
    | .ok s2 pa eff =>
      match s2.readAt pa 8 eff with
      | .fault c => .raiseIn s2 c (BitVec.ofNat 64 va)
      | .wait s3 => .wait .resource s3
      | .bytes s3 bs =>
        if (s3.my.rg b).toNat ≤ leNat bs then .vars s3 [.g d (BitVec.ofNat 64 (leNat bs))] else .wait (.signal pa (s3.my.rg b)) s3)

/-- HOST_SIGNAL_POLL (R250): a signal wait reads its signal again, by issuing its instruction again (R15). -/
def execHostSignalPoll (core : Fin 4096) (ctx : Fin 4) (s : State) : Host.Outcome State Fault Refusal :=
  .next (match (s.ctx core ctx).wait with
    | .signal _ _ => s.wakeCtx core ctx (fun x => { x with wait := .none })
    | _ => s)

/-- Whether the signal that a context waits on has the value it waits for; a place that is no plain memory is read by the instruction itself. -/
def State.signalReached (s : State) (pa : Nat) (least : Dword) : Bool := !isPlain pa || decide (least ≤ s.peekD pa)

/-! Steps of the deque unit. -/

/-- TASK_DECREMENT (R46, R50, R385): the oldest decrement is applied; while the pending buffer is full, as it is behind a full deque, it is not
accepted. The record of one that finds the counter at 0 names the block by its physical address (log entry 70). -/
def execTaskDecrement (core : Fin 4096) (s : State) : Host.Outcome State Fault Refusal :=
  .next (
    let k := s.core core
    match k.decs with
    | [] => s
    | b :: r =>
      if 16 ≤ k.pending.length ∨ !s.receives core then s
      else
        let a := scratchBase (core.1 / 4) + core.1 % 4 * 0x40000 + 64 * b.toNat
        let n := leNat (s.peek (a + 32) 4)
        let s1 := s.modCore core (fun k => { k with decs := r })
        if n = 0 then s1.report (.quad (core.1 / 4)) { cause := .taskcount, src := 5, addr := BitVec.ofNat 64 a }
        else
          let s2 := s1.poke (a + 32) (leBytes 4 (n - 1))
          if n = 1 then
            let rec_ := BitVec.ofNat 256 (leNat (s.peek a 32))
            if s.dequeRoom core ∧ k.pending.isEmpty then s2.pushBottom core rec_
            else s2.modCore core (fun k => { k with pending := k.pending ++ [rec_] })
          else s2)

/-- PENDING_BUFFER_PUSH (R50). -/
def execPendingBufferPush (core : Fin 4096) (s : State) : Host.Outcome State Fault Refusal :=
  .next (match (s.core core).pending with
    | [] => s
    | p :: r => if s.dequeRoom core && s.receives core then (s.modCore core (fun k => { k with pending := r })).pushBottom core p else s)

end Sys2Proof.Machine
end

