-- ==== Sys2Proof/Machine/System.lean ====
section
/-! DEFINITION. System instructions: major 0x3F (R346 to R358) but for `graft` and `prune`, and the gating of a partition's clocks
(R354). -/
namespace Sys2Proof.Machine

/-! State registers (R346, R348). -/

/-- Least privilege to read a state register (Table 19-3). -/
def State.sregRead (s : State) (i : Nat) : Nat :=
  if i = 8 then (if (s.quad (s.cur / 4)).permits then 0 else 1)
  else if i < 0x100 then 0
  else if i = 0x202 then 2
  else 1

/-- Least privilege to write a state register; `none` where `sset` cannot (Table 19-3). -/
def sregWrite (i : Nat) : Option Nat :=
  if 1 ≤ i ∧ i ≤ 4 then some 0
  else if i = 9 ∨ i = 10 ∨ (0x100 ≤ i ∧ i ≤ 0x102) ∨ (0x110 ≤ i ∧ i ≤ 0x120) then some 1
  else if 0x130 ≤ i ∧ i ≤ 0x132 then some 2
  else none

/-- The index that IDX[9:0] and MINOR[1:0] give (Table 19-5). -/
def sregIndex (i : Fin 1024) (h : Fin 4) : Nat := h.1 * 1024 + i.1

/-- Whether a vector instruction's result of the issuing context is still to be written at its present cycle (R348); a g result that is on
its way comes from the vector unit unless it is a multiply's, of latency 3 (Table 6-3). -/
def State.vectorPending (s : State) : Bool :=
  let now := (s.core s.cur).clock
  s.my.vars.any (fun p => p.reg.isVec) || s.my.fixed.any (fun p => decide (now < p.due) && match p.write with
    | .flags _ => true
    | .v _ _ => true
    | .vlo _ _ => true
    | .m _ _ => true
    | .g _ _ => p.lat != 3
    | .k _ _ => false)

/-- The results due by the present cycle are in their registers. -/
def State.landNow (s : State) : State := s.modMy (fun x => x.land (s.core s.cur).clock)

/-- `sget` (R348); a reserved index is ILLEGAL before anything is waited for (R141, step 4). -/
def execSget (st : Fin 8) (d : Fin 32) (i : Fin 1024) (h : Fin 4) (s : State) : Host.Outcome State Fault Refusal :=
  let n := sregIndex i h
  if !regAssigned n then .next (s.atIssue.raise .illegal 0)
  else s.run st [] [.g d] 0 (fun s1 =>
    if s1.privOf s1.cur < s1.sregRead n then .raise .priv 0
    else if n = 2 ∧ s1.vectorPending then .wait .resource s1
    else
      let s2 := if n = 2 then s1.landNow else s1
      .vars s2 [.g d ((s2.stateReg s2.cur s2.me n).getD 0)])

/-- The item size that a trap queue must have (R348): an entry that names a queue of another size is not written. -/
def State.trapQueueOk (s : State) (v : Dword) : Bool :=
  match s.queue? (v.toNat % 65536) with
  | some q => q.isz == 64
  | none => true

/-- A state register written field by field (R7, R9, R348). -/
def State.ssetReg (s : State) (n : Nat) (v : Dword) : State :=
  let c := s.cur
  let x := s.me
  if n = 2 then s.modMy (fun y => { y with fpflags := y.fpflags &&& ~~~(v.setWidth 5) })
  else if n = 4 then s.modMy (fun y => { y with
    landctl := (v.setWidth 16 &&& 0xFF00) ||| (y.landctl &&& ~~~(v.setWidth 16) &&& 0x00FF) })
  else if 0x110 ≤ n ∧ n ≤ 0x11F ∧ !s.trapQueueOk v then s
  else s.putStateReg c x n v

/-- `sset` (R348), whose reserved indices are ILLEGAL likewise: it takes effect for the next instruction of the context. -/
def execSset (st : Fin 8) (g : Fin 32) (i : Fin 1024) (h : Fin 4) (s : State) : Host.Outcome State Fault Refusal :=
  let n := sregIndex i h
  if !regAssigned n then .next (s.atIssue.raise .illegal 0)
  else s.run st [.g g] [] 1 (fun s1 =>
    match sregWrite n with
      | none => .raise .priv 0
      | some p =>
        if s1.privOf s1.cur < p then .raise .priv 0
        else if n = 2 ∧ s1.vectorPending then .wait .resource s1
        else if (n = 1 ∨ n = 2 ∨ n = 3) ∧ s1.hasRep s1.cur s1.me then .wait .resource s1
        else
          let v := s1.my.rg g
          let s2 := if n = 2 then s1.landNow else s1
          .regs (s2.ssetReg n v) [])

/-! Traps (R349 to R351). -/

/-- The 64-byte item of a trap (R349). -/
def State.trapItem (s : State) (n : Nat) : List Byte :=
  let x := s.my
  ([s.ctxid s.cur s.me, BitVec.ofNat 64 (x.pc.toNat * 256 + n), x.rg 1, x.rg 2, x.rg 3, x.rg 4, x.rg 5, x.rg 6] : List Dword).flatMap dwordBytes

/-- The producer port of the issuing quad on a trap queue, and the slot's lane (R349, R350). -/
def State.trapPort (s : State) (e : BitVec 18) : Option (Nat × Queue × Nat) :=
  match s.queue? (e.toNat % 65536) with
  | none => none
  | some q => (q.prodOf s.myTile).map (fun p => (e.toNat % 65536, q, p))

/-- `trap` (R349, R350): the item is pushed after the context's stores and pushes, the trap registers receive cause, pc and 0, and the context
waits; its pc stays on the trap (R351). A queue on which the quad holds no port raises QPORT (log entry 18), one of another type TYPE (R82). -/
def execTrap (st : Fin 8) (n : Fin 32) (s : State) : Host.Outcome State Fault Refusal :=
  s.run st [.g 1, .g 2, .g 3, .g 4, .g 5, .g 6] [] 1 (fun s1 =>
    let e := (s1.quad (s1.cur.1 / 4)).trapTbl.get (Fin.ofNat 16 n.1)
    let x := s1.my
    if x.inHandler then .raise .illegal 0
    else if !e.getLsbD 16 then .raise .trapnum 0
    else match s1.trapPort e with
      | none => .raise .qport 0
      | some (id, q, p) =>
        let urg := e.getLsbD 17 && decide (q.urgSlots ≠ 0)
        if q.type ≠ 0 ∧ q.type ≠ 0x7F then .raise .type 0
        else if !q.hasRoom none p urg 1 then .wait .resource (s1.want id)
        else
          let (s2, empty) := s1.releaseMine (some (id, p, urg))
          if !empty then .wait .resource s2
          else
            .done ((s2.pushFrom (some (s2.cur.1, s2.me)) id p none urg ⟨0, 0x7F, 0, s2.trapItem n.1⟩).modMy
              (fun y => { y.setTrap .trap (x.pc.setWidth 64) 0 with wait := .trap, trapped := true })) [] [] (some x.pc))

/-- The context in a trap wait that a CTXID names. -/
def State.trapped (s : State) (a : Dword) : Option (Nat × Fin 4) :=
  let c := bitsOf a.toNat 2 12
  let x : Fin 4 := Fin.ofNat 4 a.toNat
  if s.ctxid c x = a ∧ (s.ctx c x).trapped then some (c, x) else none

/-- Whether a context of core `c` may answer for a job: a stall serves the jobs of its partition (R407). -/
def State.servesJob (s : State) (c job : Nat) : Bool := (s.job job).part == (s.die (c / 1024)).part

/-- A trap wait ends, a fault wait of the context's repetition sequence not with it: g1 receives the value, over every result that was on its way, and the context goes on behind the trap, in its saved image where it is pre-empted. -/
def State.endTrap (s : State) (c : Nat) (x : Fin 4) (v : Dword) : State :=
  let quad := c / 4
  let y := s.ctx c x
  let s1 := (s.modCore c (·.settle x)).wakeCtx c x (fun y => { y with
    g := vset y.g 1 v, pc := y.pc + 4, wait := if y.wait = .trap then .none else y.wait, trapped := false, readyAt := (s.core c).clock })
  if y.stopped then
    let h := s.saveAt quad (8 * (4 * (c % 4) + x.1))
    (s1.deviceWrite (h + 1) (leBytes 7 (y.pc + 4).toNat)).deviceWrite (s.saveAt quad (0x10000 + 0x2000 * (4 * (c % 4) + x.1)) + 8) (dwordBytes v)
  else s1

/-- `tret` (R351): a release towards the resumed context, so after the stall's own stores. -/
def execTret (st : Fin 8) (a b : Fin 32) (s : State) : Host.Outcome State Fault Refusal :=
  s.run st [.g a, .g b] [] 1 (fun s1 =>
    let h := s1.my.rg a
    let v := s1.my.rg b
    match s1.trapped h with
    | none => .raise .trapnum 0
    | some (c, x) =>
      if !s1.servesJob s1.cur (s1.jobOf c) then .raise .trapnum 0
      else
        let (s2, empty) := s1.drainMine
        if empty then .regs (s2.endTrap c x v) [] else .wait .resource s2)

/-! Checkpoints (R352). -/

/-- A context saved at a checkpoint with what its live-range entry names (R384, R386). -/
def State.saveAtCkpt (s : State) (c : Nat) (x : Fin 4) (e : Nat × Nat × Nat × List (Nat × Nat)) : State :=
  let (gm, vm, am, ranges) := e
  let s1 := s.saveCtx c x gm vm false true
  let s2 := s1.modCore c (fun k => { k with accMask := k.accMask ||| BitVec.ofNat 8 am })
  s2.modQuad (c / 4) (fun k => { k with
    savedLines := k.savedLines ++ ranges.flatMap (fun r => (List.range r.2).map (fun i => r.1 / 128 + i)) })

/-- `ckpt` (R352). -/
def execCkpt (st : Fin 8) (s : State) : Host.Outcome State Fault Refusal :=
  s.run st [] [] 1 (fun s1 =>
    let x := s1.my
    if x.inHandler then .raise .illegal 0
    else if s1.hasRep s1.cur s1.me then .wait .resource s1
    else if (s1.quad (s1.cur.1 / 4)).ctlState ≠ 1 then .regs s1 []
    else match s1.liveEntry s1.cur x.pc with
      | none => .regs s1 []
      | some e =>
        let (s2, empty) := s1.drainMine
        if !empty ∨ !x.vars.isEmpty then .wait .resource s2
        else .done (s2.saveAtCkpt s2.cur s2.me e) [] [] (some (x.pc + 4)))

/-! Firmware instructions (R353 to R355). -/

/-- `halt` (R353). -/
def execHalt (st : Fin 8) (a : Fin 32) (s : State) : Host.Outcome State Fault Refusal :=
  s.run st [.g a] [] 1 (fun s1 =>
    let n := (s1.my.rg a).toNat
    let c := n % 4096
    if n / 2 ^ 13 ≠ 0 then .raise .illegal 0
    else if !s1.reaches (s1.cur.1 / 1024) (c / 1024) then .raise .buserr 0
    else .regs (s1.modCore c (fun k => { k with halted := !n.testBit 12 })) [])

/-- The dies of a die's partition. -/
def State.partDies (s : State) (d : Nat) : List Nat := (List.range 4).filter (fun e => s.samePart d e)

/-- A freeze asked for at a core's cycle (R354); the clocks stop 16 cycles later. A request while frozen changes nothing. -/
def State.askFreeze (s : State) (d core : Nat) : State :=
  if (s.die d).frozen then s
  else (s.partDies d).foldl (fun (st : State) e =>
    st.modDie e (fun y => if y.freezeAt.isNone then { y with freezeAt := some (core, (s.core core).clock + 16) } else y)) s

/-- A thaw (R354). -/
def State.thaw (s : State) (d : Nat) : State :=
  if (s.die d).frozen then (s.partDies d).foldl (fun (st : State) e => st.modDie e (fun y => { y with frozen := false })) s else s

/-- `frz` (R354). -/
def execFrz (st : Fin 8) (a : Fin 32) (s : State) : Host.Outcome State Fault Refusal :=
  s.run st [.g a] [] 1 (fun s1 =>
    let v := s1.my.rg a
    let d := s1.cur.1 / 1024
    if v.toNat / 2 ≠ 0 then .raise .illegal 0
    else .regs (if v.getLsbD 0 then s1.thaw d else s1.askFreeze d s1.cur) [])

/-- CLOCK_GATE (R354): the clocks of the partition's islands stop in the cycle that the request set; FRZSTAT records each core's TIMER. -/
def State.gateClocks (s : State) (part : Fin 4) : State :=
  let dies := (List.range 4).filter (fun d => (s.die d).part == part)
  match dies.findSome? (fun d => (s.die d).freezeAt) with
  | none => s
  | some (core, due) =>
    if (s.core core).clock < due then s
    else (dies.foldl (fun (st : State) d => st.modDie d (fun y => { y with
      frozen := true, freezeAt := none, stop := 0, scan := s.freeCtr
      stops := s.cores.map (fun e => (e.1, (e.2.timer).setWidth 63)) })) s).tick

/-- CLOCK_GATE (R354). -/
def execClockGate (part : Fin 4) (s : State) : Host.Outcome State Fault Refusal := .next (s.gateClocks part)

/-- 64 bits of a scan chain, from bit `b` on (R355): those behind the end of the chain, or of a chain that the island lacks, are 0. -/
def scanWord (freeze die island chain b : Nat) : Dword :=
  BitVec.ofNat 64 ((List.range 64).foldl (fun n i =>
    n + (if b + i < Config.scanLength die island chain ∧ Config.scanBit freeze die island chain (b + i) then 2 ^ i else 0)) 0)

/-- `scanrd` (R355). -/
def execScanrd (st : Fin 8) (d a b : Fin 32) (s : State) : Host.Outcome State Fault Refusal :=
  s.run st [.g a, .g b] [.g d] 0 (fun s1 =>
    let n := (s1.my.rg a).toNat
    let die := s1.die (s1.cur.1 / 1024)
    if n / 2 ^ 16 ≠ 0 then .raise .illegal 0
    else if !die.frozen then .raise .notfrozen 0
    else .vars s1 [.g d (scanWord die.scan (bitsOf n 14 2) (bitsOf n 8 6) (bitsOf n 0 8) (s1.my.rg b).toNat)])

/-! Translation and minting (R357, R358). -/

/-- Whether `tlb.inv` with control `b` removes a translation or miss of a job for a span of addresses. -/
def invMatches (b : Nat) (a : Nat) (job va size : Nat) : Bool :=
  match bitsOf b 3 2 with
  | 0 => job == bitsOf b 16 16 && decide (va ≤ a ∧ a < va + size)
  | 1 => job == bitsOf b 16 16
  | _ => true

/-- The stores of the cores within a scope performed, so far as they can be. -/
def State.drainScope (s : State) (l : Nat) : State :=
  s.cores.foldl (fun (st : State) e =>
    if coresWithin l s.cur e.1 then
      (List.finRange 4).foldl (fun (st : State) x => State.drain e.1 x (st.ctx e.1 x).stores.length st) st
    else st) s

/-- Whether a store of a core within a scope is still to be performed. -/
def State.storesLeft (s : State) (l : Nat) : Bool :=
  s.cores.any (fun e => coresWithin l s.cur e.1 && (List.finRange 4).any (fun x => !(e.2.ctxs.get x).stores.isEmpty))

/-- The matching translations and misses of a scope dropped; the accesses that wait on a miss walk again (R357). -/
def State.invalidate (s : State) (l b a : Nat) : State :=
  let here := islandOfCore s.cur
  let keep := fun (x : Xlat) => !invMatches b a x.job x.va x.size
  let s1 : State := { s with
    cores := s.cores.map (fun (c, k) => (c, if coresWithin l s.cur c then { k with tlb := k.tlb.filter keep } else k))
    islands := s.islands.map (fun (p, i) => (p, if islandsWithin l here p then { i with tlb := i.tlb.filter keep } else i)) }
  s1.islands.foldl (fun (st : State) e =>
    if islandsWithin l here e.1 then
      (e.2.misses.filter (fun m => invMatches b a m.job (m.vpage * 4096) 4096)).foldl (fun (st : State) m =>
        m.clients.foldl State.wakeAgent (st.modIsland e.1 (fun i => { i with misses := i.misses.filter (· != m) }))) st
    else st) s1

/-- `tlb.inv` (R357). -/
def execTlbInv (st : Fin 8) (a b : Fin 32) (s : State) : Host.Outcome State Fault Refusal :=
  s.run st [.g a, .g b] [] 1 (fun s1 =>
    let n := (s1.my.rg b).toNat
    let l := bitsOf n 0 3
    let va := (s1.my.rg a).toNat % 2 ^ 56
    if bitsOf n 3 2 = 3 ∨ 6 ≤ l ∨ bitsOf n 5 11 ≠ 0 ∨ n / 2 ^ 32 ≠ 0 ∨ (bitsOf n 3 2 = 2 ∧ bitsOf n 16 16 ≠ 0) then .raise .illegal 0
    else
      let s2 := s1.drainScope l
      if s2.storesLeft l then .wait .resource s2 else .regs (s2.invalidate l n va) [])

/-- The value that `cap.mint` writes (R358). -/
def State.minted (s : State) (lo hi : Dword) : Cap :=
  let k : Cap := { bits := hi ++ lo, tag := false }
  let q := s.quad (s.cur.1 / 4)
  let may := k.wellFormed && (s.privOf s.cur == 2 ||
    (decide (q.mintBase.toNat ≤ k.base ∧ k.base + k.len ≤ q.mintBase.toNat + q.mintLen.toNat)
      && (BitVec.ofNat 8 k.perms &&& ~~~q.mintPerm) == 0))
  { k with tag := may }

/-- `cap.mint` (R358). -/
def execCapMint (st : Fin 8) (d : Fin 16) (a b : Fin 32) (s : State) : Host.Outcome State Fault Refusal :=
  s.run st [.g a, .g b] [.k d] 1 (fun s1 => .regs s1 [.k d (s1.minted (s1.my.rg a) (s1.my.rg b))])

end Sys2Proof.Machine
end

