-- ==== Sys2Proof/Machine/Engines.lean ====
section
/-! DEFINITION. Copy, layout and decompression engines: majors 0x3C and 0x3D (R251 to R269) and the steps of the engines. -/
namespace Sys2Proof.Machine

/-! Request images (Table 11-2). -/

/-- The fields of a request image. -/
structure EngReq where
  src : Nat
  dst : Nat
  itype : BitVec 8
  rowlen : Nat
  len : Nat
  woff : Nat
  wrows : Nat
  codec : Nat
  xop : Nat
  engq : Nat
  iw : Nat
  flash : Bool
  dq : Bool
  full : Bool
  iq : Nat
  deriving DecidableEq, Repr

/-- The fields of an image (Table 11-2). -/
def engReq (img : List Dword) : EngReq :=
  let d := fun (i lo n : Nat) => bitsOf (img.getD i 0).toNat lo n
  { src := d 0 0 56, dst := d 1 0 56, itype := BitVec.ofNat 8 (d 2 56 8), rowlen := d 2 40 16, len := d 2 0 40, woff := d 3 44 20
    wrows := d 3 32 10, codec := d 3 26 2, xop := d 3 24 2, engq := d 3 20 3, iw := d 3 19 1, flash := d 3 18 1 == 1
    dq := d 3 17 1 == 1, full := d 3 16 1 == 1, iq := d 3 0 16 }

/-- Bytes of an index (R262). -/
def EngReq.iwBytes (r : EngReq) : Nat := if r.iw = 1 then 8 else 4

/-- Whether the RSVD bits of an image are 0. -/
def engRsvdOk (img : List Dword) : Bool :=
  let d := fun (i lo n : Nat) => bitsOf (img.getD i 0).toNat lo n
  d 0 56 8 == 0 && d 1 56 8 == 0 && d 3 42 2 == 0 && d 3 28 4 == 0 && d 3 23 1 == 0

/-- Item size of a queue, where it exists. -/
def State.iszOf (s : State) (n : Nat) : Option Nat := (s.queue? n).map (·.isz)

/-- Whether an item size, where there is one, has a property. -/
def sizeOk (o : Option Nat) (p : Nat → Bool) : Bool :=
  match o with
  | some n => p n
  | none => true

/-- The reorder window lies in a quad's scratchpad and outside its overflow rings (R263). -/
def State.windowOk (s : State) (quad : Option Nat) (r : EngReq) : Bool :=
  match quad with
  | none => false
  | some q =>
    let n := (r.wrows + 1) * r.rowlen
    r.woff % 128 == 0 && decide (r.wrows < 512) && decide (r.woff + n ≤ 0x100000) &&
      (List.range (n / 32 + 1)).all (fun i => !s.inRing (scratchBase q + r.woff + min (32 * i) (n - 1)))

/-- The field rules of a request (R254, R256, R260 to R263, R267); `quad` is the issuing quad, `xop` what XOP must hold. -/
def State.engFormatOk (s : State) (op : EngOp) (img : List Dword) (xop : Nat) (quad : Option Nat) : Bool :=
  let r := engReq img
  let isz := if r.dq then s.iszOf (r.dst % 65536) else none
  let gather := op == .cpg || op == .cps
  let windowUsed := op == .cpg && (r.dq || r.full)
  engRsvdOk img && r.xop == xop
    && (!r.dq || decide (r.dst < 65536)) && (r.dq || r.itype == 0) && !(r.dq && r.full)
    && (if gather then r.rowlen % 8 == 0 && decide (8 ≤ r.rowlen ∧ r.rowlen ≤ 4096) && decide (1 ≤ r.len ∧ r.len ≤ 2 ^ 24)
          && sizeOk (s.iszOf r.iq) (fun n => decide (r.iwBytes ≤ n)) && !r.flash
        else r.rowlen == 0 && r.iw == 0)
    && (op == .dcmp || r.codec == 0)
    && (match op with
      | .cp => r.iq == 0 && sizeOk isz (fun n => r.len % n == 0)
      | .cpg => sizeOk isz (fun n => r.rowlen % n == 0)
      | .cps => !r.dq && !r.full
      | .dcmp => decide (1 ≤ r.len) && r.codec != 3 && decide (1 ≤ r.iq) && decide (r.engq ≤ 3)
      | .lay => true)
    && (if windowUsed then s.windowOk quad r else op == .cpg || (r.woff == 0 && r.wrows == 0))

/-! Layout images (Table 11-5). -/

/-- The fields of a layout image. -/
structure LayReq where
  src : Nat
  dst : Nat
  rank : Nat
  esz : Nat
  map : List Nat
  merge : List Bool
  engq : Nat
  full : Bool
  ext : List Nat
  deriving DecidableEq, Repr

/-- The fields of a layout image. -/
def layReq (img : List Dword) : LayReq :=
  let d := fun (i lo n : Nat) => bitsOf (img.getD i 0).toNat lo n
  { src := d 0 0 56, dst := d 1 0 56, rank := d 2 35 4, esz := d 2 32 3
    map := (List.range 8).map (fun i => d 2 (4 * i) 3), merge := (List.range 8).map (fun i => d 2 (4 * i + 3) 1 == 1)
    engq := d 3 20 3, full := d 3 16 1 == 1, ext := (List.range 8).map (fun a => d (4 + a / 2) (32 * (a % 2)) 24 + 1) }

/-- The reserved and out-of-range fields of a layout image (R265). -/
def layFormatOk (img : List Dword) : Bool :=
  let d := fun (i lo n : Nat) => bitsOf (img.getD i 0).toNat lo n
  let r := layReq img
  d 0 56 8 == 0 && d 1 56 8 == 0 && d 2 39 25 == 0 && decide (1 ≤ r.rank ∧ r.rank ≤ 8) && decide (r.esz ≤ 4)
    && d 3 23 41 == 0 && d 3 17 3 == 0 && d 3 0 16 == 0 && decide (r.engq ≤ 3)
    && (List.range 8).all (fun a => d (4 + a / 2) (32 * (a % 2) + 24) 8 == 0
      && (decide (a < r.rank) || d (4 + a / 2) (32 * (a % 2)) 24 == 0))

/-- Bytes of the tensor. -/
def LayReq.bytes (r : LayReq) : Nat := 2 ^ r.esz * ((r.ext.take r.rank).foldl (· * ·) 1)

/-- Whether two ranges of bytes share one. -/
def overlaps (a n b m : Nat) : Bool := decide (a < b + m ∧ b < a + n)

/-- The mapping checks (R266). -/
def LayReq.mapOk (r : LayReq) : Bool :=
  let used := r.map.take r.rank
  used.all (fun a => decide (a < r.rank)) && decide used.Nodup
    && (List.range 8).all (fun i => decide (i < r.rank) || (r.map.getD i 0 == 0 && !r.merge.getD i false))
    && !r.merge.getD 0 false
    && (List.range r.rank).all (fun i => decide (i = 0) || !r.merge.getD i false || r.map.getD i 0 == r.map.getD (i - 1) 0 + 1)
    && !overlaps r.src r.bytes r.dst r.bytes && decide (r.bytes ≤ 2 ^ 40)

/-- Place in the destination of source element number `n` (R265). -/
def LayReq.place (r : LayReq) (n : Nat) : Nat :=
  let idx := fun (a : Nat) => n / ((r.ext.take a).foldl (· * ·) 1) % r.ext.getD a 1
  ((List.range r.rank).foldl (fun (acc : Nat × Nat) dd =>
    let a := r.map.getD dd 0
    (acc.1 + idx a * acc.2, acc.2 * r.ext.getD a 1)) (0, 1)).1

/-- The destination bytes of a permuted tensor. -/
def LayReq.permute (r : LayReq) (src : List Byte) : List Byte :=
  let e := 2 ^ r.esz
  let n := r.bytes / e
  let inv := (List.range n).foldl (fun (m : List (Nat × Nat)) i => mapPut (r.place i) i m) []
  (List.range n).flatMap (fun j => (src.drop (mapGet 0 inv j * e)).take e)

/-! Checked ranges. -/

/-- Why an engine may not write a piece of a line (R49, R115, R116, R172 step 6). -/
def State.engBarred (s : State) (pa n : Nat) : Option Cause :=
  if isPlain pa then (if s.inRing pa then some .perm else none) else s.piecesBarred pa n

/-- What such a write meets when it arrives (R117). -/
def State.engRefused (s : State) (pa n : Nat) : Option Cause :=
  if isPlain pa then s.engBarred pa n else s.piecesRefused pa n

/-- What checking a range gives. -/
inductive EngChk where
  | ok (s : State) (eff : Bool)
  | fault (s : State) (c : Cause) (va : Nat)
  | miss (s : State)

/-- Steps 3 to 6 of R172 for reading a range, page by page. -/
def State.spanRead (s : State) (a : Access) (k : Cap) : Nat → Nat → Nat → Bool → EngChk
  | 0, _, _, eff => .ok s eff
  | f + 1, va, n, eff =>
    if n = 0 then .ok s eff
    else
      let m := min n (4096 - va % 4096)
      match s.checked a k va m 1 permR 0 with
      | .fault s1 c v => .fault s1 c v
      | .miss s1 => .miss s1
      | .ok s1 pa e =>
        if !isPlain pa ∧ (s1.deviceBytes pa m).isNone then .fault s1 .buserr va
        else s1.spanRead a k f (va + m) (n - m) (eff || e)

/-- Steps 3 to 6 of R172 for writing a range, line by line; `scratch` asks for a quad scratchpad throughout (FULL). -/
def State.spanWrite (s : State) (a : Access) (k : Cap) (scratch : Bool) : Nat → Nat → Nat → EngChk
  | 0, _, _ => .ok s false
  | f + 1, va, n =>
    if n = 0 then .ok s false
    else
      let m := min n (128 - va % 128)
      match s.checked a k va m 1 permW 1 with
      | .fault s1 c v => .fault s1 c v
      | .miss s1 => .miss s1
      | .ok s1 pa _ =>
        match s1.engBarred pa m with
        | some c => .fault s1 c va
        | none => if scratch ∧ !isScratch pa then .fault s1 .engformat va else s1.spanWrite a k scratch f (va + m) (n - m)

/-- A range read at issue: the capability first. -/
def State.checkRead (s : State) (a : Access) (k : Cap) (va n : Nat) : EngChk :=
  match k.check va n permR with
  | some c => .fault s c va
  | none => s.spanRead a k (n / 4096 + 2) va n false

/-- A range written at issue. -/
def State.checkWrite (s : State) (a : Access) (k : Cap) (scratch : Bool) (va n : Nat) : EngChk :=
  match k.check va n permW with
  | some c => .fault s c va
  | none => s.spanWrite a k scratch (n / 128 + 2) va n

/-- Then. -/
def EngChk.andThen (r : EngChk) (f : State → Bool → EngChk) : EngChk :=
  match r with
  | .ok s e => f s e
  | r => r

/-- The source of `cp` and `dcmp` (R261, R267): a flash mapping that must hold the whole range (PERM where it does not: log entry 21), or
memory. -/
def State.checkSource (s : State) (a : Access) (op : EngOp) (r : EngReq) (k : Cap) (out : Nat) : EngChk :=
  if r.flash then
    match k.check r.src r.len permR with
    | some c => .fault s c r.src
    | none =>
      if !k.hasF ∧ (s.job a.job).flash.any (fun f => decide (f.va ≤ r.src ∧ r.src + r.len ≤ f.va + f.len)) then .ok s false
      else .fault s .perm r.src
  else (s.checkRead a k r.src r.len).andThen (fun s1 eff =>
    if !eff then .ok s1 false
    else if op = .dcmp then .fault s1 .perm r.src
    else if r.src % 8 ≠ 0 ∨ r.len % 8 ≠ 0 ∨ r.full ∨ (!r.dq ∧ overlaps r.src r.len r.dst out) then .fault s1 .engformat 0
    else .ok s1 true)

/-- The checks of a request at issue (R256, Table 11-4), for the tile that asks. Of a `cpg`, whose rows the indices name later, only the page that
holds SRC is looked at for effectful memory (DESIGN CHOICE: log entry 108). -/
def State.engCheck (s : State) (a : Access) (op : EngOp) (img : List Dword) (src dst : Cap) (tile : TileRef) (quad : Option Nat)
    (xop : Nat) : EngChk :=
  let r := engReq img
  let l := layReq img
  let ports := fun (s1 : State) =>
    let noProd := match s1.queue? (r.dst % 65536) with
      | some q => (q.prodOf (.tile tile)).isNone
      | none => true
    let noCons := match s1.queue? r.iq with
      | some q => (q.consOf (.tile tile)).isNone
      | none => true
    if op != .lay && r.dq && noProd then EngChk.fault s1 .qport 0
    else if (op == .cpg || op == .cps) && noCons then .fault s1 .qport 0
    else .ok s1 false
  if op = .lay then
    if !layFormatOk img then .fault s .engformat 0
    else if !l.mapOk then .fault s .layout 0
    else (s.checkRead a src l.src l.bytes).andThen (fun s1 _ => s1.checkWrite a dst l.full l.dst l.bytes)
  else if !s.engFormatOk op img xop quad then .fault s .engformat 0
  else if op = .cp ∧ r.len = 0 then .ok s false
  else
    let dlen := match op with
      | .cp => r.len
      | .cpg => r.len * r.rowlen
      | _ => r.iq * 4096
    let first : EngChk := match op with
      | .cpg =>
        let eff : Bool := match s.walk a.job r.src with
          | .leaf x _ => x.effect
          | _ => false
        if src.hasF ∨ eff then .fault s .perm r.src else .ok s false
      | .cps => s.checkRead a src r.src (r.len * r.rowlen)
      | _ => s.checkSource a op r src dlen
    (first.andThen (fun s1 _ => if r.dq ∨ op = .cps then .ok s1 false else s1.checkWrite a dst r.full r.dst dlen)).andThen
      (fun s1 _ => ports s1)

/-! Issue. -/

/-- The engine queue that a request names, from its issuer's island (R252). -/
def engineQueueOf (island : Nat) (op : EngOp) (img : List Dword) : Nat :=
  let j := bitsOf (img.getD 3 0).toNat 20 3
  match op with
  | .lay => 0x8800 + 4 * stackOfIsland island + j % 4
  | .dcmp => 0x8840 + 4 * stackOfIsland island + j % 4
  | _ => 0x8000 + 8 * island + j

/-- The capability behind a register number. -/
def Ctx.rkN (x : Ctx) (k : Nat) : Cap := x.rk (Fin.ofNat 16 k)

/-- An engine instruction (R256): the context's own stores come first (R130). -/
def State.engIssue (s : State) (st : Fin 8) (d : Fin 32) (k : Fin 16) (v : Fin 32) (op : EngOp) : Host.Outcome State Fault Refusal :=
  s.run st [.v v, .k k, .k (k + 1)] [.g d] 0 (fun s1 =>
    let x := s1.my
    let img := dwordsOf (if op = .lay then 8 else 4) (leBytes 128 (x.rv v).toNat)
    let quad := s1.cur.1 / 4
    let n := engineQueueOf (islandOfCore s1.cur) op img
    match s1.engCheck s1.myAccess op img (x.rk k) (x.rkN (k.1 + 1)) (.quad quad) (some quad) 0 with
    | .fault s2 c va => .raiseIn s2 c (BitVec.ofNat 64 va)
    | .miss s2 => .wait .miss s2
    | .ok s2 _ =>
      if 32 ≤ (s2.eng n).entries.length then .wait .resource s2
      else
        let (s3, empty) := s2.drainMine
        if !empty then .wait .resource s3
        else
          let e := EngEntry.request op img (x.rk k) (x.rkN (k.1 + 1)) (.reg s3.cur s3.me d) (.quad quad) (s3.eng n).nextSeq
          .regs ((s3.modEng n (·.append e)).modMy (fun y => y.await (.g d))) [])

/-- `cp` (R255, R260). -/
def execCp (st : Fin 8) (d : Fin 32) (k : Fin 16) (v : Fin 32) (s : State) : Host.Outcome State Fault Refusal := s.engIssue st d k v .cp

/-- `cpg` (R255, R262). -/
def execCpg (st : Fin 8) (d : Fin 32) (k : Fin 16) (v : Fin 32) (s : State) : Host.Outcome State Fault Refusal := s.engIssue st d k v .cpg

/-- `cps` (R255, R262). -/
def execCps (st : Fin 8) (d : Fin 32) (k : Fin 16) (v : Fin 32) (s : State) : Host.Outcome State Fault Refusal := s.engIssue st d k v .cps

/-- `lay` (R255, R265). -/
def execLay (st : Fin 8) (d : Fin 32) (k : Fin 16) (v : Fin 32) (s : State) : Host.Outcome State Fault Refusal := s.engIssue st d k v .lay

/-- `dcmp` (R255, R267). -/
def execDcmp (st : Fin 8) (d : Fin 32) (k : Fin 16) (v : Fin 32) (s : State) : Host.Outcome State Fault Refusal := s.engIssue st d k v .dcmp

/-- The engine queue `j` of kind `e` that serves an island. -/
def engineIdOf (island e j : Nat) : Nat :=
  match e with
  | 0 => 0x8000 + 8 * island + j
  | 1 => 0x8800 + 4 * stackOfIsland island + j
  | _ => 0x8840 + 4 * stackOfIsland island + j

/-- The word of `eng.st` for engine queue `n` (Table 11-6). -/
def State.engWord (s : State) (n : Nat) : Dword :=
  let q := s.eng n
  BitVec.ofNat 64 ((if s.engineParked n then 2 ^ 41 else 0) + (if q.busy.isSome then 2 ^ 40 else 0) + q.lastErr.toNat * 2 ^ 32
    + q.nextSeq.toNat * 2 ^ 16 + q.entries.length)

/-- `eng.st` (R259). -/
def execEngSt (st : Fin 8) (d : Fin 32) (e : Fin 4) (j : Fin 8) (s : State) : Host.Outcome State Fault Refusal :=
  s.run st [] [.g d] 0 (fun s1 => .vars s1 [.g d (s1.engWord (engineIdOf (islandOfCore s1.cur) e.1 j.1))])

/-! What an engine does. -/

/-- Privilege of a tile. -/
def State.privOfTile (s : State) : TileRef → Nat
  | .quad q => s.privOf (4 * q)
  | .fabric _ => 0

/-- The island of a tile. -/
def islandOfTile : TileRef → Nat
  | .quad q => islandOfCore (4 * q)
  | .fabric f => islandOfFab (ftIsland f / 32) (ftIsland f % 32)

/-- The accesses of an engine queue for a tile. The buffer and the miss-merging entries are those of the island that it serves with the entry,
the tile's (R364, log entry 89); that is the copy engine's own. -/
def State.engAccess (s : State) (n : Nat) (t : TileRef) : Access :=
  ⟨.engine n 0, islandOfTile t, (s.tileJob t).getD 0, s.privOfTile t,
   match t with
   | .quad q => s.isArbor q
   | .fabric _ => false, none⟩

/-- The same for row `m` of a gather or scatter. -/
def Access.forRow (a : Access) (n m : Nat) : Access := { a with agent := .engine n m }

/-- What an engine's read gives: the bytes, with a cause where it stopped before the end, or the bytes read so far and a wait. -/
inductive EngGot where
  | bytes (s : State) (bs : List Byte) (stop : Option (Cause × Nat))
  | wait (s : State) (bs : List Byte)

/-- The longest run of unpoisoned bytes at an address. -/
def State.cleanRun (s : State) (pa : Nat) : Nat → Nat
  | 0 => 0
  | n + 1 => if s.poison.contains pa then 0 else 1 + s.cleanRun (pa + 1) n

/-- An engine reads a range, page by page, on from the bytes it has (R257, R374); a read that must not be effectful stops on an effectful page
(R123). A peer without a link is waited for (log entry 27). -/
def State.engRead (s : State) (a : Access) (k : Cap) (plainOnly : Bool) : Nat → Nat → Nat → List Byte → EngGot
  | 0, _, _, acc => .bytes s acc none
  | f + 1, va, n, acc =>
    if n = 0 then .bytes s acc none
    else
      let m := min n (4096 - va % 4096)
      match s.checked a k va m 1 permR 0 with
      | .fault s1 c v => .bytes s1 acc (some (c, v))
      | .miss s1 => .wait s1 acc
      | .ok s1 pa eff =>
        if plainOnly ∧ eff then .bytes s1 acc (some (.perm, va))
        else if s1.linkDown pa then .wait s1 acc
        else if isPlain pa then
          let run := s1.cleanRun pa m
          if run < m then .bytes s1 (acc ++ s1.peek pa run) (some (.eccerr, va + run))
          else s1.engRead a k plainOnly f (va + m) (n - m) (acc ++ s1.peek pa m)
        else match s1.deviceBytes pa m with
          | none => .bytes s1 acc (some (.buserr, va))
          | some bs => s1.tick.engRead a k plainOnly f (va + m) (n - m) (acc ++ bs)

/-- The longest run of unpoisoned bytes that ends before an address. -/
def State.cleanRunDown (s : State) (pa : Nat) : Nat → Nat
  | 0 => 0
  | n + 1 => if s.poison.contains (pa + n) then 0 else 1 + s.cleanRunDown pa n

/-- An engine reads a range in decreasing order, page by page (R260); `acc` holds the bytes above. -/
def State.engReadDown (s : State) (a : Access) (k : Cap) : Nat → Nat → Nat → List Byte → EngGot
  | 0, _, _, acc => .bytes s acc none
  | f + 1, va, n, acc =>
    if n = 0 then .bytes s acc none
    else
      let m := min n ((va + n + 4095) % 4096 + 1)
      let at_ := va + n - m
      match s.checked a k at_ m 1 permR 0 with
      | .fault s1 c v => .bytes s1 acc (some (c, v))
      | .miss s1 => .wait s1 acc
      | .ok s1 pa _ =>
        if s1.linkDown pa then .wait s1 acc
        else
        let run := if isPlain pa then s1.cleanRunDown pa m else m
        let bs := if isPlain pa then s1.peek pa m else (s1.deviceBytes pa m).getD (List.replicate m 0)
        if run < m then .bytes s1 (bs.drop (m - run) ++ acc) (some (.eccerr, at_ + m - 1 - run))
        else s1.engReadDown a k f va (n - m) (bs ++ acc)

/-- Granules of a source range whose tags a copy keeps (R120), as offsets of the range. -/
def State.tagOffsets (s : State) (a : Access) (src dst : Cap) (from_ to_ n : Nat) : List Nat :=
  if src.perms &&& permL = permL ∧ dst.perms &&& permS = permS ∧ from_ % 16 = to_ % 16 then
    (List.range (n / 16 + 1)).filterMap (fun i =>
      let o := (16 - from_ % 16) % 16 + 16 * i
      if o + 16 ≤ n ∧ s.tagAt (s.paOf a (from_ + o)) then some o else none)
  else []

/-- One piece of a line written: plain memory, a landing register, or registers. -/
def State.engPut (s : State) (n pa : Nat) (bs : List Byte) : State :=
  if isPlain pa then s.writePlain pa bs else s.putPieces (.engine n) pa bs

/-- Why a write of an engine stops before its end. -/
inductive EngStop where
  | none
  | wait
  | fault (c : Cause) (va : Nat)
  deriving DecidableEq, Repr

/-- One piece of a line that an engine writes (R116, R117, R257, R396): the state, and why it was not written. -/
def State.engPiece (s : State) (a : Access) (n : Nat) (k : Cap) (va : Nat) (bs : List Byte) : State × EngStop :=
  match s.checked a k va bs.length 1 permW 1 with
  | .fault s1 c v => (s1, .fault c v)
  | .miss s1 => (s1, .wait)
  | .ok s1 pa _ =>
    match s1.engRefused pa bs.length with
    | some c => (s1, .fault c va)
    | none =>
      if s1.linkDown pa ∨ (!isPlain pa ∧ s1.piecesHeld pa bs.length) then (s1, .wait)
      else match s1.snoop pa bs.length with
        | some s2 => (s2, .wait)
        | none => (s1.engPut n pa bs, .none)

/-- An engine writes bytes, line by line, as far as it can; how many it has written, and why it stopped. -/
def State.engWrite (s : State) (a : Access) (n : Nat) (k : Cap) : Nat → Nat → List Byte → Nat → State × Nat × EngStop
  | 0, _, _, w => (s, w, .none)
  | f + 1, va, bs, w =>
    if bs.isEmpty then (s, w, .none)
    else
      let m := min bs.length (128 - va % 128)
      match s.engPiece a n k va (bs.take m) with
      | (s1, .none) => s1.engWrite a n k f (va + m) (bs.drop m) (w + m)
      | (s1, r) => (s1, w, r)

/-- The same from the end of the bytes down (R260). -/
def State.engWriteDown (s : State) (a : Access) (n : Nat) (k : Cap) : Nat → Nat → List Byte → Nat → State × Nat × EngStop
  | 0, _, _, w => (s, w, .none)
  | f + 1, va, bs, w =>
    if bs.isEmpty then (s, w, .none)
    else
      let m := min bs.length ((va + bs.length + 127) % 128 + 1)
      let rest := bs.length - m
      match s.engPiece a n k (va + rest) (bs.drop rest) with
      | (s1, .none) => s1.engWriteDown a n k f va (bs.take rest) (w + m)
      | (s1, r) => (s1, w, r)

/-- How far an engine's write could go now: the bytes before the first fault, with the state in which the checks of the faulting line leave the
page table (R363), or the whole. -/
def State.engReach (s : State) (a : Access) (k : Cap) : Nat → Nat → Nat → Nat → Nat × Option (State × Cause × Nat)
  | 0, _, _, w => (w, none)
  | f + 1, va, n, w =>
    if n = 0 then (w, none)
    else
      let m := min n (128 - va % 128)
      match s.checked a k va m 1 permW 1 with
      | .fault s1 c v => (w, some (s1, c, v))
      | .miss _ => (w + n, none)
      | .ok s1 pa _ =>
        match s1.engBarred pa m with
        | some c => (w, some (s1, c, va))
        | none => s.engReach a k f (va + m) (n - m) (w + m)

/-- The same from the end of the range down. -/
def State.engReachDown (s : State) (a : Access) (k : Cap) : Nat → Nat → Nat → Nat → Nat × Option (State × Cause × Nat)
  | 0, _, _, w => (w, none)
  | f + 1, va, n, w =>
    if n = 0 then (w, none)
    else
      let m := min n ((va + n + 127) % 128 + 1)
      let at_ := va + n - m
      match s.checked a k at_ m 1 permW 1 with
      | .fault s1 c v => (w, some (s1, c, v))
      | .miss _ => (w + n, none)
      | .ok s1 pa _ =>
        match s1.engBarred pa m with
        | some c => (w, some (s1, c, at_))
        | none => s.engReachDown a k f va (n - m) (w + m)

/-- The state with what an engine has begun replaced. -/
def State.setBusy (s : State) (n : Nat) (b : EngBusy) : State := s.modEng n (fun q => { q with busy := some b })

/-- What an entry that stops on a fault delivers: a number of bytes that the spec bounds and leaves open (R260, log entry 3). -/
def State.freeRun (s : State) (bound : Nat) : Nat := Config.freeNat s.freeCtr % (bound + 1)

/-- Where a source stops an entry: the bytes before it in copy order, whether they are delivered exactly, cause and address. -/
structure SrcStop where
  good : Nat
  exact : Bool
  cause : Cause
  va : Nat

/-- Data ready for delivery: how much of it is delivered where the source or the destination stops the entry (R257, R260). `dst` is
the destination range where there is one. -/
def State.engReady (s : State) (n : Nat) (a : Access) (b : EngBusy) (data : List Byte) (down : Bool) (tags : List Nat)
    (src : Option SrcStop) (dst : Option (Cap × Nat)) : State :=
  let total := data.length
  let reach : Nat × Option (State × Cause × Nat) := match dst with
    | some (k, va) => if down then s.engReachDown a k (total / 128 + 2) va total 0 else s.engReach a k (total / 128 + 2) va total 0
    | none => (total, none)
  let good := match src with
    | some x => x.good
    | none => total
  let ready := { b with data := some data, down := down, tags := tags }
  match reach.2 with
  | some (s1, c, v) =>
    if reach.1 < good ∨ src.isNone then
      (s1.tick).setBusy n { ready with limit := s.freeRun reach.1, err := code8 c, addr := v }
    else match src with
      | some x => (s.tick).setBusy n { ready with limit := if x.exact then x.good else s.freeRun x.good, err := code8 x.cause, addr := x.va }
      | none => s
  | none =>
    match src with
    | some x => (s.tick).setBusy n { ready with limit := if x.exact then x.good else s.freeRun x.good, err := code8 x.cause, addr := x.va }
    | none => s.setBusy n { ready with limit := total }

/-- Lines of [dst, dst + total) whose bytes all lie in the offsets [lo, hi) and did not all lie in [lo0, hi0) set full, in increasing order
(R260): each line once. -/
def State.fullLines (s : State) (a : Access) (dst total lo0 hi0 lo hi : Nat) : State :=
  (List.range ((dst + total) / 128 + 1 - dst / 128)).foldl (fun (st : State) i =>
    let line := (dst / 128 + i) * 128
    let first := max dst line
    let last := min (dst + total) (line + 128)
    let within := fun (x y : Nat) => decide (dst + x ≤ first ∧ last ≤ dst + y)
    if first < last ∧ within lo hi ∧ !within lo0 hi0 then st.setFull (s.paOf a first) true else st) s

/-- The tags of granules, given by their offsets in a destination, that lie in the offsets [lo, hi) set (R120). -/
def State.moveTags (s : State) (a : Access) (dst : Nat) (offs : List Nat) (lo hi : Nat) : State :=
  (offs.filter (fun o => decide (lo ≤ o ∧ o + 16 ≤ hi))).foldl (fun (st : State) o => st.setTag (st.paOf a (dst + o)) true) s

/-- Items pushed by an engine on a tile's port, as many as there are slots for, at most `n`; how many bytes of the entry they carry. -/
def State.engPush (id : Nat) (t : TileRef) (type : BitVec 8) : Nat → State → List Byte → Nat → State × Nat × EngStop
  | 0, s, _, w => (s, w, .none)
  | n + 1, s, bs, w =>
    if bs.isEmpty then (s, w, .none)
    else match s.queue? id with
      | none => (s, w, .fault .qport 0)
      | some q =>
        match q.prodOf (.tile t) with
        | none => (s, w, .fault .qport 0)
        | some p =>
          if q.type ≠ 0 ∧ type ≠ q.type then (s, w, .fault .type 0)
          else if !q.hasRoom none p false 1 then (s.want id, w, .wait)
          else State.engPush id t type n (s.push id p none false ⟨0, type, 0, padTo q.isz (bs.take q.isz)⟩) (bs.drop q.isz) (w + min q.isz bs.length)

/-- A queue that an engine has pushed into, with a port (R253): each queue stands there once. -/
def State.noteDest (s : State) (n id : Nat) (t : TileRef) : State :=
  match (s.queue? id).bind (fun q => q.prodOf (.tile t)) with
  | some p => s.modEng n (fun q => if q.dests.any (fun d => d.1 == id) then q else { q with dests := q.dests ++ [(id, p)] })
  | none => s

/-- Where the data of an entry go: a queue through a tile's port, with the type of the items and whether a last part of an item is pushed,
padded (R267, R268), or memory through a capability, with FULL and whether more bytes were to follow the data. -/
inductive EngDest where
  | queue (id : Nat) (t : TileRef) (type : BitVec 8) (pad : Bool)
  | memory (k : Cap) (dst : Nat) (full more : Bool)

/-- Data delivered to its destination, as far as that goes now (R260, R265, R267): upwards, or downwards where the ranges overlap so. The lines
of a copy downwards are set full once it is over, in increasing order; the line in which an entry stops is not set full. -/
def State.engDeliver (s : State) (n : Nat) (a : Access) (b : EngBusy) (d : EngDest) : State :=
  let data := b.data.getD []
  let total := data.length
  match d with
  | .queue id t type pad =>
    let isz := (s.iszOf id).getD 8
    let lim := if b.err = 0 then total else if pad then b.limit else b.limit / isz * isz
    let rest := (data.take lim).drop b.done
    let (s1, w, stop) := State.engPush id t type (rest.length + 1) s rest 0
    let s2 := if w = 0 then s1 else s1.noteDest n id t
    let b1 := { b with done := b.done + w, limit := lim }
    s2.setBusy n (match stop with
      | .fault c v => { b1 with limit := b1.done, err := code8 c, addr := v }
      | _ => b1)
  | .memory k dst full more =>
    let from_ := if b.down then total - b.limit else b.done
    let rest := (data.drop from_).take (b.limit - b.done)
    let (s1, w, stop) :=
      if b.down then s.engWriteDown a n k (rest.length / 128 + 2) (dst + from_) rest 0
      else s.engWrite a n k (rest.length / 128 + 2) (dst + from_) rest 0
    let done := b.done + w
    let lo := if b.down then total - done else b.done
    let s2 := s1.moveTags a dst b.tags lo (lo + w)
    let b1 := match stop with
      | .fault c v => { b with done := done, limit := done, err := code8 c, addr := v }
      | _ => { b with done := done }
    let s3 :=
      if !full then s2
      else if b.down then (if done = b1.limit then s2.fullLines a dst total 0 0 (total - done) total else s2)
      else s2.fullLines a dst (if more then total + 128 else total) 0 b.done 0 done
    s3.setBusy n b1

/-! Gather and scatter. -/

/-- Indices in an item (R262). -/
def indicesOf (w : Nat) : Nat → List Byte → List Nat
  | 0, _ => []
  | n + 1, bs => leNat (bs.take w) :: indicesOf w n (bs.drop w)

/-- Items taken from the index queue until all indices are there, at most `n` items (R57, R73); a marker or a wait entry holds the engine. -/
def State.engIndices (s : State) (n : Nat) (r : EngReq) (t : TileRef) (seq : BitVec 16) : Nat → State
  | 0 => s
  | f + 1 =>
    match (s.eng n).busy, s.queue? r.iq with
    | some b, some q =>
      if r.len ≤ b.indices.length then s
      else match q.consOf (.tile t) with
        | none => s
        | some c =>
          match s.candidate q c none with
          | .item u i =>
            let got := indicesOf r.iwBytes (q.isz / r.iwBytes) (s.itemAt q u i)
            let s1 := s.noteKind t { cause := .qformat, src := 3, aux := seq.toNat, place := BitVec.ofNat 64 n } q u i
            ((s1.take r.iq c u i).setBusy n { b with indices := (b.indices ++ got).take r.len }).engIndices n r t seq f
          | _ => (s.noteEmpty r.iq c).want r.iq
    | _, _ => s

/-- Rows that count: those before the row that stopped the entry. -/
def EngBusy.rows (b : EngBusy) (r : EngReq) : Nat := if b.err = 0 then r.len else b.limit

/-- Row `m` stops the entry with a cause (R262): the rows before it are still moved. -/
def EngBusy.stopAt (b : EngBusy) (m : Nat) (c : Cause) (va : Nat) (rows : Nat) : EngBusy :=
  if m < (if b.err = 0 then rows else b.limit) then { b with err := code8 c, addr := va, limit := m } else b

/-- Address of a row (R262): wrapping modulo 2^56. -/
def rowAddr (base m rowlen : Nat) : Nat := (base + m * rowlen) % 2 ^ 56

/-- Whether the rows of a gather go through the reorder window (R263). -/
def EngReq.windowed (r : EngReq) : Bool := r.dq || r.full

/-- Where row `m` stands in the reorder window. -/
def EngReq.slotAt (r : EngReq) (quad m : Nat) : Nat := scratchBase quad + r.woff + m % (r.wrows + 1) * r.rowlen

/-- The quad whose scratchpad holds a request's window (R263). For an element's request that is the quad whose call is in progress, quad 0 where none is
(DESIGN CHOICE: log entry 109). -/
def State.windowQuad (s : State) : TileRef → Nat
  | .quad q => q
  | .fabric f => match (mapFind s.fabrics f).bind (·.call) with
    | some c => match c.caller with
      | .quad q => q
      | .fabric _ => 0
    | none => 0

/-- A row of a gather read, and placed in the window or written (R262, R263); a write that is held goes on later where it stopped. -/
def State.rowReturn (s : State) (n m : Nat) (r : EngReq) (src dst : Cap) (t : TileRef) (b : EngBusy) : State :=
  let a := (s.engAccess n t).forRow n m
  if b.rows r ≤ m ∨ b.indices.length ≤ m ∨ b.returned.contains m ∨ (r.windowed ∧ b.retired + r.wrows < m) then s
  else
    let va := rowAddr r.src (b.indices.getD m 0) r.rowlen
    let off := m * r.rowlen
    match src.check va r.rowlen permR with
    | some c => s.setBusy n (b.stopAt m c va r.len)
    | none =>
      match s.engRead a src true (r.rowlen / 4096 + 2) va r.rowlen [] with
      | .wait s1 _ => s1
      | .bytes s1 _ (some (c, v)) => s1.setBusy n (b.stopAt m c v r.len)
      | .bytes s1 bs none =>
        let tags := if r.dq then [] else (s1.tagOffsets a src dst va (r.dst + off) r.rowlen).map (· + off)
        let b1 := { b with tags := b.tags.filter (fun o => decide (o < off ∨ off + r.rowlen ≤ o)) ++ tags }
        if r.windowed then (s1.writePlain (r.slotAt (s.windowQuad t) m) bs).setBusy n { b1 with returned := setAdd m b.returned }
        else
          let k := mapGet 0 b.begun m
          let (s2, w, stop) := s1.engWrite a n dst (r.rowlen / 128 + 2) (r.dst + off + k) (bs.drop k) 0
          let s3 := s2.moveTags a r.dst b1.tags (off + k) (off + k + w)
          match stop with
          | .none => s3.setBusy n { b1 with returned := setAdd m b.returned }
          | .wait => s3.setBusy n { b1 with begun := mapPut m (k + w) b.begun }
          | .fault c v => s3.setBusy n (b1.stopAt m c v r.len)

/-- Rows retired from the window in index order (R263), at most `f`. -/
def State.retireRows (s : State) (n : Nat) (r : EngReq) (dst : Cap) (t : TileRef) : Nat → State
  | 0 => s
  | f + 1 =>
    match (s.eng n).busy with
    | none => s
    | some b =>
      let m := b.retired
      if !b.returned.contains m ∨ b.rows r ≤ m then s
      else
        let bs := s.peek (r.slotAt (s.windowQuad t) m) r.rowlen
        let a := (s.engAccess n t).forRow n m
        let at_ := m * r.rowlen + b.done
        let (s1, w, stop) : State × Nat × EngStop :=
          if r.dq then State.engPush (r.dst % 65536) t r.itype (bs.length + 1) s (bs.drop b.done) 0
          else s.engWrite a n dst (r.rowlen / 128 + 2) (r.dst + at_) (bs.drop b.done) 0
        let s2 := if r.dq then (if w = 0 then s1 else s1.noteDest n (r.dst % 65536) t) else s1.moveTags a r.dst b.tags at_ (at_ + w)
        match stop with
        | .fault c v => s2.setBusy n (b.stopAt m c v r.len)
        | .wait => s2.setBusy n { b with done := b.done + w }
        | .none =>
          let s3 := if r.full then s2.fullLines a r.dst (r.len * r.rowlen) 0 (m * r.rowlen) 0 ((m + 1) * r.rowlen) else s2
          (s3.setBusy n { b with retired := m + 1, done := 0 }).retireRows n r dst t f

/-- Rows of a scatter, in increasing index (R262, R263), at most `f`. A row is read once, whatever holds its write up (R123). -/
def State.scatterRows (s : State) (n : Nat) (r : EngReq) (src dst : Cap) (t : TileRef) : Nat → State
  | 0 => s
  | f + 1 =>
    match (s.eng n).busy with
    | none => s
    | some b =>
      let m := b.retired
      if b.indices.length ≤ m ∨ b.rows r ≤ m then s
      else
        let a := (s.engAccess n t).forRow n m
        let from_ := r.src + m * r.rowlen
        let va := rowAddr r.dst (b.indices.getD m 0) r.rowlen
        match s.engRead a src false (r.rowlen / 4096 + 2) (from_ + b.part.length) (r.rowlen - b.part.length) b.part with
        | .wait s1 bs => s1.setBusy n { b with part := bs }
        | .bytes s1 _ (some (c, v)) => s1.setBusy n (b.stopAt m c v r.len)
        | .bytes s1 bs none =>
          match dst.check va r.rowlen permW with
          | some c => s1.setBusy n (b.stopAt m c va r.len)
          | none =>
            let (s2, w, stop) := s1.engWrite a n dst (r.rowlen / 128 + 2) (va + b.done) (bs.drop b.done) 0
            let s3 := s2.moveTags a va (s1.tagOffsets a src dst from_ va r.rowlen) b.done (b.done + w)
            match stop with
            | .none => (s3.setBusy n { b with retired := m + 1, done := 0, part := [] }).scatterRows n r src dst t f
            | .wait => s3.setBusy n { b with done := b.done + w, part := bs }
            | .fault c v => s3.setBusy n (b.stopAt m c v r.len)

/-! Progress. -/

/-- Decompressed data ready for delivery (R267, R268): how far a stream that is not well formed has been delivered is exact for the
delta-timestamp codec alone. -/
def State.engDecoded (s : State) (n : Nat) (a : Access) (b : EngBusy) (r : EngReq) (bs : List Byte) (dst : Cap) : State :=
  let o := decodeWith r.codec (r.iq * 4096) bs
  s.engReady n a b o.out false [] (if o.good then none else some ⟨o.out.length, r.codec == 2, .dcmpdata, 0⟩)
    (if r.dq then none else some (dst, r.dst))

/-- The source of an entry gathered (R260, R261, R265, R267), where it is there to be read; what has been read stays read (R123). -/
def State.engGather (s : State) (n : Nat) (op : EngOp) (img : List Dword) (src dst : Cap) (t : TileRef) (b : EngBusy) : State :=
  let a := s.engAccess n t
  let r := engReq img
  match op with
  | .cp =>
    if r.flash then s
    else
      let down := !r.dq && decide (r.src < r.dst ∧ r.dst < r.src + r.len)
      let tags := if r.dq then [] else s.tagOffsets a src dst r.src r.dst r.len
      let have_ := b.part.length
      match if down then s.engReadDown a src (r.len / 4096 + 2) r.src (r.len - have_) b.part
        else s.engRead a src false (r.len / 4096 + 2) (r.src + have_) (r.len - have_) b.part with
      | .wait s1 bs => s1.setBusy n { b with part := bs }
      | .bytes s1 bs stop =>
        let data := if down then List.replicate (r.len - bs.length) 0 ++ bs else padTo r.len bs
        s1.engReady n a b data down tags (stop.map (fun x => ⟨bs.length, false, x.1, x.2⟩)) (if r.dq then none else some (dst, r.dst))
  | .lay =>
    let l := layReq img
    match s.engRead a src false (l.bytes / 4096 + 2) (l.src + b.part.length) (l.bytes - b.part.length) b.part with
    | .wait s1 bs => s1.setBusy n { b with part := bs }
    | .bytes s1 bs none => s1.engReady n a b (l.permute bs) false [] none (some (dst, l.dst))
    | .bytes s1 _ (some f) => s1.engReady n a b [] false [] (some ⟨0, true, f.1, f.2⟩) none
  | .dcmp =>
    if r.flash then s
    else match s.engRead a src false (r.len / 4096 + 2) (r.src + b.part.length) (r.len - b.part.length) b.part with
      | .wait s1 bs => s1.setBusy n { b with part := bs }
      | .bytes s1 _ (some f) => s1.engReady n a b [] false [] (some ⟨0, true, f.1, f.2⟩) none
      | .bytes s1 bs none => s1.engDecoded n a b r bs dst
  | _ => s

/-- Whether an entry has nothing left to do. -/
def EngBusy.over (b : EngBusy) (op : EngOp) (img : List Dword) : Bool :=
  let r := engReq img
  match op with
  | .cpg => if r.windowed then decide (b.rows r ≤ b.retired) else (List.range (b.rows r)).all (fun m => b.returned.contains m)
  | .cps => decide (b.rows r ≤ b.retired)
  | _ => b.data.isSome && decide (b.limit ≤ b.done)

/-- The count that the status word carries (Table 11-4). -/
def EngBusy.count (b : EngBusy) (op : EngOp) (img : List Dword) : Nat :=
  match op with
  | .cpg => b.rows (engReq img)
  | .cps => b.rows (engReq img)
  | _ => b.done

/-- One advance of the entry at the head of an engine queue. -/
def State.engAdvance (s : State) (n : Nat) : State :=
  match (s.eng n).entries, (s.eng n).busy with
  | .request op img src dst _ t seq :: _, some b =>
    let r := engReq img
    match op with
    | .cpg =>
      let s1 := s.engIndices n r t seq (r.len + 1)
      if r.windowed then s1.retireRows n r dst t (r.len + 1) else s1
    | .cps => (s.engIndices n r t seq (r.len + 1)).scatterRows n r src dst t (r.len + 1)
    | _ =>
      let s1 := if b.data.isSome then s else s.engGather n op img src dst t b
      match (s1.eng n).busy with
      | some b1 =>
        if b1.data.isNone then s1
        else
          let a := s1.engAccess n t
          let l := layReq img
          s1.engDeliver n a b1 (
            if op = .lay then .memory dst l.dst l.full false
            else if r.dq then .queue (r.dst % 65536) t r.itype (op == .dcmp && r.codec == 2)
            else .memory dst r.dst r.full (op == .dcmp && b1.err != 0))
      | none => s1
  | _, _ => s

/-- An engine status word (Table 6-4). -/
def statusWord (done : Nat) (err : BitVec 8) (seq : BitVec 16) : Dword :=
  BitVec.ofNat 64 (min done (2 ^ 40 - 1) * 2 ^ 24 + err.toNat * 2 ^ 16 + seq.toNat)

/-- A status word handed to where it goes (R146, R264): a g register, or an element's transfer port. -/
def State.giveStatus (s : State) (to_ : StatusTo) (seq : BitVec 16) (w : Dword) : State :=
  match to_ with
  | .reg c x r => if r.1 = 0 then s else s.sendStatus c x r w
  | .element e x n => s.modElement e (fun y =>
      let cx := y.ctxs.get x
      { y with ctxs := vset y.ctxs x { cx with statuses := cx.statuses.map (fun p =>
          if p.queue = n ∧ p.seq = seq then { p with word := some w } else p) } })

/-- Whether a status word has nowhere to go (R257). -/
def StatusTo.nowhere : StatusTo → Bool
  | .reg _ _ r => r.1 == 0
  | .element _ _ _ => false

/-- An engine has begun or performed an entry: the watchdog of its partition starts anew (R381). -/
def State.noteWork (s : State) (n : Nat) : State :=
  { s.noteBusy (engineIsland n) with quietSince := vset s.quietSince (s.die (dieOfIsland (engineIsland n))).part s.micros }

/-- The entry at the head ends (R130, R146, R257). -/
def State.engEnd (s : State) (n : Nat) : State :=
  match (s.eng n).entries, (s.eng n).busy with
  | .request op img _ _ to_ t seq :: rest, some b =>
    let s1 := ((s.modEng n (fun q => { q with entries := rest, busy := none, lastErr := b.err })).noteWork n).dropEngine (s.engAccess n t).island n
    let s2 := s1.giveStatus to_ seq (statusWord (b.count op img) b.err seq)
    if to_.nowhere ∧ b.err ≠ 0 then
      s2.report t { cause := (causeOfCode b.err.toNat).getD .engformat, src := 3, imp := true, aux := seq.toNat
                    addr := BitVec.ofNat 64 b.addr, place := BitVec.ofNat 64 n }
    else s2
  | _, _ => s

/-! Steps of an engine. -/

/-- ENGINE_ENTRY_BEGIN (R256): the engine begins the entry at the head. -/
def execEngineEntryBegin (q : Nat) (s : State) : Host.Outcome State Fault Refusal :=
  .next (match (s.eng q).entries, (s.eng q).busy with
    | .request _ _ _ _ _ _ _ :: _, none => (s.setBusy q {}).noteWork q
    | _, _ => s)

/-- ENGINE_ENTRY_PERFORMED (R130, R257): the begun entry goes on as far as it can, and ends when nothing of it is left. -/
def execEngineEntryPerformed (q : Nat) (s : State) : Host.Outcome State Fault Refusal :=
  .next (
    let s1 := s.engAdvance q
    match (s1.eng q).entries, (s1.eng q).busy with
    | .request op img _ _ _ _ _ :: _, some b => if b.over op img then s1.engEnd q else s1
    | _, _ => s1)

/-- GATHER_ROW_RETURN (R263): a row of the gather comes back, and rows are retired in index order. -/
def execGatherRowReturn (q row : Nat) (s : State) : Host.Outcome State Fault Refusal :=
  .next (match (s.eng q).entries with
    | .request .cpg img src dst _ t seq :: _ =>
      let r := engReq img
      let s1 := s.engIndices q r t seq (r.len + 1)
      match (s1.eng q).busy with
      | some b =>
        let s2 := s1.rowReturn q row r src dst t b
        if r.windowed then s2.retireRows q r dst t (r.len + 1) else s2
      | none => s1
    | _ => s)

/-- ENGINE_MARKER (R253): the marker at the head goes into every queue that the engine has pushed into since the last one. -/
def execEngineMarker (q : Nat) (s : State) : Host.Outcome State Fault Refusal :=
  .next (match (s.eng q).entries with
    | .marker m :: rest =>
      let dests := (s.eng q).dests.filter (fun d => (s.queue? d.1).isSome)
      if dests.all (fun d => match s.queue? d.1 with
          | some x => x.hasRoom none d.2 false 1
          | none => true) then
        dests.foldl (fun (st : State) d => st.push d.1 d.2 none false ⟨1, 0, m, []⟩)
          ((s.modEng q (fun x => { x with entries := rest, dests := [] })).noteBusy (engineIsland q))
      else dests.foldl (fun (st : State) d => st.want d.1) s
    | _ => s)

/-- Rows of a gather or scatter that are moved, in index order, none missing. -/
def EngBusy.rowsMoved (b : EngBusy) (op : EngOp) (r : EngReq) : Nat :=
  if op = .cps ∨ r.windowed then b.retired else (leastFrom (fun m => !b.returned.contains m) 0 (r.len + 1)).getD r.len

/-- The begun entry stops with a cause that arose at the target (R257): behind the bytes it has written, or the rows of a gather or scatter. -/
def State.stopEntry (s : State) (q : Nat) (c : Cause) (va : Nat) : State :=
  match (s.eng q).entries, (s.eng q).busy with
  | .request op img _ _ _ _ _ :: _, some b =>
    if b.err ≠ 0 then s
    else if op = .cpg ∨ op = .cps then s.setBusy q { b with err := code8 c, addr := va, limit := b.rowsMoved op (engReq img) }
    else s.setBusy q { b with data := some [], err := code8 c, addr := va, limit := b.done }
  | _, _ => s

/-- The flash read of the entry at the head ends with a cause (R261, R402). -/
def State.stopFlash (s : State) (q : Nat) (c : Cause) : State :=
  match (s.eng q).entries, (s.eng q).busy with
  | .request _ img _ _ _ _ _ :: _, some b =>
    if (engReq img).flash ∧ b.data.isNone then s.setBusy q { b with data := some [], err := code8 c, addr := (engReq img).src } else s
  | _, _ => s

/-- FLASH_READ_COMPLETE (R261): the data that the storage stall read, or a failure. -/
def execFlashReadComplete (q : Nat) (ok : Bool) (data : List Byte) (s : State) : Host.Outcome State Fault Refusal :=
  .next (
    if !ok then s.stopFlash q .storage
    else match (s.eng q).entries, (s.eng q).busy with
      | .request op img _ dst _ t _ :: _, some b =>
        let r := engReq img
        if !r.flash ∨ b.data.isSome ∨ data.length ≠ r.len then s
        else
          let a := s.engAccess q t
          if op = .dcmp then s.engDecoded q a b r data dst
          else s.engReady q a b data false [] none (if r.dq then none else some (dst, r.dst))
      | _, _ => s)

/-- STORAGE_TIMEOUT (R402): the entry whose flash read a controller has not answered for 100 ms stops with STORAGE. -/
def execStorageTimeout (q : Nat) (s : State) : Host.Outcome State Fault Refusal := .next (s.stopFlash q .storage)

end Sys2Proof.Machine
end

