-- ==== Sys2Proof/Machine/Fabric.lean ====
section
/-! DEFINITION. Elements of the fabric (R270 to R294): ports, routes, tokens, the firing rule and every element operation. -/
namespace Sys2Proof.Machine

/-! Places (R19 to R22, R28, Table 12-7). -/

/-- Module position of an element's island. -/
def islandOfElement (e : Nat) : Nat := islandOfFab (elIsland e / 32) (elIsland e % 32)

/-- The slots of a tile image: ENTRY0 to ENTRY5, then EXIT (Table 12-4): whether it is valid, and the place and port it names. -/
def slotValid (x : BitVec 16) : Bool := x.getLsbD 15
/-- Column that a slot names. -/
def slotX (x : BitVec 16) : Nat := bitsOf x.toNat 8 6
/-- Row that a slot names. -/
def slotY (x : BitVec 16) : Nat := bitsOf x.toNat 2 6
/-- Port that a slot names. -/
def slotPort (x : BitVec 16) : Fin 4 := Fin.ofNat 4 x.toNat

/-! Words (Table 6-6). -/

/-- The fields of an element word. -/
structure ElWord where
  op : Nat
  dst : Nat
  a : Nat
  b : Nat
  ctl : Nat
  var : Nat
  imm : Nat
  deriving DecidableEq, Repr

/-- The fields of an element word (Table 6-6). -/
def elWord (w : BitVec 32) : ElWord :=
  ⟨bitsOf w.toNat 26 6, bitsOf w.toNat 23 3, bitsOf w.toNat 20 3, bitsOf w.toNat 17 3, bitsOf w.toNat 15 2, bitsOf w.toNat 12 3,
   bitsOf w.toNat 0 12⟩

/-- LEN of a context (Table 12-5). -/
def ElCtx.len (x : ElCtx) : Nat := bitsOf x.ctlw.toNat 0 5
/-- FMT of a context. -/
def ElCtx.fmt (x : ElCtx) : Nat := bitsOf x.ctlw.toNat 5 2
/-- CAPEN of a context. -/
def ElCtx.capEn (x : ElCtx) : Bool := x.ctlw.getLsbD 7
/-- CAPSLOT of a context. -/
def ElCtx.capSlot (x : ElCtx) : Fin 4 := Fin.ofNat 4 (bitsOf x.ctlw.toNat 8 2)
/-- CROUTE of a context. -/
def ElCtx.croute (x : ElCtx) : Nat := bitsOf x.ctlw.toNat 48 16
/-- Whether a context holds a node pair (R299). -/
def ElCtx.isGrove (x : ElCtx) : Bool := x.node0.getLsbD 33 || x.node1.getLsbD 33

/-- The word at WPC. -/
def ElCtx.word (x : ElCtx) : ElWord := elWord (x.words.get (Fin.ofNat 16 x.wpc))

/-- What the operation of the word at WPC keeps. -/
def ElCtx.ws (x : ElCtx) : WordSt := mapGet {} x.wst x.wpc

/-- That state replaced. -/
def ElCtx.setWs (x : ElCtx) (w : WordSt) : ElCtx := { x with wst := mapPut x.wpc w x.wst }

/-! Routes. -/

/-- A 7-bit offset. -/
def off7 (n : Nat) : Int := signedOf 7 n

/-- The step of an output port: N, E, S, W. -/
def portStep (p : Fin 4) : Int × Int :=
  match p with
  | 0 => (0, -1)
  | 1 => (1, 0)
  | 2 => (0, 1)
  | 3 => (-1, 0)

/-- The input that faces an output port (R270). -/
def facing (p : Fin 4) : Fin 4 := p + 2

/-- Where a route of port `p` leads, as offsets (R271, R276). -/
def routeStep (p : Fin 4) (r : BitVec 16) : Int × Int :=
  if r.getLsbD 15 then (off7 (bitsOf r.toNat 8 7), off7 (bitsOf r.toNat 1 7)) else portStep p

/-- The element at an offset from element `e`, within its island. -/
def stepFrom (e : Nat) (d : Int × Int) : Option Nat :=
  let x := (elX e : Int) + d.1
  let y := (elY e : Int) + d.2
  if 0 ≤ x ∧ x < 64 ∧ 0 ≤ y ∧ y < 56 then some (elIsland e * 3584 + y.toNat * 64 + x.toNat) else none

/-- Where a token sent on a port goes: out of the tile at EXIT, or into an element's FIFO. -/
inductive Dest where
  | exit (f : Nat)
  | fifo (e : Nat) (p : Fin 4)
  | lost
  deriving DecidableEq, Repr

/-- Where element `e` sends what context `x` puts on port `p`. -/
def State.destOf (s : State) (e : Nat) (x : ElCtx) (p : Fin 4) : Dest :=
  match s.fabOf e with
  | none => .lost
  | some (f, t) =>
    let out := t.slots.getD 6 0
    if slotValid out ∧ tileElement f (slotX out) (slotY out) = e ∧ slotPort out = p then .exit f
    else match stepFrom e (routeStep p (x.routes.get p)) with
      | some e2 => if t.holds f e2 then .fifo e2 (facing p) else .lost
      | none => .lost

/-- Tokens that an input FIFO holds (R270). -/
def fifoRoom : Nat := 4

/-- Whether port `p` of a context accepts `n` more tokens (R272). -/
def State.portRoom (s : State) (e : Nat) (x : ElCtx) (p : Fin 4) (n : Nat) : Bool :=
  match s.destOf e x p with
  | .fifo e2 q => decide (((s.element e2).fifos.get q).length + n ≤ fifoRoom)
  | _ => true

/-- The element that a context's control route leads to (R271). -/
def State.ctlDest (s : State) (e : Nat) (x : ElCtx) : Option Nat :=
  let r := x.croute
  if r.testBit 15 then stepFrom e (off7 (bitsOf r 8 7), off7 (bitsOf r 1 7)) else none

/-- Whether a context's control output accepts. -/
def State.ctlRoom (s : State) (e : Nat) (x : ElCtx) : Bool :=
  match s.ctlDest e x with
  | some e2 => decide ((s.element e2).ctl.length < fifoRoom)
  | none => true

/-! Tokens. -/

/-- Kinds of Table 12-1. -/
def kData : Nat := 0
def kStop : Nat := 1
def kMarker : Nat := 2
def kError : Nat := 3
def kDone : Nat := 4

/-- The payload of an error token (Table 12-2) of element `e`. -/
def State.errorData (s : State) (e : Nat) (ctx : Fin 4) (c : Cause) : Dword :=
  let o := match s.fabOf e with
    | some (f, _) => (elX e - 8 * ftCol f, elY e - 8 * ftRow f)
    | none => (elX e, elY e)
  BitVec.ofNat 64 (ctx.1 * 2 ^ 20 + o.2 % 64 * 2 ^ 14 + o.1 % 64 * 2 ^ 8 + causeCode c)

/-- A token as element `e` takes it on arrival (R273): reserved kinds and a stop of level 0 become errors. -/
def State.arrive (s : State) (e : Nat) (kind : Nat) (d : Dword) : Nat × Dword :=
  if kind ≥ 5 ∨ (kind = kStop ∧ d.toNat % 8 = 0) then (kError, s.errorData e (s.element e).running .tokalign) else (kind, d)

/-- The cycle of an element's tile (R272). -/
def State.nowAt (s : State) (e : Nat) : Nat := (s.fabOf e).elim 0 (fun p => p.2.cycle)

/-- An element with the tokens that it can consume in a cycle, those on their way left out (R272). -/
def Element.arrived (y : Element) (now : Nat) : Element :=
  { y with
    fifos := y.fifos.map (fun l => l.takeWhile (fun t => decide (t.arrival ≤ now)))
    ctl := y.ctl.takeWhile (fun t => decide (t.arrival ≤ now)) }

/-- What an element can consume in the present cycle of its tile. -/
def State.seen (s : State) (e : Nat) : Element := (s.element e).arrived (s.nowAt e)

/-- When a token of a FIFO can be consumed that would come in a cycle by itself: not before those sent earlier (R271, log entry 82). -/
def inOrder (before : List Nat) (at_ : Nat) : Nat := max at_ (before.getLast?.getD 0)

/-- A token into an input FIFO, to be consumed from a cycle on. -/
def State.pushFifo (s : State) (e : Nat) (p : Fin 4) (kind : Nat) (d : Dword) (at_ : Nat) : State :=
  let (k, x) := s.arrive e kind d
  s.modElement e (fun y => { y with
    fifos := vset y.fifos p (y.fifos.get p ++ [⟨Fin.ofNat 8 k, x, inOrder ((y.fifos.get p).map (·.arrival)) at_⟩]) })

/-- Block boundaries between two elements on one row or column, or passed by a control route (R272). -/
def blockHops (e e2 : Nat) : Nat :=
  (elX e / 8 - elX e2 / 8) + (elX e2 / 8 - elX e / 8) + (elY e / 8 - elY e2 / 8) + (elY e2 / 8 - elY e / 8)

/-- Cycles that a token of port `p` spends on block boundaries: only a bypass route adds them (R272). -/
def ElCtx.hops (x : ElCtx) (p : Fin 4) (e e2 : Nat) : Nat := if (x.routes.get p).getLsbD 15 then blockHops e e2 else 0

/-- A token on EXIT (R294, R296): discarded when no call is in progress or after the call's done token; a marker holds the tile. -/
def State.pushExit (s : State) (f : Nat) (kind : Nat) (d : Dword) : State :=
  s.modFab f (fun t => match t.call with
    | none => t
    | some c =>
      if c.ending then t
      else { t with
        exitQ := t.exitQ ++ [⟨Fin.ofNat 8 kind, d, 0⟩]
        call := some { c with ending := kind == kDone }
        hold := if kind = kMarker then some (d.setWidth 32) else t.hold })

/-- A token sent on a port by a firing of latency `lat` in the present cycle (R272). -/
def State.sendPort (s : State) (e : Nat) (x : ElCtx) (lat : Nat) (p : Fin 4) (kind : Nat) (d : Dword) : State :=
  match s.destOf e x p with
  | .exit f => s.pushExit f kind d
  | .fifo e2 q => s.pushFifo e2 q kind d (s.nowAt e + lat + 1 + x.hops p e e2)
  | .lost => s

/-- A control token sent by a firing of latency `lat` in the present cycle (R272). -/
def State.sendCtl (s : State) (e : Nat) (x : ElCtx) (lat : Nat) (b : Bool) : State :=
  match s.ctlDest e x with
  | some e2 => s.modElement e2 (fun y => { y with
      ctl := y.ctl ++ [⟨b, inOrder (y.ctl.map (·.arrival)) (s.nowAt e + lat + 1 + blockHops e e2)⟩] })
  | none => s

/-! A firing. -/

/-- The FIFO that a port code names. -/
def fifoPort (c : Nat) : Option (Fin 4) := if c < 4 then some (Fin.ofNat 4 c) else none

/-- The FIFOs among two port codes. -/
def fifoPorts (a b : Nat) : List (Fin 4) := (fifoPort a).toList ++ (fifoPort b).toList

/-- What one firing does (R279): the FIFOs it takes, whether it takes the control token, what it sends (port code, kind, payload), its
control output, the local register it writes, what the word keeps, where WPC goes if not on, and its latency L (Table 12-3; log entry 82 for
the variable ones). -/
structure Shot where
  takes : List (Fin 4) := []
  ctl : Bool := false
  sends : List (Nat × Nat × Dword) := []
  cout : Option Bool := none
  lreg : Option (Nat × Dword) := none
  ws : Option WordSt := none
  jump : Option Nat := none
  lat : Nat := 1

/-- What an attempt to fire gives: a firing; an access that has begun and is not yet performed, which is `asked` for again where it waits on
a snoop and else parked; or a stall. -/
inductive ElOut where
  | fired (s : State)
  | begins (s : State) (asked : Bool)
  | stalls (s : State)

/-- The state after the attempt. -/
def ElOut.state : ElOut → State
  | .fired s => s
  | .begins s _ => s
  | .stalls s => s

/-- The number of tokens of a firing that go out on a port. -/
def Shot.countOn (h : Shot) (p : Fin 4) : Nat := (h.sends.filter (fun t => t.1 == p.1)).length

/-- Whether every destination of a firing accepts (R272, R279). -/
def State.accepts (s : State) (e : Nat) (x : ElCtx) (h : Shot) : Bool :=
  (List.finRange 4).all (fun p => h.countOn p == 0 || s.portRoom e x p (h.countOn p)) && (h.cout.isNone || s.ctlRoom e x)

/-- Whether a firing of context `cx` would take a token that another context's parked access still needs (R134). -/
def Element.keeps (y : Element) (cx : Fin 4) (h : Shot) : Bool :=
  (List.finRange 4).any (fun c =>
    let x := y.ctxs.get c
    let w := x.word
    c != cx && x.parked && ((fifoPorts w.a w.b).any h.takes.contains || (h.ctl && (w.ctl == 1 || w.ctl == 2))))

/-- Whether a firing of context `cx` can go: its tokens are free to be taken and its destinations accept. -/
def State.clear (s : State) (e : Nat) (cx : Fin 4) (h : Shot) : Bool :=
  s.accepts e ((s.element e).ctxs.get cx) h && !(s.element e).keeps cx h

/-- T after a token is sent (R279). -/
def loopback (t : Dword) (kind : Nat) (d : Dword) : Dword := if kind = kData then d else if kind = kStop then 0 else t

/-- One token of a firing delivered. Only data goes into a local register. -/
def State.deliver (s : State) (e : Nat) (x : ElCtx) (lat i : Nat) (t : Nat × Nat × Dword) : State :=
  let (port, kind, d) := t
  if port < 4 then s.sendPort e x lat (Fin.ofNat 4 port) kind d
  else if port = 4 ∧ kind = kData then s.modElement e (fun y => { y with l := vset y.l (Fin.ofNat 32 i) d })
  else s

/-- The context after a firing: T, what the word keeps, WPC; an access that was parked is performed. -/
def ElCtx.after (x : ElCtx) (h : Shot) : ElCtx :=
  let y := match h.ws with
    | some w => x.setWs w
    | none => x
  { y with
    parked := false
    woken := false
    t := h.sends.foldl (fun t p => loopback t p.2.1 p.2.2) x.t
    wpc := match h.jump with
      | some n => n
      | none => if x.wpc + 1 < x.len then x.wpc + 1 else 0 }

/-- A firing performed, where its destinations accept: the element does not fire again in this cycle (R279). -/
def State.shoot (s : State) (e : Nat) (cx : Fin 4) (i : Nat) (h : Shot) : ElOut :=
  let x := (s.element e).ctxs.get cx
  if !s.clear e cx h then .stalls s
  else
    let s1 := s.modElement e (fun y => { y with
      fifos := h.takes.eraseDups.foldl (fun f p => vset f p ((f.get p).drop 1)) y.fifos
      ctl := if h.ctl then y.ctl.drop 1 else y.ctl
      l := match h.lreg with
        | some (r, d) => vset y.l (Fin.ofNat 32 r) d
        | none => y.l
      ctxs := vset y.ctxs cx (x.after h)
      free := s.nowAt e + 1 })
    let s2 := h.sends.foldl (fun st t => st.deliver e x h.lat i t) s1
    .fired (match h.cout with
      | some b => s2.sendCtl e x h.lat b
      | none => s2)

/-! Sources. -/

/-- The head of a FIFO. -/
def Element.head (y : Element) (p : Fin 4) : Option Tok := (y.fifos.get p).head?

/-- The head of the control FIFO. -/
def Element.ctlHead (y : Element) : Option Bool := y.ctl.head?.map (·.bit)

/-- The value of a source that is no FIFO, or of a FIFO's head (R149); an absent operand counts as 0 (log entry 19). -/
def Element.val (y : Element) (x : ElCtx) (imm c : Nat) : Dword :=
  match c with
  | 4 => y.l.get (Fin.ofNat 32 imm)
  | 5 => sextTo64 12 imm
  | 6 => x.t
  | 7 => 0
  | c => ((y.head (Fin.ofNat 4 c)).map (·.data)).getD 0

/-- What the kinds of a firing's FIFO sources decide (R281). -/
inductive Join where
  | stalls
  | pass (kind : Nat) (d : Dword)
  | bad
  | data

/-- R281 over the heads of FIFO sources in order: a missing head or a marker stalls. -/
def joinKinds (heads : List (Option Tok)) : Join :=
  let ts := heads.filterMap id
  if ts.length < heads.length ∨ ts.any (fun t => t.kind.1 == kMarker) then .stalls
  else match ts.find? (fun t => t.kind.1 == kError) with
    | some t => .pass kError t.data
    | none =>
      match ts with
      | [] => .data
      | t :: _ =>
        if ts.all (fun u => u.kind.1 == kData) then .data
        else if ts.all (fun u => u.kind.1 == kDone) then .pass kDone t.data
        else if ts.all (fun u => u.kind.1 == kStop && u.data.toNat % 8 == t.data.toNat % 8) then .pass kStop t.data
        else .bad

/-- Whether an element may fire in a context (R279, R282, R294): armed, its tile neither held nor frozen for a fold (R389), no access parked there that still waits for its
translation, and nothing fired yet in this cycle. -/
def State.mayFire (s : State) (e : Nat) (cx : Fin 4) : Bool :=
  let x := (s.element e).ctxs.get cx
  x.armed && (!x.parked || x.woken) && match s.fabOf e with
    | some (_, t) => t.hold.isNone && !t.folding && decide ((s.element e).free ≤ t.cycle)
    | none => false

/-- Latency L of an operation (Table 12-3; 1 for the variable ones, log entry 82). -/
def latencyOf (op : Nat) : Nat := if op = 0x08 then 3 else if 0x10 ≤ op ∧ op ≤ 0x13 then 4 else 1

/-- The CTL rule (R280): the control token decides whether the word fires or is skipped. -/
def State.withCtl (s : State) (e : Nat) (cx : Fin 4) (c : Nat) (f : Bool → ElOut) : ElOut :=
  if !s.mayFire e cx then .stalls s
  else if c = 0 ∨ c = 3 then f false
  else match (s.seen e).ctlHead with
    | none => .stalls s
    | some h => if h = (c == 1) then f true else s.shoot e cx 0 { ctl := true }

/-- A word whose kinds R281 decides: on data it computes. `always` says that the operation takes a control token whatever CTL holds. -/
def State.joined (s : State) (e : Nat) (cx : Fin 4) (w : ElWord) (always : Bool) (f : Element → ElCtx → Bool → Dword → Dword → Shot) : ElOut :=
  s.withCtl e cx w.ctl (fun took =>
    let y := s.seen e
    let x := y.ctxs.get cx
    let ports := fifoPorts w.a w.b
    let ctl := took || always
    let lat := latencyOf w.op
    if always ∧ y.ctl.isEmpty then .stalls s
    else match joinKinds (ports.map y.head) with
      | .stalls => .stalls s
      | .pass k d => s.shoot e cx w.imm { takes := ports, ctl := ctl, sends := [(w.dst, k, d)], lat := lat }
      | .bad => s.shoot e cx w.imm { takes := ports, ctl := ctl, sends := [(w.dst, kError, s.errorData e cx .tokalign)], lat := lat }
      | .data =>
        let h := f y x (y.ctlHead.getD false) (y.val x w.imm w.a) (y.val x w.imm w.b)
        s.shoot e cx w.imm { h with takes := ports, ctl := ctl, lat := lat })

/-- A word that sends one data token to DST. -/
def State.binary (s : State) (e : Nat) (cx : Fin 4) (w : ElWord) (f : Element → ElCtx → Dword → Dword → Dword) : ElOut :=
  s.joined e cx w false (fun y x _ a b => { sends := [(w.dst, kData, f y x a b)] })

/-! Arithmetic (Table 12-3). -/

def elAdd (w : ElWord) (s : State) (e : Nat) (cx : Fin 4) : ElOut := s.binary e cx w (fun _ _ a b => a + b)
def elSub (w : ElWord) (s : State) (e : Nat) (cx : Fin 4) : ElOut := s.binary e cx w (fun _ _ a b => a - b)
def elAnd (w : ElWord) (s : State) (e : Nat) (cx : Fin 4) : ElOut := s.binary e cx w (fun _ _ a b => a &&& b)
def elOr (w : ElWord) (s : State) (e : Nat) (cx : Fin 4) : ElOut := s.binary e cx w (fun _ _ a b => a ||| b)
def elXor (w : ElWord) (s : State) (e : Nat) (cx : Fin 4) : ElOut := s.binary e cx w (fun _ _ a b => a ^^^ b)
def elShl (w : ElWord) (s : State) (e : Nat) (cx : Fin 4) : ElOut := s.binary e cx w (fun _ _ a b => a <<< (b.toNat % 64))
def elShr (w : ElWord) (s : State) (e : Nat) (cx : Fin 4) : ElOut := s.binary e cx w (fun _ _ a b => a >>> (b.toNat % 64))
def elSra (w : ElWord) (s : State) (e : Nat) (cx : Fin 4) : ElOut := s.binary e cx w (fun _ _ a b => a.sshiftRight (b.toNat % 64))

/-- `mul`: the low half, or a high half of the 128-bit product. -/
def elMul (w : ElWord) (s : State) (e : Nat) (cx : Fin 4) : ElOut :=
  s.binary e cx w (fun _ _ a b => match w.var with
    | 0 => a * b
    | 1 => BitVec.ofInt 64 (a.toInt * b.toInt / 2 ^ 64)
    | _ => BitVec.ofNat 64 (a.toNat * b.toNat / 2 ^ 64))

/-- Order under VAR: signed or unsigned. -/
def elLess (var : Nat) (a b : Dword) : Bool := if var = 0 then decide (a.toInt < b.toInt) else decide (a.toNat < b.toNat)

def elMin (w : ElWord) (s : State) (e : Nat) (cx : Fin 4) : ElOut := s.binary e cx w (fun _ _ a b => if elLess w.var b a then b else a)
def elMax (w : ElWord) (s : State) (e : Nat) (cx : Fin 4) : ElOut := s.binary e cx w (fun _ _ a b => if elLess w.var a b then b else a)

/-- The comparison of `cmp`. -/
def elCond (var : Nat) (a b : Dword) : Bool :=
  match var with
  | 0 => a == b
  | 1 => a != b
  | 2 => decide (a.toInt < b.toInt)
  | 3 => decide (b.toInt ≤ a.toInt)
  | 4 => decide (a.toNat < b.toNat)
  | _ => decide (b.toNat ≤ a.toNat)

/-- `cmp`: the bit to DST and on the control output. -/
def elCmp (w : ElWord) (s : State) (e : Nat) (cx : Fin 4) : ElOut :=
  s.joined e cx w false (fun _ _ _ a b => { sends := [(w.dst, kData, dbit (elCond w.var a b))], cout := some (elCond w.var a b) })

/-- `sel`. -/
def elSel (w : ElWord) (s : State) (e : Nat) (cx : Fin 4) : ElOut :=
  s.joined e cx w true (fun _ _ c a b => { sends := [(w.dst, kData, if c then a else b)] })

/-- The format of a context's FMT (R109). -/
def ElCtx.format (x : ElCtx) : Fmt := if x.fmt = 2 then e8m10 else binary32

/-- A result pattern as a token. -/
def FRes.tok (r : FRes) : Dword := BitVec.ofNat 64 r.bits

/-- The pattern of a token in a format: its low bits. -/
def Fmt.low (f : Fmt) (a : Dword) : Nat := a.toNat % 2 ^ f.width

def elFadd (w : ElWord) (s : State) (e : Nat) (cx : Fin 4) : ElOut :=
  s.binary e cx w (fun _ x a b =>
    let f := x.format
    (if w.var = 0 then f.add 0 (f.low a) (f.low b) else f.sub 0 (f.low a) (f.low b)).tok)

def elFmul (w : ElWord) (s : State) (e : Nat) (cx : Fin 4) : ElOut :=
  s.binary e cx w (fun _ x a b => (x.format.mul 0 (x.format.low a) (x.format.low b)).tok)

def elFma (w : ElWord) (s : State) (e : Nat) (cx : Fin 4) : ElOut :=
  s.binary e cx w (fun y x a b =>
    let f := x.format
    let c := if w.var = 0 then x.t else y.l.get (Fin.ofNat 32 w.imm)
    (f.fma 0 (f.low a) (f.low b) (f.low c)).tok)

/-- `cvt` (Table 4-2, to nearest even). -/
def elCvt (w : ElWord) (s : State) (e : Nat) (cx : Fin 4) : ElOut :=
  s.binary e cx w (fun _ x a _ =>
    let f := x.format
    let other := if x.fmt = 1 then e8m10 else binary32
    match w.var with
    | 0 => (f.of 0 (FVal.ofInt a.toInt)).tok
    | 1 => (floatToInt true 64 0 (f.value (f.low a))).tok
    | 2 => (f.of 0 (other.value (other.low a))).tok
    | 3 => (f.of 0 (bfloat16.value (bfloat16.low a))).tok
    | 4 => (f.of 0 (binary16.value (binary16.low a))).tok
    | 5 => (bfloat16.of 0 (f.value (f.low a))).tok
    | _ => (binary16.of 0 (f.value (f.low a))).tok)

/-! Control of streams (R284 to R291). -/

/-- `steer` (R284). -/
def elSteer (w : ElWord) (s : State) (e : Nat) (cx : Fin 4) : ElOut :=
  if !s.mayFire e cx then .stalls s
  else
    let y := s.seen e
    let x := y.ctxs.get cx
    let ports := fifoPorts w.a w.b
    let other := w.imm % 8
    match joinKinds (ports.map y.head) with
    | .stalls => .stalls s
    | .pass k d => s.shoot e cx w.imm { takes := ports, sends := [(w.dst, k, d), (other, k, d)] }
    | .bad =>
      let d := s.errorData e cx .tokalign
      s.shoot e cx w.imm { takes := ports, sends := [(w.dst, kError, d), (other, kError, d)] }
    | .data =>
      match y.ctlHead with
      | none => .stalls s
      | some c => s.shoot e cx w.imm { takes := ports, ctl := true, cout := some c,
                                       sends := [(if c then w.dst else other, kData, y.val x w.imm w.a)] }

/-- The head of a source that an operation may take by itself: a FIFO's head other than a marker, or a value that is always there. -/
def Element.offer (y : Element) (x : ElCtx) (imm c : Nat) : Option (Nat × Dword × List (Fin 4)) :=
  match fifoPort c with
  | none => if c = 7 then none else some (kData, y.val x imm c, [])
  | some p => match y.head p with
    | some t => if t.kind.1 = kMarker then none else some (t.kind.1, t.data, [p])
    | none => none

/-- `omrg` (R285). -/
def elOmrg (w : ElWord) (s : State) (e : Nat) (cx : Fin 4) : ElOut :=
  if !s.mayFire e cx then .stalls s
  else
    let y := s.seen e
    let x := y.ctxs.get cx
    match y.ctlHead with
    | none => .stalls s
    | some c =>
      match y.offer x w.imm (if c then w.a else w.b) with
      | none => .stalls s
      | some (k, d, ps) => s.shoot e cx w.imm { takes := ps, ctl := true, sends := [(w.dst, k, d)] }

/-- The cycle in which a source's head arrived. -/
def Element.since (y : Element) (c : Nat) : Nat := ((fifoPort c).bind y.head).elim 0 (·.arrival)

/-- `umrg` (R285): whichever head arrived first, SRCA where both came in one cycle. -/
def elUmrg (w : ElWord) (s : State) (e : Nat) (cx : Fin 4) : ElOut :=
  s.withCtl e cx w.ctl (fun took =>
    let y := s.seen e
    let x := y.ctxs.get cx
    let send := fun (o : Nat × Dword × List (Fin 4)) => s.shoot e cx w.imm { takes := o.2.2, ctl := took, sends := [(w.dst, o.1, o.2.1)] }
    match y.offer x w.imm w.a, y.offer x w.imm w.b with
    | some a, some b => if y.since w.b < y.since w.a then send b else send a
    | some a, none => send a
    | none, some b => send b
    | none, none => .stalls s)

/-- Whether a source is a FIFO whose head is a marker. -/
def Element.marked (y : Element) (c : Nat) : Bool :=
  match (fifoPort c).bind y.head with
  | some t => t.kind.1 == kMarker
  | none => false

/-- `kmrg` (R286, R294). -/
def elKmrg (w : ElWord) (s : State) (e : Nat) (cx : Fin 4) : ElOut :=
  s.withCtl e cx w.ctl (fun took =>
    let y := s.seen e
    let x := y.ctxs.get cx
    let go := fun (ps : List (Fin 4)) (k : Nat) (d : Dword) => s.shoot e cx w.imm { takes := ps, ctl := took, sends := [(w.dst, k, d)] }
    match y.offer x w.imm w.a, y.offer x w.imm w.b with
    | some (ka, da, pa), some (kb, db, pb) =>
      if ka = kError then go (pa ++ pb) kError da
      else if kb = kError then go (pa ++ pb) kError db
      else if ka = kData ∧ kb = kData then
        (if elLess (if w.var = 1 then 0 else 1) db da then go pb kData db else go pa kData da)
      else if ka = kStop ∧ kb = kData then go pb kData db
      else if ka = kData ∧ kb = kStop then go pa kData da
      else if ka = kb ∧ (ka = kDone ∨ da.toNat % 8 = db.toNat % 8) then go (pa ++ pb) ka da
      else go (pa ++ pb) kError (s.errorData e cx .tokalign)
    | some (k, d, ps), none => if y.marked w.b then go ps k d else .stalls s
    | none, some (k, d, ps) => if y.marked w.a then go ps k d else .stalls s
    | none, none => .stalls s)

/-- The position in a fibre once a token of a kind has been taken from it: data counts, and a stop ends the fibre (R286). -/
def posAfter (kind i : Nat) : Nat := if kind = kData then i + 1 else if kind = kStop then 0 else i

/-- `isect` (R286). -/
def elIsect (w : ElWord) (s : State) (e : Nat) (cx : Fin 4) : ElOut :=
  s.withCtl e cx w.ctl (fun took =>
    let y := s.seen e
    let x := y.ctxs.get cx
    let q := x.ws
    let go := fun (ps : List (Fin 4)) (sends : List (Nat × Nat × Dword)) (q : WordSt) =>
      s.shoot e cx w.imm { takes := ps, ctl := took, sends := sends, ws := some q }
    match y.offer x w.imm w.a, y.offer x w.imm w.b with
    | some (ka, da, pa), some (kb, db, pb) =>
      let both := { q with ia := posAfter ka q.ia, ib := posAfter kb q.ib }
      if ka = kError then go (pa ++ pb) [(w.dst, kError, da)] both
      else if kb = kError then go (pa ++ pb) [(w.dst, kError, db)] both
      else if ka = kData ∧ kb = kData then
        if da.toNat < db.toNat then go pa [] { q with ia := q.ia + 1 }
        else if db.toNat < da.toNat then go pb [] { q with ib := q.ib + 1 }
        else go (pa ++ pb) [(w.dst, kData, if w.var = 0 then da else BitVec.ofNat 64 (q.ia * 2 ^ 32 ||| q.ib))] both
      else if ka = kStop ∧ kb = kData then go pb [] { q with ib := q.ib + 1 }
      else if ka = kData ∧ kb = kStop then go pa [] { q with ia := q.ia + 1 }
      else if ka = kStop ∧ kb = kStop ∧ da.toNat % 8 = db.toNat % 8 then go (pa ++ pb) [(w.dst, kStop, da)] both
      else if ka = kDone ∧ kb = kDone then go (pa ++ pb) [(w.dst, kDone, da)] both
      else go (pa ++ pb) [(w.dst, kError, s.errorData e cx .tokalign)] both
    | _, _ => .stalls s)

/-- A source taken in ENTRY by `carry` and `inv`: data is sent and moves to LOOP, any other kind passes and leaves the state. -/
def State.enter (s : State) (e : Nat) (cx : Fin 4) (w : ElWord) (q : WordSt) : ElOut :=
  let y := s.seen e
  match y.offer (y.ctxs.get cx) w.imm w.a with
  | none => .stalls s
  | some (k, d, ps) =>
    s.shoot e cx w.imm { takes := ps, sends := [(w.dst, k, d)], ws := some (if k = kData then { q with loop := true, kept := d } else q) }

/-- `carry` (R287). -/
def elCarry (w : ElWord) (s : State) (e : Nat) (cx : Fin 4) : ElOut :=
  if !s.mayFire e cx then .stalls s
  else
    let y := s.seen e
    let x := y.ctxs.get cx
    let q := x.ws
    if q.primed then s.shoot e cx w.imm { sends := [(w.dst, kData, y.l.get (Fin.ofNat 32 w.imm))], ws := some { q with primed := false } }
    else if !q.loop then s.enter e cx w q
    else match y.ctlHead with
      | none => .stalls s
      | some false => s.shoot e cx w.imm { ctl := true, ws := some { q with loop := false } }
      | some true =>
        match y.offer x w.imm w.b with
        | none => .stalls s
        | some (k, d, ps) => s.shoot e cx w.imm { takes := ps, ctl := true, sends := [(w.dst, k, d)] }

/-- `inv` (R287). -/
def elInv (w : ElWord) (s : State) (e : Nat) (cx : Fin 4) : ElOut :=
  if !s.mayFire e cx then .stalls s
  else
    let y := s.seen e
    let q := (y.ctxs.get cx).ws
    if !q.loop then s.enter e cx w q
    else match y.ctlHead with
      | none => .stalls s
      | some true => s.shoot e cx w.imm { ctl := true, sends := [(w.dst, kData, q.kept)] }
      | some false => s.shoot e cx w.imm { ctl := true, ws := some { q with loop := false } }

/-- `permit` (R288). -/
def elPermit (w : ElWord) (s : State) (e : Nat) (cx : Fin 4) : ElOut :=
  s.withCtl e cx w.ctl (fun took =>
    let y := s.seen e
    let x := y.ctxs.get cx
    let n := (y.l.get (Fin.ofNat 32 w.imm)).toInt
    match y.offer x w.imm w.b with
    | some (3, d, ps) => s.shoot e cx w.imm { takes := ps, ctl := took, sends := [(w.dst, kError, d)] }
    | ret =>
      let ret := match ret with
        | some (_, _, p :: r) => some (p :: r)
        | _ => none
      let m : Int := if ret.isSome then n + 1 else n
      match y.offer x w.imm w.a, decide (0 < m) with
      | some (k, d, ps), true =>
        s.shoot e cx w.imm { takes := ps ++ ret.getD [], ctl := took, sends := [(w.dst, k, d)], lreg := some (w.imm % 32, BitVec.ofInt 64 (m - 1)) }
      | _, _ =>
        match ret with
        | some ps => s.shoot e cx w.imm { takes := ps, ctl := took, lreg := some (w.imm % 32, BitVec.ofInt 64 m) }
        | none => .stalls s)

/-- `cnt` (R290). -/
def elCnt (w : ElWord) (s : State) (e : Nat) (cx : Fin 4) : ElOut :=
  s.withCtl e cx w.ctl (fun took =>
    let y := s.seen e
    let x := y.ctxs.get cx
    let a := y.offer x w.imm w.a
    let b := y.offer x w.imm w.b
    let ports := fun (o : Option (Nat × Dword × List (Fin 4))) => match o with
      | some (_, _, ps) => ps
      | none => []
    let isErr := fun (o : Option (Nat × Dword × List (Fin 4))) => match o with
      | some (3, d, _) => some d
      | _ => none
    let value := fun (o : Option (Nat × Dword × List (Fin 4))) => match o with
      | some (0, d, _) => d
      | _ => 0
    if (ports a ++ ports b).isEmpty then .stalls s
    else match isErr a, isErr b with
      | some d, _ => s.shoot e cx w.imm { takes := ports a, ctl := took, sends := [(w.dst, kError, d)] }
      | none, some d => s.shoot e cx w.imm { takes := ports b, ctl := took, sends := [(w.dst, kError, d)] }
      | none, none =>
        let upd := value a - value b
        let n := y.l.get (Fin.ofNat 32 w.imm) + upd
        s.shoot e cx w.imm { takes := ports a ++ ports b, ctl := took, lreg := some (w.imm % 32, n)
                             sends := if upd ≠ 0 ∧ n = 0 then [(w.dst, kDone, 0)] else [] })

/-- Firings of a run of `gen`: its values, then a closing stop under VAR[2]. -/
def genTotal (w : ElWord) (y : Element) : Nat := (y.l.get (Fin.ofNat 32 (w.imm % 32 + 2))).toNat + w.var / 4 % 2

/-- The token that a run sends in place `i` (R289). -/
def genToken (w : ElWord) (y : Element) (i : Nat) : Nat × Nat × Dword :=
  let p := w.imm % 32
  if i < (y.l.get (Fin.ofNat 32 (p + 2))).toNat then
    (w.dst, kData, y.l.get (Fin.ofNat 32 p) + BitVec.ofNat 64 i * y.l.get (Fin.ofNat 32 (p + 1)))
  else (w.dst, kStop, 1)

/-- What is left of a run after place `i`. -/
def genNext (w : ElWord) (y : Element) (i : Nat) : Option Nat := if i + 1 < genTotal w y then some (i + 1) else none

/-- `gen` (R289). -/
def elGen (w : ElWord) (s : State) (e : Nat) (cx : Fin 4) : ElOut :=
  s.withCtl e cx w.ctl (fun took =>
    let y := s.seen e
    let x := y.ctxs.get cx
    let q := x.ws
    match q.gen with
    | some i => s.shoot e cx w.imm { ctl := took, sends := [genToken w y i], ws := some { q with gen := genNext w y i } }
    | none =>
      match y.offer x w.imm w.a with
      | none => .stalls s
      | some (k, d, ps) =>
        if k ≠ kData then s.shoot e cx w.imm { takes := ps, ctl := took, sends := [(w.dst, k, d)] }
        else if genTotal w y = 0 then s.shoot e cx w.imm { takes := ps, ctl := took }
        else s.shoot e cx w.imm { takes := ps, ctl := took, sends := [genToken w y 0], ws := some { q with gen := genNext w y 0 } })

/-- A report of an error token's cause and place to a tile (R291, R296, Table 20-5). -/
def State.reportToken (s : State) (f : Nat) (to_ : TileRef) (d : Dword) (aux : Nat) : State :=
  s.report to_ { cause := (causeOfCode (d.toNat % 256)).getD .tokalign, src := 2, imp := true, aux := aux
                 place := BitVec.ofNat 64 (f * 2 ^ 32 + d.toNat % 2 ^ 22) }

/-- `sink` (R291): each error token that it takes is posted to the tile of the current call, or of the fabric tile itself without one. -/
def elSink (w : ElWord) (s : State) (e : Nat) (cx : Fin 4) : ElOut :=
  s.withCtl e cx w.ctl (fun took =>
    let y := s.seen e
    let x := y.ctxs.get cx
    let fst := y.offer x w.imm w.a
    let ports := fifoPorts w.a w.b
    if ports.any (fun p => match y.head p with
        | some t => t.kind.1 == kMarker
        | none => true) then .stalls s
    else
      let count := match fst with
        | some (0, _, _) => w.var == 1
        | _ => false
      let r := Fin.ofNat 32 w.imm
      match s.shoot e cx w.imm { takes := ports, ctl := took, lreg := if count then some (r.1, y.l.get r + 1) else none } with
      | .stalls s1 => .stalls s1
      | .begins s1 b => .begins s1 b
      | .fired s1 =>
        let errs := (ports.filterMap y.head).filter (fun t => t.kind.1 == kError)
        match s.fabOf e with
        | some (f, t) => .fired (errs.foldl (fun st k => st.reportToken f ((t.call.map (·.caller)).getD (.fabric f)) k.data 0) s1)
        | none => .fired s1)

/-- `nop`: SRCA unchanged, any kind; with CTL 3, a branch on the control token (R280). -/
def elNop (w : ElWord) (s : State) (e : Nat) (cx : Fin 4) : ElOut :=
  s.withCtl e cx w.ctl (fun took =>
    let y := s.seen e
    let x := y.ctxs.get cx
    if w.ctl = 3 then
      match y.ctlHead with
      | none => .stalls s
      | some c => s.shoot e cx w.imm { ctl := true, jump := if c then some (w.imm / 256) else none }
    else
      let ports := fifoPorts w.a w.b
      if ports.any (fun p => match y.head p with
          | some t => t.kind.1 == kMarker
          | none => true) then .stalls s
      else match y.offer x w.imm w.a with
        | none => s.shoot e cx w.imm { takes := ports, ctl := took }
        | some (k, d, _) => s.shoot e cx w.imm { takes := ports, ctl := took, sends := [(w.dst, k, d)] })

/-! Memory ports (R292, R293). -/

/-- The accesses of a context of an element. -/
def State.elAccess (s : State) (e : Nat) (cx : Fin 4) : Access :=
  ⟨.element e cx, islandOfElement e, match s.fabOf e with
    | some (_, t) => t.job
    | none => 0, 0, false, none⟩

/-- The call capability of a slot. -/
def State.elCap (s : State) (e : Nat) (slot : Fin 4) : Cap :=
  match s.fabOf e with
  | some (_, t) => t.caps.get slot
  | none => {}

/-- A context whose access waits for a translation (R134): parked until the wake. -/
def State.park (s : State) (e : Nat) (cx : Fin 4) : State :=
  s.modElement e (fun y => { y with ctxs := vset y.ctxs cx { y.ctxs.get cx with parked := true, woken := false } })

/-- The port has accepted an access of a context, which waits for something other than a translation, a snoop's answer, a landing register or a link
(R134): it is tried again in any cycle. -/
def State.acceptAccess (s : State) (e : Nat) (cx : Fin 4) : State :=
  s.modElement e (fun y => { y with ctxs := vset y.ctxs cx { y.ctxs.get cx with parked := true, woken := true } })

/-- What an element's access gives: its result; a cause; a wait for a queue entry, a register or a link; a snoop asked for; a miss. -/
inductive ElMem where
  | ok (s : State) (d : Dword)
  | fail (s : State) (c : Cause)
  | wait (s : State)
  | asks (s : State)
  | park (s : State)

/-- When the tokens that a word waits for had all come: the latest arrival among the heads of its FIFO sources; none while one is missing, is a
marker, or the control token does not let it fire. -/
def Element.reached (y : Element) (w : ElWord) : Option Nat :=
  let heads := (fifoPorts w.a w.b).map y.head
  let goes := w.ctl == 0 || y.ctlHead == some (w.ctl == 1)
  if goes ∧ heads.all (fun t => t.any (fun u => u.kind.1 != kMarker)) then some (heads.foldl (fun m t => max m (t.elim 0 (·.arrival))) 0) else none

/-- Whether an access of context `cx` waits behind an ordering token of another context that reached the port before it (R134). An access that
the port has accepted already does not. -/
def Element.behindOrdt (y : Element) (cx : Fin 4) (w : ElWord) : Bool :=
  !(y.ctxs.get cx).parked && (List.finRange 4).any (fun c =>
    let x := y.ctxs.get c
    c != cx && x.armed && !x.isGrove && decide (0 < x.len) && x.word.op == 0x23 && (fifoPorts x.word.a x.word.b).length != 0
      && (match y.reached x.word, y.reached w with
        | some o, some n => (fifoPorts w.a w.b).length == 0 || decide (o < n)
        | _, _ => false))

/-- A memory operation fired: its result, or an error token in its place (R133, R292). -/
def State.memOp (s : State) (e : Nat) (cx : Fin 4) (w : ElWord) (f : State → Cap → Dword → Dword → ElMem) : ElOut :=
  s.withCtl e cx w.ctl (fun took =>
    let y := s.seen e
    let x := y.ctxs.get cx
    let ports := fifoPorts w.a w.b
    let shot := fun (st : State) (k : Nat) (d : Dword) => st.shoot e cx w.imm { takes := ports, ctl := took, sends := [(w.dst, k, d)] }
    match joinKinds (ports.map y.head) with
    | .stalls => .stalls s
    | .pass k d => shot s k d
    | .bad => shot s kError (s.errorData e cx .tokalign)
    | .data =>
      if y.behindOrdt cx w ∨ !s.clear e cx { takes := ports, ctl := took, sends := [(w.dst, kData, 0)] } then .stalls s
      else match f s (s.elCap e x.capSlot) (y.val x w.imm w.a) (y.val x w.imm w.b) with
        | .ok s1 d => shot s1 kData d
        | .fail s1 c => shot s1 kError (s.errorData e cx c)
        | .wait s1 => .stalls (s1.acceptAccess e cx)
        | .asks s1 => .begins (s1.acceptAccess e cx) true
        | .park s1 => .begins (s1.park e cx) false)

/-- The address of a memory operation. -/
def elAddr (k : Cap) (a : Dword) : Nat := (k.cursor + a.setWidth 56).toNat

/-- `ld` (R292). -/
def elLd (w : ElWord) (s : State) (e : Nat) (cx : Fin 4) : ElOut :=
  s.memOp e cx w (fun s k a _ =>
    let n := 2 ^ (w.var % 4)
    let va := elAddr k a
    match s.checked (s.elAccess e cx) k va n n permR 0 with
    | .fault s1 c _ => .fail s1 c
    | .miss s1 => .park s1
    | .ok s1 pa _ =>
      let give := fun (st : State) (bs : List Byte) =>
        ElMem.ok st (if 4 ≤ w.var then sextTo64 (8 * n) (leNat bs) else BitVec.ofNat 64 (leNat bs))
      if isPlain pa then
        if s1.inRing pa then .fail s1 .perm
        else if s1.linkDown pa then .wait s1
        else if s1.poisoned pa n then .fail s1 .eccerr
        else give s1 (s1.peek pa n)
      else match s1.deviceBytes pa n with
        | none => .fail s1 .buserr
        | some bs => give s1.tick bs)

/-- `st` (R292): it sends a once the store is performed. -/
def elSt (w : ElWord) (s : State) (e : Nat) (cx : Fin 4) : ElOut :=
  s.memOp e cx w (fun s k a b =>
    let n := 2 ^ (w.var % 4)
    let va := elAddr k a
    match s.checked (s.elAccess e cx) k va n n permW 1 with
    | .fault s1 c _ => .fail s1 c
    | .miss s1 => .park s1
    | .ok s1 pa _ =>
      let bs := leBytes n b.toNat
      if isPlain pa then
        if s1.inRing pa then .fail s1 .perm
        else if s1.linkDown pa then .wait s1
        else match s1.snoop pa n with
          | some s2 => .asks s2
          | none => .ok (s1.writePlain pa bs) a
      else match s1.piecesRefused pa n with
        | some c => .fail s1 c
        | none => if s1.piecesHeld pa n then .wait s1 else .ok (s1.putPieces .outside pa bs) a)

/-- `tas` (R292, R177, R178). -/
def elTas (w : ElWord) (s : State) (e : Nat) (cx : Fin 4) : ElOut :=
  s.memOp e cx w (fun s k a b =>
    let va := elAddr k a
    let acc := s.elAccess e cx
    match s.located acc k va 8 8 (permR + permW + permA) 3 with
    | .fault s1 c _ => .fail s1 c
    | .miss s1 => .park s1
    | .ok s1 pa _ =>
      if regionOf pa = 3 ∨ regionOf pa = 4 then .fail s1 .buserr
      else match s1.route acc k.hasG pa with
        | some c => .fail s1 c
        | none =>
          if (coreWindow? pa).isSome then .fail s1 .window
          else if regionOf pa = 0x10 then .fail s1 .buserr
          else if s1.inRing pa then .fail s1 .perm
          else if s1.linkDown pa then .wait s1
          else if s1.poisoned pa 8 then .fail s1 .eccerr
          else
            let old := s1.peekD pa
            match s1.atomicPut pa (amoF 10 old b 0) with
            | .inl s2 => .asks s2
            | .inr s2 => .ok s2 (dbit (old.getLsbD (b.toNat % 64))))

/-- `ordt` (R292): a token of any kind goes on once every access that the port has accepted is performed. -/
def elOrdt (w : ElWord) (s : State) (e : Nat) (cx : Fin 4) : ElOut :=
  s.withCtl e cx w.ctl (fun took =>
    let y := s.seen e
    let x := y.ctxs.get cx
    let ports := fifoPorts w.a w.b
    if ports.any (fun p => match y.head p with
        | some t => t.kind.1 == kMarker
        | none => true) ∨ (List.finRange 4).any (fun c => (y.ctxs.get c).parked) then .stalls s
    else match y.offer x w.imm w.a with
      | none => s.shoot e cx w.imm { takes := ports, ctl := took }
      | some (k, d, _) => s.shoot e cx w.imm { takes := ports, ctl := took, sends := [(w.dst, k, d)] })

/-- Whether an element's tile is held by a marker that has been sent on EXIT (R294), or frozen for a fold (R389). -/
def State.tileHeld (s : State) (e : Nat) : Bool := (s.fabOf e).any (fun p => p.2.hold.isSome || p.2.folding)

/-- The oldest status token of a context leaves, once it is there and its destination accepts (R293), whichever context runs. -/
def State.emitStatus (s : State) (e : Nat) (cx : Fin 4) : Option State :=
  let x := (s.element e).ctxs.get cx
  match x.statuses with
  | p :: r =>
    match p.word with
    | some w =>
      if !s.tileHeld e ∧ s.accepts e x { sends := [(p.dst.1, kData, w)] } then
        let s1 := s.modElement e (fun y => { y with ctxs := vset y.ctxs cx { x with statuses := r, t := w } })
        some (s1.deliver e x 1 p.reg.1 (p.dst.1, kData, w))
      else none
    | none => none
  | [] => none

/-- A status token of any context of an element that can leave. -/
def State.anyStatus (s : State) (e : Nat) : Option State := (List.finRange 4).findSome? (fun cx => s.emitStatus e cx)

/-- The request that four tokens make (R264). -/
def State.xferRequest (s : State) (e : Nat) (cx : Fin 4) (w : ElWord) (img : List Dword) : ElMem :=
  let x := (s.element e).ctxs.get cx
  let src := s.elCap e x.capSlot
  let dst := s.elCap e (x.capSlot + 1)
  let xop := (engReq img).xop
  let op : EngOp := if xop = 0 then .cp else if xop = 1 then .cpg else .cps
  match s.fabOf e with
  | none => .fail s .fabcall
  | some (f, t) =>
    let quad := match t.call.map (·.caller) with
      | some (.quad q) => some q
      | _ => none
    if xop = 3 then .fail s .engformat
    else match s.engCheck (s.elAccess e cx) op img src dst (.fabric f) quad xop with
      | .fault s1 c _ => .fail s1 c
      | .miss s1 => .park s1
      | .ok s1 _ =>
        let n := engineQueueOf (islandOfElement e) op img
        if 32 ≤ (s1.eng n).entries.length then .wait s1
        else
          let seq := (s1.eng n).nextSeq
          let s2 := s1.modEng n (·.append (.request op img src dst (.element e cx n) (.fabric f) seq))
          let x1 := { x with statuses := x.statuses ++ [⟨n, seq, Fin.ofNat 8 w.dst, Fin.ofNat 32 w.imm, none⟩] }
          .ok (s2.modElement e (fun y => { y with ctxs := vset y.ctxs cx x1 })) 0

/-- `xfer` (R293, R264): the next of four data tokens at SRCA is taken; a FIFO at SRCB gives a token along with it, which only decides the
kind (R279, R281). -/
def elXfer (w : ElWord) (s : State) (e : Nat) (cx : Fin 4) : ElOut :=
  s.withCtl e cx w.ctl (fun took =>
    let y := s.seen e
    let x := y.ctxs.get cx
    let q := x.ws
    let ports := fifoPorts w.a w.b
    let heads := ports.map y.head
    let h : Shot := { takes := ports, ctl := took }
    let err := fun (st : State) (d : Dword) => st.shoot e cx w.imm { h with sends := [(w.dst, kError, d)], ws := some { q with xfer := [] } }
    if w.a = 7 ∨ heads.any (fun t => !t.any (fun u => u.kind.1 != kMarker)) then .stalls s
    else match (heads.filterMap id).find? (fun t => t.kind.1 == kError), y.offer x w.imm w.a, y.offer x w.imm w.b with
      | some t, _, _ => err s t.data
      | none, some (k, d, _), b =>
        if k ≠ kData then err s (s.errorData e cx .engformat)
        else if b.any (fun o => o.1 != kData) then err s (s.errorData e cx .tokalign)
        else if q.xfer.length < 3 then s.shoot e cx w.imm { h with ws := some { q with xfer := q.xfer ++ [d] } }
        else if !s.clear e cx h then .stalls s
        else match s.xferRequest e cx w (q.xfer ++ [d]) with
          | .ok s1 _ => s1.shoot e cx w.imm { h with ws := some { q with xfer := [] } }
          | .fail s1 c => err s1 (s.errorData e cx c)
          | .wait s1 => .stalls s1
          | .asks s1 => .begins s1 true
          | .park s1 => .begins (s1.park e cx) false
      | none, none, _ => .stalls s)

/-- The operation of a word (Table 6-8). -/
def elBody (w : ElWord) : State → Nat → Fin 4 → ElOut :=
  match w.op with
  | 0x00 => elAdd w | 0x01 => elSub w | 0x02 => elAnd w | 0x03 => elOr w | 0x04 => elXor w
  | 0x05 => elShl w | 0x06 => elShr w | 0x07 => elSra w | 0x08 => elMul w | 0x09 => elMin w
  | 0x0A => elMax w | 0x0B => elCmp w | 0x0C => elSel w | 0x10 => elFadd w | 0x11 => elFmul w
  | 0x12 => elFma w | 0x13 => elCvt w | 0x18 => elSteer w | 0x19 => elOmrg w | 0x1A => elUmrg w
  | 0x1B => elKmrg w | 0x1C => elCarry w | 0x1D => elInv w | 0x1E => elPermit w | 0x1F => elGen w
  | 0x20 => elLd w | 0x21 => elSt w | 0x22 => elTas w | 0x23 => elOrdt w | 0x28 => elIsect w
  | 0x29 => elCnt w | 0x2A => elXfer w | 0x2B => elSink w | 0x3F => elNop w
  | _ => fun s _ _ => .stalls s


end Sys2Proof.Machine
end

