-- ==== Sys2Proof/Machine/FabricWords.lean ====
section
/-! DEFINITION. The meanings of the element words (Table 6-8, Table 12-3), one for each: the running context of the current element
fires its word, or the element stalls (R279, R282). -/
namespace Sys2Proof.Machine

/-- An element operation by the running context of the current element. -/
def State.runEl (s : State) (f : State → Nat → Fin 4 → ElOut) : Host.Outcome State Fault Refusal :=
  .next (f s s.curEl (s.element s.curEl).running).state

/-- `add` (R283). -/
def execFeAdd (d a b : Fin 8) (c : Fin 4) (i : Fin 4096) (s : State) : Host.Outcome State Fault Refusal :=
  s.runEl (elAdd ⟨0x00, d.1, a.1, b.1, c.1, 0, i.1⟩)

/-- `sub` (R283). -/
def execFeSub (d a b : Fin 8) (c : Fin 4) (i : Fin 4096) (s : State) : Host.Outcome State Fault Refusal :=
  s.runEl (elSub ⟨0x01, d.1, a.1, b.1, c.1, 0, i.1⟩)

/-- `and` (R283). -/
def execFeAnd (d a b : Fin 8) (c : Fin 4) (i : Fin 4096) (s : State) : Host.Outcome State Fault Refusal :=
  s.runEl (elAnd ⟨0x02, d.1, a.1, b.1, c.1, 0, i.1⟩)

/-- `or` (R283). -/
def execFeOr (d a b : Fin 8) (c : Fin 4) (i : Fin 4096) (s : State) : Host.Outcome State Fault Refusal :=
  s.runEl (elOr ⟨0x03, d.1, a.1, b.1, c.1, 0, i.1⟩)

/-- `xor` (R283). -/
def execFeXor (d a b : Fin 8) (c : Fin 4) (i : Fin 4096) (s : State) : Host.Outcome State Fault Refusal :=
  s.runEl (elXor ⟨0x04, d.1, a.1, b.1, c.1, 0, i.1⟩)

/-- `shl` (R283). -/
def execFeShl (d a b : Fin 8) (c : Fin 4) (i : Fin 4096) (s : State) : Host.Outcome State Fault Refusal :=
  s.runEl (elShl ⟨0x05, d.1, a.1, b.1, c.1, 0, i.1⟩)

/-- `shr` (R283). -/
def execFeShr (d a b : Fin 8) (c : Fin 4) (i : Fin 4096) (s : State) : Host.Outcome State Fault Refusal :=
  s.runEl (elShr ⟨0x06, d.1, a.1, b.1, c.1, 0, i.1⟩)

/-- `sra` (R283). -/
def execFeSra (d a b : Fin 8) (c : Fin 4) (i : Fin 4096) (s : State) : Host.Outcome State Fault Refusal :=
  s.runEl (elSra ⟨0x07, d.1, a.1, b.1, c.1, 0, i.1⟩)

/-- `mul` (R283). -/
def execFeMul (d a b : Fin 8) (c : Fin 4) (v : Fin 8) (i : Fin 4096) (s : State) : Host.Outcome State Fault Refusal :=
  s.runEl (elMul ⟨0x08, d.1, a.1, b.1, c.1, v.1, i.1⟩)

/-- `min` (R283). -/
def execFeMin (d a b : Fin 8) (c : Fin 4) (v : Fin 8) (i : Fin 4096) (s : State) : Host.Outcome State Fault Refusal :=
  s.runEl (elMin ⟨0x09, d.1, a.1, b.1, c.1, v.1, i.1⟩)

/-- `max` (R283). -/
def execFeMax (d a b : Fin 8) (c : Fin 4) (v : Fin 8) (i : Fin 4096) (s : State) : Host.Outcome State Fault Refusal :=
  s.runEl (elMax ⟨0x0A, d.1, a.1, b.1, c.1, v.1, i.1⟩)

/-- `cmp` (R283). -/
def execFeCmp (d a b : Fin 8) (c : Fin 4) (v : Fin 8) (i : Fin 4096) (s : State) : Host.Outcome State Fault Refusal :=
  s.runEl (elCmp ⟨0x0B, d.1, a.1, b.1, c.1, v.1, i.1⟩)

/-- `sel` (R283). -/
def execFeSel (d a b : Fin 8) (i : Fin 4096) (s : State) : Host.Outcome State Fault Refusal :=
  s.runEl (elSel ⟨0x0C, d.1, a.1, b.1, 0, 0, i.1⟩)

/-- `fadd` (R283). -/
def execFeFadd (d a b : Fin 8) (c : Fin 4) (v : Fin 8) (i : Fin 4096) (s : State) : Host.Outcome State Fault Refusal :=
  s.runEl (elFadd ⟨0x10, d.1, a.1, b.1, c.1, v.1, i.1⟩)

/-- `fmul` (R283). -/
def execFeFmul (d a b : Fin 8) (c : Fin 4) (i : Fin 4096) (s : State) : Host.Outcome State Fault Refusal :=
  s.runEl (elFmul ⟨0x11, d.1, a.1, b.1, c.1, 0, i.1⟩)

/-- `fma` (R283). -/
def execFeFma (d a b : Fin 8) (c : Fin 4) (v : Fin 8) (i : Fin 4096) (s : State) : Host.Outcome State Fault Refusal :=
  s.runEl (elFma ⟨0x12, d.1, a.1, b.1, c.1, v.1, i.1⟩)

/-- `cvt` (R283). -/
def execFeCvt (d a b : Fin 8) (c : Fin 4) (v : Fin 8) (i : Fin 4096) (s : State) : Host.Outcome State Fault Refusal :=
  s.runEl (elCvt ⟨0x13, d.1, a.1, b.1, c.1, v.1, i.1⟩)

/-- `steer` (R284). -/
def execFeSteer (d a b : Fin 8) (i : Fin 4096) (s : State) : Host.Outcome State Fault Refusal :=
  s.runEl (elSteer ⟨0x18, d.1, a.1, b.1, 0, 0, i.1⟩)

/-- `omrg` (R285). -/
def execFeOmrg (d a b : Fin 8) (i : Fin 4096) (s : State) : Host.Outcome State Fault Refusal :=
  s.runEl (elOmrg ⟨0x19, d.1, a.1, b.1, 0, 0, i.1⟩)

/-- `umrg` (R285). -/
def execFeUmrg (d a b : Fin 8) (c : Fin 4) (i : Fin 4096) (s : State) : Host.Outcome State Fault Refusal :=
  s.runEl (elUmrg ⟨0x1A, d.1, a.1, b.1, c.1, 1, i.1⟩)

/-- `kmrg` (R286). -/
def execFeKmrg (d a b : Fin 8) (c : Fin 4) (v : Fin 8) (i : Fin 4096) (s : State) : Host.Outcome State Fault Refusal :=
  s.runEl (elKmrg ⟨0x1B, d.1, a.1, b.1, c.1, v.1, i.1⟩)

/-- `carry` (R287). -/
def execFeCarry (d a b v : Fin 8) (i : Fin 4096) (s : State) : Host.Outcome State Fault Refusal :=
  s.runEl (elCarry ⟨0x1C, d.1, a.1, b.1, 0, v.1, i.1⟩)

/-- `inv` (R287). -/
def execFeInv (d a b : Fin 8) (i : Fin 4096) (s : State) : Host.Outcome State Fault Refusal :=
  s.runEl (elInv ⟨0x1D, d.1, a.1, b.1, 0, 0, i.1⟩)

/-- `permit` (R288). -/
def execFePermit (d a b : Fin 8) (c : Fin 4) (i : Fin 4096) (s : State) : Host.Outcome State Fault Refusal :=
  s.runEl (elPermit ⟨0x1E, d.1, a.1, b.1, c.1, 0, i.1⟩)

/-- `gen` (R289). -/
def execFeGen (d a b : Fin 8) (c : Fin 4) (v : Fin 8) (i : Fin 4096) (s : State) : Host.Outcome State Fault Refusal :=
  s.runEl (elGen ⟨0x1F, d.1, a.1, b.1, c.1, v.1, i.1⟩)

/-- `ld` (R292). -/
def execFeLd (d a b : Fin 8) (c : Fin 4) (v : Fin 8) (i : Fin 4096) (s : State) : Host.Outcome State Fault Refusal :=
  s.runEl (elLd ⟨0x20, d.1, a.1, b.1, c.1, v.1, i.1⟩)

/-- `st` (R292). -/
def execFeSt (d a b : Fin 8) (c : Fin 4) (v : Fin 8) (i : Fin 4096) (s : State) : Host.Outcome State Fault Refusal :=
  s.runEl (elSt ⟨0x21, d.1, a.1, b.1, c.1, v.1, i.1⟩)

/-- `tas` (R292). -/
def execFeTas (d a b : Fin 8) (c : Fin 4) (i : Fin 4096) (s : State) : Host.Outcome State Fault Refusal :=
  s.runEl (elTas ⟨0x22, d.1, a.1, b.1, c.1, 0, i.1⟩)

/-- `ordt` (R292). -/
def execFeOrdt (d a b : Fin 8) (c : Fin 4) (i : Fin 4096) (s : State) : Host.Outcome State Fault Refusal :=
  s.runEl (elOrdt ⟨0x23, d.1, a.1, b.1, c.1, 0, i.1⟩)

/-- `isect` (R286). -/
def execFeIsect (d a b : Fin 8) (c : Fin 4) (v : Fin 8) (i : Fin 4096) (s : State) : Host.Outcome State Fault Refusal :=
  s.runEl (elIsect ⟨0x28, d.1, a.1, b.1, c.1, v.1, i.1⟩)

/-- `cnt` (R290). -/
def execFeCnt (d a b : Fin 8) (c : Fin 4) (i : Fin 4096) (s : State) : Host.Outcome State Fault Refusal :=
  s.runEl (elCnt ⟨0x29, d.1, a.1, b.1, c.1, 0, i.1⟩)

/-- `xfer` (R293). -/
def execFeXfer (d a b : Fin 8) (c : Fin 4) (i : Fin 4096) (s : State) : Host.Outcome State Fault Refusal :=
  s.runEl (elXfer ⟨0x2A, d.1, a.1, b.1, c.1, 0, i.1⟩)

/-- `sink` (R291). -/
def execFeSink (d a b : Fin 8) (c : Fin 4) (v : Fin 8) (i : Fin 4096) (s : State) : Host.Outcome State Fault Refusal :=
  s.runEl (elSink ⟨0x2B, d.1, a.1, b.1, c.1, v.1, i.1⟩)

/-- `nop` (R280, R283). -/
def execFeNop (d a b : Fin 8) (c : Fin 4) (i : Fin 4096) (s : State) : Host.Outcome State Fault Refusal :=
  s.runEl (elNop ⟨0x3F, d.1, a.1, b.1, c.1, 0, i.1⟩)

end Sys2Proof.Machine
end

