-- ==== Sys2Proof/Machine/FabricTile.lean ====
section
/-! DEFINITION. Fabric tiles: images and their checks (R275, R276), calls (R295 to R297), splices (R278), grafts (R356, R390, R391), folds
(R389), markers and context switches of elements (R282, R294), node pairs (R298 to R301). -/
namespace Sys2Proof.Machine

/-- The state with a fabric tile, where it exists, replaced. -/
def State.setFab (s : State) (f : Nat) (t : FabTile) : State := { s with fabrics := mapPut f t s.fabrics }

/-- A fabric tile. -/
def State.fab? (s : State) (f : Nat) : Option FabTile := mapFind s.fabrics f

/-- Elements of a tile's blocks, each block once, fused-off ones left out (R22, R30). -/
def State.tileElements (s : State) (f : Nat) (t : FabTile) : List Nat :=
  ((List.range (8 * (t.heightM1.1 + 1))).flatMap (fun y => (List.range (8 * (t.widthM1.1 + 1))).map (fun x => tileElement f x y))).filter
    (fun e => !s.isFused e)

/-- Every listed element of a tile changed. -/
def State.modTile (s : State) (f : Nat) (t : FabTile) (g : Nat → Element → Element) : State :=
  { s with elements := s.elements.map (fun (e, y) => (e, if t.holds f e then g e y else y)) }

/-! Checks of words and records (R276). -/

/-- Whether a word is one of Table 12-3 in every field (R149, R276, R280, R283, R289). -/
def ElWord.ok (w : ElWord) : Bool :=
  let ports := w.dst != 5 && !((w.dst == 4 || w.a == 4 || w.b == 4) && (w.a == 5 || w.b == 5))
  let c := w.ctl != 3
  ports && (match w.op with
    | 0x00 => c && w.var == 0 | 0x01 => c && w.var == 0 | 0x02 => c && w.var == 0 | 0x03 => c && w.var == 0
    | 0x04 => c && w.var == 0 | 0x05 => c && w.var == 0 | 0x06 => c && w.var == 0 | 0x07 => c && w.var == 0
    | 0x08 => c && decide (w.var ≤ 2) | 0x09 => c && decide (w.var ≤ 1) | 0x0A => c && decide (w.var ≤ 1)
    | 0x0B => c && decide (w.var ≤ 5) | 0x0C => w.ctl == 0 && w.var == 0 | 0x10 => c && decide (w.var ≤ 1)
    | 0x11 => c && w.var == 0 | 0x12 => c && decide (w.var ≤ 1) && !(w.var == 1 && (w.a == 5 || w.b == 5))
    | 0x13 => c && decide (w.var ≤ 6) | 0x18 => w.ctl == 0 && w.var == 0 && (decide (w.imm % 8 ≤ 3) || w.imm % 8 == 7)
    | 0x19 => w.ctl == 0 && w.var == 0 | 0x1A => c && w.var == 1 | 0x1B => c && decide (w.var ≤ 1)
    | 0x1C => w.ctl == 0 && decide (w.var ≤ 1) | 0x1D => w.ctl == 0 && w.var == 0 | 0x1E => c && w.var == 0
    | 0x1F => c && decide (w.imm % 32 + 2 ≤ 31) && (w.var / 2 % 2 == 0 || w.a == 7)
    | 0x20 => c | 0x21 => c && decide (w.var ≤ 3) | 0x22 => c && w.var == 0 | 0x23 => c && w.var == 0
    | 0x28 => c && decide (w.var ≤ 1) | 0x29 => c && w.var == 0 | 0x2A => c && w.var == 0 | 0x2B => c && decide (w.var ≤ 1)
    | 0x3F => w.var == 0 && (c || (w.dst == 7 && w.a == 7 && w.b == 7))
    | _ => false)

/-- The output ports that a word sends on. -/
def ElWord.outPorts (w : ElWord) : List (Fin 4) := fifoPorts w.dst (if w.op = 0x18 then w.imm % 8 else 7)

/-- Whether a word is a memory operation. -/
def ElWord.isMem (w : ElWord) : Bool := decide (0x20 ≤ w.op ∧ w.op ≤ 0x23) || w.op == 0x2A

/-- Whether a word sends on the control output. -/
def ElWord.sendsCtl (w : ElWord) : Bool := w.op == 0x0B || w.op == 0x18

/-- The words of a context in use. -/
def ElCtx.live (x : ElCtx) : List ElWord := (List.range (min x.len 16)).map (fun i => elWord (x.words.get (Fin.ofNat 16 i)))

/-- Whether a route field is well formed: RSVD, offsets of a neighbour route 0, a bypass on the port's own line and at least two
away (R271, R276). -/
def routeForm (p : Fin 4) (r : BitVec 16) : Bool :=
  let dx := off7 (bitsOf r.toNat 8 7)
  let dy := off7 (bitsOf r.toNat 1 7)
  !r.getLsbD 0 && (if r.getLsbD 15 then
      match p with
      | 0 => dx == 0 && decide (dy ≤ -2)
      | 1 => dy == 0 && decide (2 ≤ dx)
      | 2 => dx == 0 && decide (2 ≤ dy)
      | 3 => dy == 0 && decide (dx ≤ -2)
    else dx == 0 && dy == 0)

/-- Whether a port that is used leads to a usable element of the tile, or is the tile's EXIT (R276, log entry 19). -/
def State.routeLeads (s : State) (f : Nat) (t : FabTile) (exit : BitVec 16) (e : Nat) (p : Fin 4) (r : BitVec 16) : Bool :=
  (slotValid exit && tileElement f (slotX exit) (slotY exit) == e && slotPort exit == p)
    || (routeForm p r && match stepFrom e (routeStep p r) with
      | some e2 => t.holds f e2 && !s.isFused e2
      | none => false)

/-- The check of one context record (R276): of its words, those in use, the first LEN (DEDUCED: log entry 104). -/
def State.ctxOk (s : State) (f : Nat) (t : FabTile) (exit : BitVec 16) (e : Nat) (x : ElCtx) : Bool :=
  let ws := x.live
  let cr := x.croute
  decide (x.len ≤ 16) && x.fmt != 3 && bitsOf x.ctlw.toNat 10 38 == 0 && !cr.testBit 0
    && (List.finRange 4).all (fun p => !(x.routes.get p).getLsbD 0 && ((x.routes.get p).getLsbD 15 || (x.routes.get p).toNat % 2 ^ 15 == 0))
    && (!ws.any ElWord.sendsCtl || !cr.testBit 15 || match stepFrom e (off7 (bitsOf cr 8 7), off7 (bitsOf cr 1 7)) with
      | some e2 => t.holds f e2 && !s.isFused e2
      | none => false)
    && ws.all (fun w => w.ok && w.outPorts.all (fun p => s.routeLeads f t exit e p (x.routes.get p))
      && (decide (w.op < 0x10 ∨ 0x13 < w.op) || x.fmt != 0)
      && (!w.isMem || (isPortElement (elX e) (elY e) && x.capEn))
      && (w.ctl != 3 || decide (w.imm / 256 < x.len)))

/-- The local registers that a word may write. -/
def ElWord.writes (w : ElWord) : List Nat :=
  (if w.dst = 4 then [w.imm % 32] else []) ++ (if w.op = 0x1E ∨ w.op = 0x29 ∨ (w.op = 0x2B ∧ w.var = 1) then [w.imm % 32] else [])

/-- No other word of the element writes the registers of a `gen` (R289). -/
def genAlone (ws : List ElWord) : Bool :=
  ws.zipIdx.all (fun g => g.1.op != 0x1F || ws.zipIdx.all (fun w =>
    w.2 == g.2 || w.1.writes.all (fun r => decide (r < g.1.imm % 32 ∨ g.1.imm % 32 + 2 < r))))

/-! Images (R275). -/

/-- Bytes of a block record. -/
def recordBytes : Nat := 36880

/-- The header of an image: MAGIC, VERSION, extents, CTXMASK, NBLK, SPLICE, slots (Table 12-4). -/
structure ImgHead where
  wm1 : Nat
  hm1 : Nat
  mask : BitVec 4
  nblk : Nat
  splice : Nat
  slots : List (BitVec 16)
  deriving DecidableEq, Repr

/-- The header's own checks (R276): reserved bits and values, MAGIC, VERSION, HCRC; `none` where one fails. -/
def imgHead (bs : List Byte) : Option ImgHead :=
  let d := fun (i lo n : Nat) => bitsOf (dwordAt bs (8 * i)).toNat lo n
  let slots := (List.range 7).map (fun i => BitVec.ofNat 16 (leNat ((bs.drop (16 + 2 * i)).take 2)))
  if d 0 0 32 = 0x47464A48 ∧ d 0 32 8 = 1 ∧ d 0 43 3 ≤ 6 ∧ 1 ≤ d 0 50 6 ∧ d 0 50 6 ≤ 56 ∧ d 0 56 8 = 0 ∧ d 1 56 8 = 0 ∧ d 3 48 16 = 0
      ∧ d 4 0 64 = 0 ∧ d 5 0 64 = 0 ∧ d 6 0 64 = 0 ∧ d 7 32 32 = 0 ∧ d 7 0 32 = crc32c (bs.take 56) ∧ slots.all (fun x => !x.getLsbD 14) then
    some ⟨d 0 40 3, d 0 43 3, BitVec.ofNat 4 (d 0 46 4), d 0 50 6, d 1 0 56, slots⟩
  else none

/-- Whether every valid slot names an element of the tile. -/
def State.slotsOk (s : State) (f : Nat) (t : FabTile) (slots : List (BitVec 16)) : Bool :=
  slots.all (fun x => !slotValid x || (decide (slotX x < 8 * (t.widthM1.1 + 1) ∧ slotY x < 8 * (t.heightM1.1 + 1))
    && !s.isFused (tileElement f (slotX x) (slotY x))))

/-- A context record. -/
def ctxOfBytes (bs : List Byte) : ElCtx :=
  { words := Vector.ofFn (fun i => BitVec.ofNat 32 (leNat ((bs.drop (4 * i.1)).take 4)))
    ctlw := dwordAt bs 64
    routes := Vector.ofFn (fun i => BitVec.ofNat 16 (leNat ((bs.drop (72 + 2 * i.1)).take 2))) }

/-- The contexts of a mask. -/
def maskCtxs (m : BitVec 4) : List (Fin 4) := (List.finRange 4).filter (fun c => m.getLsbD c.1)

/-- One block record checked (R276, R356): its block, or the cause. -/
def State.blockCheck (s : State) (f : Nat) (t : FabTile) (h : ImgHead) (seen : List Nat) (bs : List Byte) : Except Cause (Nat × Nat) :=
  let hdr := leNat (bs.take 8)
  let col := bitsOf hdr 0 3
  let row := bitsOf hdr 3 3
  if bitsOf (leNat (bs.drop 36872)) 0 32 ≠ crc32c (bs.take 36872) then .error .cfgcrc
  else if hdr / 64 ≠ 0 ∨ leNat (bs.drop 36876) ≠ 0 ∨ t.widthM1.1 < col ∨ t.heightM1.1 < row ∨ seen.contains (8 * row + col)
      ∨ s.isFused (tileElement f (8 * col) (8 * row)) then .error .cfgformat
  else
    let good := (List.range 64).all (fun k =>
      let e := tileElement f (8 * col + k % 8) (8 * row + k / 8)
      let rec_ := (bs.drop (8 + 576 * k)).take 576
      let ctxs := (maskCtxs h.mask).map (fun c => ctxOfBytes ((rec_.drop (256 + 80 * c.1)).take 80))
      ctxs.all (s.ctxOk f t (h.slots.getD 6 0) e) && genAlone (ctxs.flatMap (·.live)))
    if good then .ok (col, row) else .error .cfgformat

/-- The configurations that a block record gives the contexts asked for. -/
def blockCfg (f : Nat) (cs : List (Fin 4)) (col row : Nat) (bs : List Byte) : List (Nat × ElCtx) :=
  (List.range 64).flatMap (fun k =>
    let e := tileElement f (8 * col + k % 8) (8 * row + k / 8)
    cs.map (fun c => (4 * e + c.1, ctxOfBytes ((bs.drop (8 + 576 * k + 256 + 80 * c.1)).take 80))))

/-- The initial local registers that a block record gives its elements (R275). -/
def blockRegs (f col row : Nat) (bs : List Byte) : List (Nat × Vector Dword 32) :=
  (List.range 64).map (fun k =>
    (tileElement f (8 * col + k % 8) (8 * row + k / 8), Vector.ofFn (fun i => dwordAt bs (8 + 576 * k + 8 * i.1))))

/-- What reading an image gives: all of it or a prefix of its records with the cause that stopped it; or a wait for a translation. -/
inductive ImgGot where
  | got (s : State) (st : Staged) (stop : Option Cause)
  | wait (s : State)

/-- Block records taken one after another from `at_` on, at most `n` (R356). -/
def State.readBlocks (s : State) (a : Access) (k : Cap) (f : Nat) (t : FabTile) (h : ImgHead) (cs : List (Fin 4)) :
    Nat → Nat → List Nat → Staged → ImgGot
  | 0, _, _, st => .got s st none
  | n + 1, at_, seen, st =>
    match k.check at_ recordBytes permR with
    | some c => .got s st (some c)
    | none =>
      match s.engRead a k true (recordBytes / 4096 + 2) at_ recordBytes [] with
      | .wait s1 _ => .wait s1
      | .bytes s1 _ (some (c, _)) => .got s1 st (some c)
      | .bytes s1 bs none =>
        match s1.blockCheck f t h seen bs with
        | .error c => .got s1 st (some c)
        | .ok (col, row) =>
          s1.readBlocks a k f t h cs n (at_ + recordBytes) ((8 * row + col) :: seen)
            { st with blocks := st.blocks ++ [8 * row + col], cfg := (blockCfg f cs col row bs).foldl (fun m p => mapPut p.1 p.2 m) st.cfg
                      regs := st.regs ++ blockRegs f col row bs }

/-- The loading stall's authority over an image that it reads (R278), which covers every address: as much of it as any image takes, from the 4 MiB
in which this one starts. -/
def stallCap (va : Nat) : Cap :=
  let base := va / 2 ^ 22 * 2 ^ 22
  mkCap (permR + 128) base (min 1023 ((2 ^ 56 - base) / 2 ^ 22) * 2 ^ 22) 22 va

/-- An image read and checked (R276, R278, R356), through a capability or with the loading stall's authority: header first, then the records; `want` says what CTXMASK must be and which contexts
are taken from the records. -/
def State.readImage (s : State) (a : Access) (kb : Option Cap) (va f : Nat) (t : FabTile) (want : BitVec 4 → Bool) (cs : BitVec 4 → List (Fin 4)) :
    ImgGot :=
  let k := kb.getD (stallCap va)
  let none_ : Staged := ⟨0, [], 0, kb, 1, [], [], []⟩
  match k.check va 64 permR with
  | some c => .got s none_ (some c)
  | none =>
    match s.engRead a k true 2 va 64 [] with
    | .wait s1 _ => .wait s1
    | .bytes s1 _ (some (c, _)) => .got s1 none_ (some c)
    | .bytes s1 bs none =>
      match imgHead bs with
      | none => .got s1 none_ (some .cfgformat)
      | some h =>
        if h.wm1 ≠ t.widthM1.1 ∨ h.hm1 ≠ t.heightM1.1 ∨ !want h.mask ∨ !s1.slotsOk f t h.slots then .got s1 none_ (some .cfgformat)
        else s1.readBlocks a k f t h (cs h.mask) h.nblk (va + 64) [] ⟨h.mask, h.slots, h.splice, kb, h.nblk, [], [], []⟩

/-- A configuration put in place of a context's (R276, R390): what moves as it fires starts afresh; l and FIFOs stay. -/
def ElCtx.configured (cfg : ElCtx) : ElCtx :=
  { cfg with armed := false, wpc := 0, t := 0, parked := false, woken := false, wst := [], statuses := [] }

/-- Staged configurations installed in contexts of every element of the tile; elements without a record take the reset values. An element to
which a record gives words takes its initial local registers too (R275, R320, log entry 73). -/
def State.install (s : State) (f : Nat) (t : FabTile) (cs : List (Fin 4)) (cfg : List (Nat × ElCtx)) (regs : List (Nat × Vector Dword 32)) : State :=
  let s1 := s.modTile f t (fun _ y => cs.foldl (fun y c => { y with ctxs := vset y.ctxs c {} }) y)
  let s2 := cfg.foldl (fun st p => if cs.any (fun c => c.1 == p.1 % 4) then
      st.modElement (p.1 / 4) (fun y => { y with ctxs := vset y.ctxs (Fin.ofNat 4 p.1) p.2.configured })
    else st) s1
  regs.foldl (fun st p => if cs.any (fun c => decide ((mapGet {} cfg (4 * p.1 + c.1)).len ≠ 0)) then
      st.modElement p.1 (fun y => { y with l := p.2 })
    else st) s2

/-- The committed image after contexts of it are replaced. -/
def imageWith (f : Nat) (t : FabTile) (cs : List (Fin 4)) (cfg : List (Nat × ElCtx)) : List (Nat × ElCtx) :=
  cfg.foldl (fun m p => if cs.any (fun c => c.1 == p.1 % 4) then mapPut p.1 p.2 m else m)
    (t.image.filter (fun p => !(t.holds f (p.1 / 4) && cs.any (fun c => c.1 == p.1 % 4))))

/-- The initial local registers of the committed image after contexts of it are replaced (R275, R374). -/
def imageRegsWith (t : FabTile) (cs : List (Fin 4)) (cfg : List (Nat × ElCtx)) (regs : List (Nat × Vector Dword 32)) : List (Nat × Vector Dword 32) :=
  regs.foldl (fun m p => if cs.any (fun c => decide ((mapGet {} cfg (4 * p.1 + c.1)).len ≠ 0)) then mapPut p.1 p.2 m else m) t.imageRegs

/-! Requests. -/

/-- The accesses that a fabric tile makes with the authority of a requesting tile. -/
def State.fabAccess (s : State) (f : Nat) (caller : TileRef) : Access :=
  ⟨.fabric f, islandOfFab (ftIsland f / 32) (ftIsland f % 32), (s.tileJob caller).getD 0, s.privOfTile caller,
   match caller with
   | .quad q => s.isArbor q
   | .fabric _ => false, none⟩

/-- Whether a tile is between calls and may perform a request of its queue (R296, R311, R390). -/
def FabTile.between (t : FabTile) : Bool := t.call.isNone && t.committing.isNone && !t.splicing && t.hold.isNone

/-- Room of a call queue (R296). -/
def FabTile.room (t : FabTile) : Bool := decide (t.queue.length + t.prunes.length < 8)

/-- A tile of the issuing job on the issuing die (R296, R310). -/
def State.mayCall (s : State) (f : Nat) (t : FabTile) : Bool := t.job == s.jobOf s.cur && f / 2 ^ 14 == s.cur.1 / 1024

/-- `fab.call` (R296): a release, so after the context's own stores (R135). -/
def execFabCall (st : Fin 8) (d : Fin 32) (k : Fin 16) (v : Fin 32) (s : State) : Host.Outcome State Fault Refusal :=
  s.run st (.v v :: (if k.1 = 0 then [] else [.k k, .k (k + 1), .k (k + 2), .k (k + 3)])) [.g d] 0 (fun s1 =>
    let x := s1.my
    let img := dwordsOf 8 (leBytes 128 (x.rv v).toNat)
    let d0 := (img.getD 0 0).toNat
    let f := bitsOf d0 0 16
    let arm := BitVec.ofNat 4 (bitsOf d0 16 4)
    let nops := bitsOf d0 20 3
    if d0 / 2 ^ 23 ≠ 0 ∨ f % 8 ≠ 0 ∨ img.getD 7 0 ≠ 0 ∨ 6 < nops ∨ arm = 0 then .raise .fabcall 0
    else match s1.fab? f with
      | none => .raise .fabcall 0
      | some t =>
        if !s1.mayCall f t then .raise .perm 0
        else if !t.room then .wait .resource s1
        else
          let (s2, empty) := s1.drainMine
          if !empty then .wait .resource s2
          else
            let caps := (List.range 4).map (fun i => if k.1 = 0 then ({} : Cap) else x.rkN (k.1 + i))
            let s3 := s2.modFab f (fun t => { t with
              queue := t.queue ++ [.call t.callSeq arm ((img.drop 1).take nops) caps (.quad (s2.cur.1 / 4))]
              callSeq := t.callSeq + 1, nextSeq := t.nextSeq + 1 })
            .vars s3 [.g d (BitVec.ofNat 64 (f * 65536 + t.callSeq.toNat))])

/-- Whether a call with a sequence number is queued or in progress. -/
def FabTile.pendingCall (t : FabTile) (seq : BitVec 16) : Bool :=
  t.call.any (fun c => c.seq == seq) || t.queue.any (fun r => match r with
    | .call q _ _ _ _ => q == seq
    | _ => false)

/-- `fab.wait` (R297). -/
def execFabWait (st : Fin 8) (d a : Fin 32) (s : State) : Host.Outcome State Fault Refusal :=
  s.run st [.g a] [.g d] 0 (fun s1 =>
    let h := (s1.my.rg a).toNat
    let seq := BitVec.ofNat 16 h
    match s1.fab? (h / 65536) with
    | none => .raise .fabcall 0
    | some t =>
      if t.job ≠ s1.jobOf s1.cur then .raise .fabcall 0
      else if t.pendingCall seq then .wait .call s1
      else match t.history.find? (fun p => p.1 == seq) with
        | some p => .vars s1 [.g d p.2]
        | none => .raise .fabcall 0)

/-- `gr.load` (R310). -/
def execGrLoad (st : Fin 8) (d : Fin 32) (k : Fin 16) (v : Fin 32) (s : State) : Host.Outcome State Fault Refusal :=
  s.run st [.v v, .k k] [.g d] 0 (fun s1 =>
    let x := s1.my
    let d0 := laneOf 64 (x.rv v) 0
    let d1 := laneOf 64 (x.rv v) 1
    let f := d0 % 65536
    let c := x.rk k
    let va := c.cursor.toNat
    if d0 / 65536 ≠ 0 ∨ d1 / 2 ^ 40 ≠ 0 then .raise .fabcall 0
    else match s1.fab? f with
      | none => .raise .fabcall 0
      | some t =>
        if !s1.mayCall f t then .raise .perm 0
        else if va % 64 ≠ 0 then .raise .align (BitVec.ofNat 64 va)
        else match s1.readRange c va d1 with
          | .fault s2 e a => .raiseIn s2 e (BitVec.ofNat 64 a)
          | .miss s2 => .wait .miss s2
          | .ok s2 _ eff =>
            if eff then .raise .perm (BitVec.ofNat 64 va)
            else if !t.room then .wait .resource s2
            else
              let (s3, empty) := s2.drainMine
              if !empty then .wait .resource s3
              else
                .regs ((s3.modFab f (fun t => { t with
                  queue := t.queue ++ [.grove t.callSeq (.reg s3.cur s3.me d) c d1 (.quad (s3.cur.1 / 4))]
                  callSeq := t.callSeq + 1, nextSeq := t.nextSeq + 1 })).modMy
                  (fun y => y.await (.g d))) [])

/-- The tile of a `graft` or `prune` request (R356): FABCALL without one, BUSERR in another partition. -/
def State.graftTile (s : State) (f : Nat) : Except Cause FabTile :=
  match s.fab? f with
  | none => .error .fabcall
  | some t => if s.reaches (s.cur.1 / 1024) (f / 2 ^ 14) then .ok t else .error .buserr

/-- A request of `graft` or `prune` appended (R356), after the context's own stores. -/
def State.graftIssue (s : State) (d : Fin 32) (f : Nat) (add : FabTile → StatusTo → FabTile) : Res :=
  match s.graftTile f with
  | .error c => .raise c 0
  | .ok t =>
    if !t.room then .wait .resource s
    else
      let (s1, empty) := s.drainMine
      if !empty then .wait .resource s1
      else .regs ((s1.modFab f (fun t => { add t (.reg s1.cur s1.me d) with nextSeq := t.nextSeq + 1 })).modMy (fun y => y.await (.g d))) []

/-- `graft` (R356). -/
def execGraft (st : Fin 8) (d a : Fin 32) (b : Fin 16) (s : State) : Host.Outcome State Fault Refusal :=
  s.run st [.g a, .k b] [.g d] 0 (fun s1 =>
    let n := (s1.my.rg a).toNat
    let ctx : Fin 4 := Fin.ofNat 4 (bitsOf n 16 2)
    let op := bitsOf n 18 2
    let me := TileRef.quad (s1.cur.1 / 4)
    let c := s1.my.rk b
    if n / 2 ^ 20 ≠ 0 ∨ op = 3 then .raise .fabcall 0
    else s1.graftIssue d (n % 65536) (fun t to_ => { t with queue := t.queue ++ [match op with
      | 0 => .stage t.nextSeq to_ ctx c me
      | 1 => .commit t.nextSeq to_ ctx me
      | _ => .discard t.nextSeq to_ ctx me] }))

/-- `prune` (R356). -/
def execPrune (st : Fin 8) (d a : Fin 32) (b : Fin 16) (s : State) : Host.Outcome State Fault Refusal :=
  s.run st [.g a, .k b] [.g d] 0 (fun s1 =>
    let n := (s1.my.rg a).toNat
    let c := s1.my.rk b
    let me := TileRef.quad (s1.cur.1 / 4)
    if n / 2 ^ 24 ≠ 0 ∨ bitsOf n 22 2 = 3 then .raise .fabcall 0
    else s1.graftIssue d (n % 65536) (fun t to_ => { t with
      prunes := t.prunes ++ [⟨t.nextSeq, to_, Fin.ofNat 8 (bitsOf n 16 3), Fin.ofNat 8 (bitsOf n 19 3), Fin.ofNat 4 (bitsOf n 22 2), c, me⟩] }))

/-! Calls. -/

/-- A context armed (R279, R287, R289, R296). -/
def ElCtx.arm (x : ElCtx) : ElCtx :=
  let ws := ((List.range x.live.length).zip x.live).filterMap (fun (i, w) =>
    if w.op = 0x1C ∧ w.var % 2 = 1 then some (i, ({ loop := true, primed := true } : WordSt))
    else if w.op = 0x1F ∧ w.var / 2 % 2 = 1 then some (i, { gen := some 0 })
    else none)
  { x with armed := x.len != 0 || x.isGrove, wpc := 0, t := 0, wst := ws }

/-- A context disarmed: an access that is parked stays undone, its token in the FIFO. -/
def ElCtx.disarm (x : ElCtx) : ElCtx := { x with armed := false, parked := false, woken := false }

/-- A run of `gen` that would send nothing is not left in progress when it is armed. -/
def Element.settleGens (y : Element) : Element :=
  { y with ctxs := y.ctxs.map (fun x => { x with wst := x.wst.map (fun (i, w) =>
      (i, if w.gen.isSome ∧ genTotal (elWord (x.words.get (Fin.ofNat 16 i))) y = 0 then { w with gen := none } else w)) }) }

/-- The check of the generators of armed contexts (R289): the first failing cause. -/
def State.genCheck (s : State) (f : Nat) (t : FabTile) (arm : BitVec 4) (caps : Vector Cap 4) : Option Cause :=
  s.elements.findSome? (fun (e, y) =>
    if !t.holds f e then none
    else (maskCtxs arm).findSome? (fun c =>
      let x := y.ctxs.get c
      x.live.findSome? (fun w =>
        if w.op = 0x1F ∧ w.var % 2 = 1 then
          let p := w.imm % 32
          let k := caps.get x.capSlot
          let n := (y.l.get (Fin.ofNat 32 (p + 2))).toNat
          (List.range n).findSome? (fun i =>
            k.check (elAddr k (y.l.get (Fin.ofNat 32 p) + BitVec.ofNat 64 i * y.l.get (Fin.ofNat 32 (p + 1)))) 8 permR)
        else none)))

/-- A call's status kept among the last 64 (R297). -/
def FabTile.record (t : FabTile) (seq : BitVec 16) (done : Nat) (err : BitVec 8) : FabTile :=
  { t with history := ((seq, statusWord done err seq) :: t.history).take 64 }

/-- Operands injected into their ENTRY slots in order, as far as there is room (R296), at most `n`. -/
def State.inject (f : Nat) : Nat → State → State
  | 0, s => s
  | n + 1, s =>
    match (s.fab? f), (s.fab? f).bind (·.call) with
    | some t, some c =>
      match c.ops with
      | (i, d) :: r =>
        let slot := t.slots.getD i 0
        let e := tileElement f (slotX slot) (slotY slot)
        if ((s.element e).fifos.get (slotPort slot)).length < fifoRoom then
          State.inject f n ((s.pushFifo e (slotPort slot) kData d t.cycle).modFab f (fun t => { t with call := some { c with ops := r } }))
        else s
      | [] => s
    | _, _ => s

/-- Whether an untriggered `gen` of the contexts armed is still to send its first token and can: that goes before any operand (R289, R296, R336). -/
def State.genDue (s : State) (f : Nat) (arm : BitVec 4) : Bool :=
  s.elements.any (fun (e, y) => (s.fab? f).any (fun t => t.holds f e) && (maskCtxs arm).any (fun c =>
    let x := y.ctxs.get c
    decide (0 < x.len) && x.word.op == 0x1F && x.ws.gen == some 0 && (decide (s.nowAt e < y.free) || match elGen x.word s e c with
      | .fired _ => true
      | _ => false)))

/-- The operands of the call in progress injected, once every generator has begun. -/
def State.injectOps (s : State) (f : Nat) (arm : BitVec 4) (n : Nat) : State := if s.genDue f arm then s else State.inject f n s

/-- The clock of the core whose quad's QUIESCETO governs a held marker. -/
def State.quadClock (s : State) (q : Nat) : Nat := (s.core (4 * q)).clock

/-- A held marker waits on in a call. -/
def ElHold.go (h : ElHold) (clock : Nat → Nat) : ElHold := if h.since.isSome then h else { h with since := some (clock h.quad) }

/-- A held marker between calls: the wait does not count (R294). -/
def ElHold.pause (h : ElHold) (clock : Nat → Nat) : ElHold :=
  { h with waited := h.waited + h.since.elim 0 (fun t => clock h.quad - t), since := none }

/-- A node's fields (Table 13-3). -/
structure Node where
  sgn : Nat
  w : Nat
  sa : Nat
  sb : Nat
  a : Nat
  b : Nat
  outm : Nat
  valid : Bool
  deriving DecidableEq, Repr

/-- A node record. -/
def nodeOf (d : Dword) : Node :=
  let n := d.toNat
  ⟨bitsOf n 62 2, bitsOf n 60 2, bitsOf n 50 6, bitsOf n 44 6, bitsOf n 41 3, bitsOf n 38 3, bitsOf n 34 4, d.getLsbD 33⟩

/-- The FIFOs that a node reads. -/
def Node.ports (n : Node) : List (Fin 4) := if n.valid then fifoPorts n.a n.b else []

/-- Whether a node takes node 0's result (R299). -/
def Node.readsX (n : Node) : Bool := n.valid && (n.a == 4 || n.b == 4)

/-- The output ports of a node. -/
def Node.outs (n : Node) : List (Fin 4) := if n.valid then (List.finRange 4).filter (fun p => n.outm.testBit p.1) else []

/-- The FIFOs that the word or pair of a context takes, and the ports that a marker goes out on (R294, R301). -/
def ElCtx.markerPorts (x : ElCtx) : List (Fin 4) × List Nat :=
  if x.isGrove then
    let n0 := nodeOf x.node0
    let n1 := nodeOf x.node1
    ((n0.ports ++ n1.ports).eraseDups, (n0.outs ++ n1.outs).map (·.1))
  else
    let w := x.word
    ((fifoPorts w.a w.b).eraseDups, if w.op = 0x18 then [w.dst, w.imm % 8] else [w.dst])

/-- The marker that heads a FIFO. -/
def Element.markerAt (y : Element) (p : Fin 4) : Option Dword :=
  match y.head p with
  | some t => if t.kind.1 = kMarker then some t.data else none
  | none => none

/-- The contexts of an element from the running one on. -/
def Element.order (y : Element) : List (Fin 4) := [y.running, y.running + 1, y.running + 2, y.running + 3]

/-- The armed contexts of an element whose words have a FIFO source, from the running one on. -/
def Element.readers (y : Element) (p : Fin 4) : List (Fin 4) := y.order.filter (fun c => (y.ctxs.get c).armed && (y.ctxs.get c).markerPorts.1.contains p)

/-- The quad that made a fabric tile's call. -/
def FabTile.callQuad (t : FabTile) : Option Nat :=
  match t.call with
  | some k =>
    match k.caller with
    | .quad q => some q
    | .fabric _ => none
  | none => none

/-- An element with the markers that it holds noted (R294): those that it held already, while they stand, and those that have come since, each for
a word that holds another one if there is such a word. -/
def FabTile.noteHold (t : FabTile) (clock : Nat → Nat) (y : Element) : Element :=
  let z := y.arrived t.cycle
  let old := y.holds.filter (fun h => (z.markerAt h.port).isSome)
  match t.callQuad with
  | none => { y with holds := old }
  | some q =>
    let add := fun (l : List ElHold) (p : Fin 4) =>
      if (z.markerAt p).isNone ∨ l.any (fun h => h.port == p) then l
      else match ((z.readers p).find? (fun c => l.any (fun h => h.ctx == c))) <|> (z.readers p).head? with
        | some c => l ++ [⟨c, p, q, 0, some (clock q)⟩]
        | none => l
    { y with holds := (List.finRange 4).foldl add old }

/-- An element when a call of its tile ends: every context disarmed (R296), the waits of held markers stopped (R294). -/
def Element.endOfCall (y : Element) (clock : Nat → Nat) : Element :=
  { y with ctxs := y.ctxs.map ElCtx.disarm, holds := y.holds.map (fun h => h.pause clock) }

/-- An element as a call begins: the contexts armed, and the waits of held markers go on. -/
def Element.armFor (y : Element) (arm : BitVec 4) (clock : Nat → Nat) : Element :=
  ((maskCtxs arm).foldl (fun (z : Element) c => { z with ctxs := vset z.ctxs c (z.ctxs.get c).arm })
    { y with holds := y.holds.map (fun h => h.go clock) }).settleGens

/-- The call at the head of the queue starts, or its operands go on being injected (R296). -/
def State.startCall (s : State) (f : Nat) : State :=
  match s.fab? f with
  | none => s
  | some t =>
    match t.call, t.queue with
    | some c, _ => s.injectOps f c.arm c.ops.length
    | none, .call seq arm ops caps caller :: rest =>
      if !t.between then s
      else
        let usable := t.ctxMask ||| t.groveMask
        let staged := (maskCtxs arm).any (fun c => (t.staged.get c).isSome)
        let slots := (List.range ops.length).all (fun i => slotValid (t.slots.getD i 0))
        let caps : Vector Cap 4 := Vector.ofFn (fun i => caps.getD i.1 {})
        let fail := fun (c : Cause) => s.setFab f ({ t with queue := rest }.record seq 0 (code8 c))
        if arm &&& ~~~usable ≠ 0 ∨ staged ∨ !slots then fail .fabcall
        else match s.genCheck f t arm caps with
          | some c => fail c
          | none =>
            let s1 := s.modTile f t (fun _ y => y.armFor arm s.quadClock)
            (s1.setFab f { t with
              queue := rest, caps := caps, exitQ := [], spliceCall := t.splice.isSome
              call := some { seq := seq, caller := caller, arm := arm, ops := (List.range ops.length).zip ops } }).injectOps f arm ops.length
    | _, _ => s

/-- CALL_START (R296). -/
def execCallStart (f : Fin 65536) (s : State) : Host.Outcome State Fault Refusal := .next (s.startCall f)

/-- EXIT_TOKEN (R296): data counted; the first error sets ERR and posts a record to the caller. -/
def execExitToken (f : Fin 65536) (s : State) : Host.Outcome State Fault Refusal :=
  .next (match s.fab? f with
    | none => s
    | some t =>
      match t.exitQ, t.call with
      | k :: r, some c =>
        let t1 := { t with exitQ := r }
        if k.kind.1 = kData then s.setFab f { t1 with call := some { c with done := c.done + 1 } }
        else if k.kind.1 = kStop then s.setFab f t1
        else if k.kind.1 = kError then
          (if c.err = 0 then
            (s.setFab f { t1 with call := some { c with err := k.data.setWidth 8 } }).reportToken f c.caller k.data c.seq.toNat
           else s.setFab f t1)
        else s
      | _, _ => s)

/-- The call in progress ended. -/
def State.endCall (s : State) (f : Nat) (t : FabTile) : State :=
  match t.call with
  | some c =>
    ((s.modTile f t (fun _ y => (t.noteHold s.quadClock y).endOfCall s.quadClock)).setFab f
      { t.record c.seq c.done c.err with call := none, exitQ := [], splicing := t.spliceCall && t.splice.isSome, spliceCall := false }).noteBusy
      (islandOfFab (ftIsland f / 32) (ftIsland f % 32))
  | none => s

/-- CALL_END (R296, R278): at the done token the call ends, every context is disarmed, and a pending splice starts. A marker that is held waits
on in the next call (R294). -/
def execCallEnd (f : Fin 65536) (s : State) : Host.Outcome State Fault Refusal :=
  .next (match s.fab? f with
    | none => s
    | some t =>
      match t.exitQ, t.call with
      | k :: _, some _ =>
        if k.kind.1 = kDone then
          s.endCall f t
        else s
      | _, _ => s)

/-! Splices (R278). -/

/-- The successor at SPLICE read and held as the pending splice; a failure leaves none and posts a report to the tile. -/
def State.fetchSplice (s : State) (f : Nat) (a : Access) (k : Option Cap) (splice : Nat) (mask : BitVec 4) : Sum State State :=
  match s.fab? f with
  | none => .inr s
  | some t =>
    if splice = 0 then .inr (s.setFab f { t with splice := none })
    else match s.readImage a k splice f t (· == mask) maskCtxs with
      | .wait s1 => .inl s1
      | .got s1 st none => .inr (s1.modFab f (fun t => { t with splice := some st }))
      | .got s1 _ (some c) =>
        .inr ((s1.modFab f (fun t => { t with splice := none })).report (.fabric f)
          { cause := c, src := 2, imp := true, addr := BitVec.ofNat 64 splice, place := BitVec.ofNat 64 (f * 2 ^ 32) })

/-- SPLICE_COMPLETE (R278): the successor's configuration and slots apply; its own successor is read. -/
def execSpliceComplete (f : Fin 65536) (s : State) : Host.Outcome State Fault Refusal :=
  .next (match s.fab? f with
    | none => s
    | some t =>
      match t.splicing, t.splice with
      | true, some st =>
        let cs := maskCtxs st.mask
        let s1 := (s.install f t cs st.cfg st.regs).setFab f { t with
          slots := st.slots, splicing := false, splice := none, image := imageWith f t cs st.cfg, imageRegs := imageRegsWith t cs st.cfg st.regs }
        match s1.fetchSplice f (s.fabAccess f (.fabric f)) st.cap st.splice st.mask with
        | .inl s2 => { s with islands := s2.islands, cores := s2.cores, mem := s2.mem }
        | .inr s2 => s2
      | _, _ => s)

/-! Grafts (R356, R390, R391). -/

/-- The request at the head of a call queue leaves it with its status word. -/
def State.endRequest (s : State) (f : Nat) (seq : BitVec 16) (to_ : StatusTo) (done : Nat) (err : BitVec 8) : State :=
  (s.modFab f (fun t => { t with queue := t.queue.drop 1 })).giveStatus to_ seq (statusWord done err seq)

/-- What a STAGE has staged, put onto what an earlier one left: its blocks replace theirs, and blocks that it does not name stay staged (R356,
log entry 72). -/
def Staged.onto (st : Staged) : Option Staged → Staged
  | none => st
  | some o => { st with
      blocks := (st.blocks ++ o.blocks).eraseDups
      cfg := st.cfg.foldl (fun m p => mapPut p.1 p.2 m) o.cfg
      regs := o.regs.filter (fun p => !st.regs.any (fun q => q.1 == p.1)) ++ st.regs }

/-- Whether every block that the image announces is staged (R356). -/
def Staged.complete (st : Staged) : Bool := decide (st.nblk ≤ st.blocks.length)

/-- GRAFT_STAGE (R356, R391). -/
def execGraftStage (f : Fin 65536) (s : State) : Host.Outcome State Fault Refusal :=
  .next (match s.fab? f with
    | none => s
    | some t =>
      match t.between, t.queue with
      | true, .stage seq to_ ctx k caller :: _ =>
        match s.readImage (s.fabAccess f caller) (some k) k.cursor.toNat f t (fun m => m.getLsbD ctx.1) (fun _ => [ctx]) with
        | .wait s1 => s1
        | .got s1 st stop =>
          let drop : Bool := match stop with
            | some .pagefault => true
            | some .ptformat => true
            | some .eccerr => true
            | some .buserr => true
            | _ => false
          let keep := if st.blocks.isEmpty then t.staged.get ctx else some (st.onto (t.staged.get ctx))
          let s2 := s1.modFab f (fun t => { t with staged := vset t.staged ctx keep })
          (if drop then s2.discardStaged f [ctx] else s2).endRequest f seq to_ st.blocks.length
            (match stop with
              | some c => code8 c
              | none => 0)
      | _, _ => s)

/-- GRAFT_COMMIT (R390): the wavefront of a completely staged context starts; otherwise CFGFORMAT and nothing. A prune that has been accepted goes
first (R391). -/
def execGraftCommit (f : Fin 65536) (s : State) : Host.Outcome State Fault Refusal :=
  .next (match s.fab? f with
    | none => s
    | some t =>
      match t.between && t.prunes.isEmpty, t.queue with
      | true, .commit seq to_ ctx _ :: _ =>
        match t.staged.get ctx with
        | some st => if st.complete then s.setFab f { t with committing := some ctx } else s.endRequest f seq to_ 0 (code8 .cfgformat)
        | none => s.endRequest f seq to_ 0 (code8 .cfgformat)
      | _, _ => s)

/-- COMMIT_COMPLETE (R390): the context and the slots apply, a pending splice is dropped and the image's own successor is read. The spec
gives DONE of a COMMIT no value (log entry 3). -/
def execCommitComplete (f : Fin 65536) (s : State) : Host.Outcome State Fault Refusal :=
  .next (match s.fab? f with
    | none => s
    | some t =>
      match t.committing, t.queue with
      | some ctx, .commit seq to_ _ caller :: _ =>
        match t.staged.get ctx with
        | none => s
        | some st =>
          let bit : BitVec 4 := BitVec.ofNat 4 (2 ^ ctx.1)
          let s1 := (s.install f t [ctx] st.cfg st.regs).setFab f { t with
            slots := st.slots, committing := none, staged := vset t.staged ctx none, splice := none, spliceCall := false
            ctxMask := t.ctxMask ||| bit, groveMask := t.groveMask &&& ~~~bit, image := imageWith f t [ctx] st.cfg
            imageRegs := imageRegsWith t [ctx] st.cfg st.regs }
          match s1.fetchSplice f (s.fabAccess f caller) st.cap st.splice st.mask with
          | .inl s2 => { s with islands := s2.islands, cores := s2.cores, mem := s2.mem }
          | .inr s2 => (s2.endRequest f seq to_ (Config.freeNat s.freeCtr) 0).tick
      | _, _ => s)

/-- GRAFT_DISCARD (R390): the context takes the reset values; DONE counts the blocks dropped. -/
def execGraftDiscard (f : Fin 65536) (s : State) : Host.Outcome State Fault Refusal :=
  .next (match s.fab? f with
    | none => s
    | some t =>
      match t.between, t.queue with
      | true, .discard seq to_ ctx _ :: _ =>
        (s.resetCtxs f [ctx]).endRequest f seq to_ (((t.staged.get ctx).map (·.blocks.length)).getD 0) 0
      | _, _ => s)

/-! Elements between words. -/

/-- An operand of a node (R299): a FIFO's head, read at its bound width where it is a grove input, or node 0's result. -/
def nodeArg (y : Element) (x : ElCtx) (x0 : Int) (c : Nat) : Int :=
  if c = 4 then x0
  else match fifoPort c with
    | none => 0
    | some p =>
      let d := ((y.head p).map (·.data)).getD 0
      if x.bound.getLsbD p.1 then signedOf (if x.int16 then 16 else 8) d.toNat else d.toInt

/-- A node's result (R298). -/
def nodeValue (n : Node) (a b : Int) : Int :=
  let va := a * 2 ^ n.sa
  let vb := if n.b = 7 then 0 else b * 2 ^ n.sb
  match n.sgn with
  | 0 => va + vb
  | 1 => va - vb
  | _ => vb - va

/-- A node pair fired (R300, R301). -/
def pairOut (s : State) (e : Nat) (cx : Fin 4) : ElOut :=
  if !s.mayFire e cx then .stalls s
  else
    let y := s.seen e
    let x := y.ctxs.get cx
    let n0 := nodeOf x.node0
    let n1 := nodeOf x.node1
    let ports := (n0.ports ++ n1.ports).eraseDups
    let all := n0.outs ++ n1.outs
    let lat := if n1.readsX then 2 else 1
    let toAll := fun (k : Nat) (d : Dword) => s.shoot e cx 0 { takes := ports, sends := all.map (fun p => (p.1, k, d)), lat := lat }
    match joinKinds (ports.map y.head) with
    | .stalls => .stalls s
    | .pass k d => toAll k d
    | .bad => toAll kError (s.errorData e cx .tokalign)
    | .data =>
      let v0 := nodeValue n0 (nodeArg y x 0 n0.a) (nodeArg y x 0 n0.b)
      let v1 := nodeValue n1 (nodeArg y x v0 n1.a) (nodeArg y x v0 n1.b)
      s.shoot e cx 0 { takes := ports, lat := lat
                       sends := n0.outs.map (fun p => (p.1, kData, BitVec.ofInt 64 v0)) ++ n1.outs.map (fun p => (p.1, kData, BitVec.ofInt 64 v1)) }

/-- What a context of an element does in its turn. -/
def State.ctxOut (s : State) (e : Nat) (cx : Fin 4) : ElOut :=
  let x := (s.element e).ctxs.get cx
  if x.isGrove then pairOut s e cx else if x.len = 0 then .stalls s else elBody x.word s e cx

/-- Whether a context can fire now, or begin an access. -/
def State.canFire (s : State) (e : Nat) (cx : Fin 4) : Bool :=
  match s.ctxOut e cx with
  | .stalls _ => false
  | _ => true

/-- Whether a running context stalls: its word does not fire, and no access of it is to be parked. -/
def State.stallsNow (s : State) (e : Nat) (cx : Fin 4) : Bool :=
  match s.ctxOut e cx with
  | .fired _ => false
  | .begins _ asked => asked
  | .stalls _ => true

/-- NODE_PAIR_FIRE (R300): the pair of the running context. -/
def execNodePairFire (e : Fin 458752) (s : State) : Host.Outcome State Fault Refusal :=
  .next (if ((s.element e).ctxs.get (s.element e).running).isGrove then (pairOut s e (s.element e).running).state else s)

/-- ELEMENT_CONTEXT_SWITCH (R282): at a stall, the next armed context in round-robin order that can fire; the switch takes the cycle. -/
def execElementContextSwitch (e : Fin 458752) (s : State) : Host.Outcome State Fault Refusal :=
  .next (
    let r := (s.element e).running
    if !s.stallsNow e r then s
    else match ([r + 1, r + 2, r + 3] : List (Fin 4)).find? (fun c => ((s.element e).ctxs.get c).armed && s.canFire e c) with
      | some c => s.modElement e (fun y => { y with running := c, free := s.nowAt e + 1 })
      | none => s)

/-- The armed context whose word's markers an element takes: the first from the running one on at which equal markers stand at every FIFO
source. -/
def Element.markerCtx (y : Element) : Option (Fin 4 × Dword) :=
  (y.order.filter (fun c => (y.ctxs.get c).armed)).findSome? (fun c =>
    let ports := (y.ctxs.get c).markerPorts.1
    (ports.head?.bind y.markerAt).bind (fun m => if ports.all (fun p => y.markerAt p == some m) then some (c, m) else none))

/-- The markers that an element can take now (R294): the context whose word takes them, with what it takes and sends. -/
def State.markerShot (s : State) (e : Nat) : Option (ElCtx × Shot) :=
  let y := s.seen e
  match y.markerCtx with
  | none => none
  | some (c, m) =>
    let x := y.ctxs.get c
    let h : Shot := { takes := x.markerPorts.1, sends := x.markerPorts.2.map (fun p => (p, kMarker, m)) }
    if s.mayFire e c ∧ s.clear e c h then some (x, h) else none

/-- ELEMENT_MARKER_TAKE (R294): equal markers at every FIFO source of a word are taken and sent on; WPC stays. -/
def execElementMarkerTake (e : Fin 458752) (s : State) : Host.Outcome State Fault Refusal :=
  .next (match s.markerShot e with
    | none => s
    | some (x, h) =>
      let s1 := s.modElement e (fun y => { y with
        fifos := h.takes.foldl (fun f p => vset f p ((f.get p).drop 1)) y.fifos, holds := y.holds.filter (fun k => !h.takes.contains k.port) })
      h.sends.foldl (fun st t => st.deliver e x h.lat 0 t) s1)

/-! Cycles (R272, R279). -/

/-- Whether a context's word fires now, or its access begins. -/
def State.goes (s : State) (e : Nat) (c : Fin 4) : Bool :=
  match s.ctxOut e c with
  | .fired _ => true
  | .begins _ asked => !asked
  | .stalls _ => false

/-- Whether an element does anything in the present cycle: a context fires or is switched to, a status token leaves, markers are taken. -/
def State.acts (s : State) (e : Nat) : Bool :=
  (List.finRange 4).any (s.goes e) || (s.anyStatus e).isSome || (s.markerShot e).isSome

/-- The later cycles in which something comes due at an element: a token that is on its way, or the end of the cycle in which it fired. -/
def Element.dues (y : Element) (now : Nat) : List Nat :=
  (y.free :: (y.ctl.map (·.arrival) ++ (List.finRange 4).flatMap (fun p => (y.fifos.get p).map (·.arrival)))).filter (fun n => decide (now < n))

/-- The next cycle in which something comes due at an element of a tile, if any does. -/
def State.nextDue (s : State) (f : Nat) (t : FabTile) : Option Nat :=
  (s.elements.flatMap (fun (e, y) => if t.holds f e then y.dues t.cycle else [])).min?

/-- A tile goes on to the next cycle in which something comes due, once none of its elements does anything in the present one: whatever can fire
in a cycle fires in it (R272, R279). -/
def State.nextCycle (s : State) (f : Nat) : State :=
  match s.fab? f with
  | none => s
  | some t =>
    match s.nextDue f t with
    | none => s
    | some n => if s.elements.any (fun p => t.holds f p.1 && s.acts p.1) then s else s.setFab f { t with cycle := n }

/-- FABRIC_MARKER_EXIT (R294): a marker that has reached EXIT posts MARKER; the tile is held until the answer. -/
def execFabricMarkerExit (f : Fin 65536) (s : State) : Host.Outcome State Fault Refusal :=
  .next (match s.fab? f with
    | none => s
    | some t =>
      match t.exitQ with
      | k :: r =>
        if k.kind.1 = kMarker then
          let rec_ : FaultRec := { cause := .marker, src := 2, aux := k.data.toNat % 2 ^ 32, ans := true, place := BitVec.ofNat 64 (f.1 * 2 ^ 32) }
          match s.pushRecord (.fabric f) rec_ (some .exit) with
          | some s1 => s1.modFab f (fun t => { t with exitQ := r })
          | none => s.wantEx (.fabric f)
        else s
      | [] => s)

/-- PARKED_TOKEN_WAKE (R134): the parked accesses of an element are tried again. -/
def execParkedTokenWake (e : Fin 458752) (s : State) : Host.Outcome State Fault Refusal :=
  .next { s with elements := match mapFind s.elements e with
    | some y => mapPut e { y with ctxs := y.ctxs.map (fun x => { x with woken := true }) } s.elements
    | none => s.elements }

/-- PARITY_REGRAFT (R374): between calls, the blocks of the elements struck are installed again from the committed image, and PARITY is
posted for each element. The initial local registers that the image gives those elements come with them (log entry 73). -/
def execParityRegraft (f : Fin 65536) (s : State) : Host.Outcome State Fault Refusal :=
  .next (match s.fab? f with
    | none => s
    | some t =>
      if !t.between ∨ t.regraft.isEmpty then s
      else
        let block := fun (e : Nat) => (elIsland e, elX e / 8, elY e / 8)
        let s1 := (t.image.filter (fun p => t.regraft.any (fun e => block e == block (p.1 / 4)))).foldl (fun (st : State) p =>
          st.modElement (p.1 / 4) (fun y => { y with ctxs := vset y.ctxs (Fin.ofNat 4 p.1) p.2.configured })) s
        let s2 := (t.imageRegs.filter (fun p => t.regraft.any (fun e => block e == block p.1))).foldl (fun (st : State) p =>
          st.modElement p.1 (fun y => { y with l := p.2 })) s1
        t.regraft.foldl (fun (st : State) e => st.report (.fabric f)
          { cause := .parity, src := 2, imp := true
            place := BitVec.ofNat 64 (f.1 * 2 ^ 32 + (elY e - 8 * ftRow f) * 2 ^ 14 + (elX e - 8 * ftCol f) * 2 ^ 8 + causeCode .parity) })
          (s2.modFab f (fun t => { t with regraft := [] })))

/-! Folds (R389). -/

/-- The local registers that the words of an element name. -/
def Element.regsUsed (y : Element) : List Nat :=
  (((List.finRange 4).flatMap (fun c => (y.ctxs.get c).live)).flatMap (fun w =>
    (if w.dst = 4 ∨ w.a = 4 ∨ w.b = 4 ∨ (w.op = 0x12 ∧ w.var = 1) ∨ (w.op = 0x1C ∧ w.var % 2 = 1) then [w.imm % 32] else []) ++ w.writes
      ++ (if w.op = 0x1F then [w.imm % 32, w.imm % 32 + 1, w.imm % 32 + 2] else []))).eraseDups

/-- The FIFOs that an element's contexts read or that hold tokens. -/
def Element.portsUsed (y : Element) : List (Fin 4) :=
  (List.finRange 4).filter (fun p => !(y.fifos.get p).isEmpty || (List.finRange 4).any (fun c =>
    let x := y.ctxs.get c
    if x.isGrove then x.markerPorts.1.contains p else x.live.any (fun w => (fifoPorts w.a w.b).contains p)))

/-- Whether words of an element take control tokens (R280), or some stand in its control FIFO. -/
def Element.ctlUsed (y : Element) : Bool :=
  !y.ctl.isEmpty || (List.finRange 4).any (fun c => (y.ctxs.get c).live.any (fun w => w.ctl == 1 || w.ctl == 2))

/-- The contexts of an element that hold words or a pair. -/
def Element.ctxsUsed (y : Element) : List (Fin 4) := (List.finRange 4).filter (fun c => (y.ctxs.get c).len != 0 || (y.ctxs.get c).isGrove)

/-- The host port of a guest port. -/
def FoldMove.port (m : FoldMove) (p : Fin 4) : Fin 4 := Fin.ofNat 4 (bitsOf m.pmap (3 * p.1) 3)

/-- A record of a fold image, with its context record; `none` where its CRC fails. -/
def foldRecord (f : Nat) (bs : List Byte) : Option (FoldMove × ElCtx) :=
  let n := leNat (bs.take 8)
  if leNat ((bs.drop 88).take 4) ≠ crc32c (bs.take 88) then none
  else some (⟨tileElement f (bitsOf n 0 6) (bitsOf n 6 6), Fin.ofNat 4 (bitsOf n 12 2), tileElement f (bitsOf n 14 6) (bitsOf n 20 6),
    Fin.ofNat 4 (bitsOf n 26 2), bitsOf n 28 5, bitsOf n 33 12⟩, ctxOfBytes ((bs.drop 8).take 80))

/-- The validity of a fold (R389): CAPACITY where a host cannot hold its guests, CFGFORMAT for the other rules. -/
def State.foldCheck (s : State) (f : Nat) (t t' : FabTile) (rs : List (FoldMove × ElCtx)) : Option Cause :=
  let ms := rs.map (·.1)
  let hosts := (ms.map (·.host)).eraseDups
  let regsOn := fun (h : Nat) => (s.element h).regsUsed ++ ((ms.filter (fun m => m.host == h)).map (·.guest)).eraseDups.flatMap (fun g =>
    let l := ((ms.find? (fun m => m.guest == g)).map (·.lbase)).getD 0
    (s.element g).regsUsed.map (fun i => (i + l) % 32))
  let portsOn := fun (h : Nat) => (s.element h).portsUsed ++ ((ms.filter (fun m => m.host == h)).map (·.guest)).eraseDups.flatMap (fun g =>
    match ms.find? (fun m => m.guest == g) with
    | some m => (s.element g).portsUsed.map m.port
    | none => [])
  let ctlOn := fun (h : Nat) => (h :: ((ms.filter (fun m => m.host == h)).map (·.guest)).eraseDups).countP (fun e => (s.element e).ctlUsed)
  let ctxsOn := fun (h : Nat) => (s.element h).ctxsUsed ++ (ms.filter (fun m => m.host == h)).map (·.hctx)
  if hosts.any (fun h => decide (32 < (regsOn h).length) || decide (4 < (ctxsOn h).length)) then some .capacity
  else if ms.all (fun m => t'.holds f m.host && !s.isFused m.host && t.holds f m.guest && !t'.holds f m.guest)
      && ms.all (fun m => (s.element m.guest).portsUsed.all (fun p => decide (bitsOf m.pmap (3 * p.1) 3 < 4)))
      && hosts.all (fun h => decide (regsOn h).Nodup && decide (portsOn h).Nodup && decide (ctxsOn h).Nodup && decide (ctlOn h ≤ 1))
      && rs.all (fun r => r.2.live.all (fun w => !w.isMem || isPortElement (elX r.1.host) (elY r.1.host))) then none
  else some .cfgformat

/-- What moves of a context: its place in its program and what its words keep. -/
def ElCtx.moved (cfg src : ElCtx) : ElCtx :=
  { cfg with armed := src.armed, wpc := src.wpc, t := src.t, parked := false, wst := src.wst, statuses := src.statuses }

/-- One guest moved onto its host. -/
def State.moveGuest (s : State) (m : FoldMove) (cfg : ElCtx) (first : Bool) : State :=
  let g := s.element m.guest
  s.modElement m.host (fun h => { h with
    l := if first then g.regsUsed.foldl (fun l i => vset l (Fin.ofNat 32 (i + m.lbase)) (g.l.get (Fin.ofNat 32 i))) h.l else h.l
    fifos := if first then (List.finRange 4).foldl (fun fs p => vset fs (m.port p) (fs.get (m.port p) ++ g.fifos.get p)) h.fifos else h.fifos
    ctl := if first then h.ctl ++ g.ctl else h.ctl
    ctxs := vset h.ctxs m.hctx (cfg.moved (g.ctxs.get m.gctx)) })

/-- The blocks of a tile's extent, fused off or not: column and row in the tile. -/
def extentBlocks (t : FabTile) : List (Nat × Nat) :=
  (List.range (t.heightM1.1 + 1)).flatMap (fun y => (List.range (t.widthM1.1 + 1)).map (fun x => (x, y)))

/-- Whether a block, named by its place in a tile, belongs to another tile. -/
def State.blockTaken (s : State) (f : Nat) (b : Nat × Nat) : Bool :=
  s.fabrics.any (fun q => q.1 != f && q.2.holds q.1 (tileElement f (8 * b.1) (8 * b.2)))

/-- The elements of a tile that a smaller extent leaves. -/
def State.vacated (s : State) (f : Nat) (t t' : FabTile) : List Nat := (s.tileElements f t).filter (fun e => !t'.holds f e)

/-- The request at the head of a tile's prunes leaves with its status, and the region is not frozen any more. -/
def State.endPrune (s : State) (f : Nat) (p : PruneReq) (done : Nat) (err : BitVec 8) : State :=
  (s.modFab f (fun t => { t with prunes := t.prunes.drop 1, folding := false })).giveStatus p.dest p.seq (statusWord done err p.seq)

/-- The prune that is performed next: no commit or splice wavefront lies in the region (R389, R392). -/
def State.pruneHead (s : State) (f : Nat) : Option (FabTile × PruneReq) :=
  match s.fab? f with
  | none => none
  | some t =>
    match t.prunes with
    | p :: _ => if t.committing.isSome ∨ t.splicing then none else some (t, p)
    | [] => none

/-- The records of a fold image from `va` on; none where one cannot be read or fails its check (R389). -/
def State.readFold (s : State) (a : Access) (k : Cap) (f va : Nat) : Nat → List (FoldMove × ElCtx) → Sum State (State × Option (List (FoldMove × ElCtx)))
  | 0, acc => .inr (s, some acc)
  | n + 1, acc =>
    match k.check va 96 permR with
    | some _ => .inr (s, none)
    | none =>
      match s.engRead a k true 3 va 96 [] with
      | .wait s1 _ => .inl s1
      | .bytes s1 _ (some _) => .inr (s1, none)
      | .bytes s1 bs none =>
        match foldRecord f bs with
        | none => .inr (s1, none)
        | some r => s1.readFold a k f (va + 96) n (acc ++ [r])

/-- A fold installed (R389 steps 4 and 5). -/
def State.fold (s : State) (f : Nat) (t : FabTile) (p : PruneReq) (slots : List (BitVec 16)) (rs : List (FoldMove × ElCtx)) : State :=
  let t' : FabTile := { t with widthM1 := p.widthM1, heightM1 := p.heightM1 }
  let gone := s.vacated f t t'
  let keep := (s.elements.filter (fun e => t.holds f e.1))
  let s1 := (rs.foldl (fun (acc : State × List Nat) r =>
    (acc.1.moveGuest r.1 r.2 (!acc.2.contains r.1.guest), r.1.guest :: acc.2)) (s, [])).1
  let s2 := { s1 with elements := s1.elements.filter (fun e => !(t.holds f e.1 && !t'.holds f e.1)) }
  let image := rs.foldl (fun m r => mapPut (4 * r.1.host + r.1.hctx.1) r.2 m) (t.image.filter (fun q => t'.holds f (q.1 / 4)))
  let mask := rs.foldl (fun (m : BitVec 4) r => m ||| BitVec.ofNat 4 (2 ^ r.1.hctx.1)) t.ctxMask
  (s2.setFab f { t' with
    slots := slots, image := image, imageRegs := t.imageRegs.filter (fun q => t'.holds f q.1), ctxMask := mask, splice := none, spliceCall := false
    folds := ⟨t.widthM1, t.heightM1, t.slots, rs.map (·.1), keep, t.image, t.imageRegs, t.ctxMask⟩ :: t.folds }).endPrune f p gone.length 0

/-- PRUNE_FOLD (R389): between wavefronts, also during a call. The region is frozen while the fold image is read; an image that cannot be read,
like one that fails its check, ends the request with CFGFORMAT. -/
def execPruneFold (f : Fin 65536) (s : State) : Host.Outcome State Fault Refusal :=
  .next (match s.pruneHead f with
    | some (t, p) =>
      if p.fold = 0 then s
      else
        let s0 := (s.discardStaged f (List.finRange 4)).modFab f (fun u => { u with folding := true })
        let a := s.fabAccess f p.caller
        let va := p.cap.cursor.toNat
        let fail := fun (st : State) (c : Cause) => st.endPrune f p 0 (code8 c)
        match p.cap.check va 64 permR with
        | some _ => fail s0 .cfgformat
        | none =>
          match s0.engRead a p.cap true 2 va 64 [] with
          | .wait s1 _ => s1
          | .bytes s1 _ (some _) => fail s1 .cfgformat
          | .bytes s1 bs none =>
            let d := fun (i lo n : Nat) => bitsOf (dwordAt bs (8 * i)).toNat lo n
            let slots := (List.range 7).map (fun i => BitVec.ofNat 16 (leNat ((bs.drop (8 + 2 * i)).take 2)))
            let t' : FabTile := { t with widthM1 := p.widthM1, heightM1 := p.heightM1 }
            if d 0 0 32 ≠ 0x47464C44 ∨ d 0 32 2 ≠ p.fold.1 ∨ d 0 34 3 ≠ p.widthM1.1 ∨ d 0 37 3 ≠ p.heightM1.1
                ∨ d 7 0 32 ≠ crc32c (bs.take 56) ∨ t.widthM1 < p.widthM1 ∨ t.heightM1 < p.heightM1 ∨ !s1.slotsOk f t' slots then fail s1 .cfgformat
            else match s1.readFold a p.cap f (va + 64) (d 0 40 16) [] with
              | .inl s2 => s2
              | .inr (s2, none) => fail s2 .cfgformat
              | .inr (s2, some rs) =>
                match s2.foldCheck f t t' rs with
                | some c => fail s2 c
                | none => s2.fold f ((s2.fab? f).getD t) p slots rs
    | none => s)

/-- One guest's state moved back from its host. -/
def State.moveBack (s : State) (before : List (Nat × Element)) (m : FoldMove) (first : Bool) : State :=
  let old := mapGet {} before m.guest
  let h := s.element m.host
  let s1 := s.modElement m.guest (fun g => { g with
    l := if first then old.regsUsed.foldl (fun l i => vset l (Fin.ofNat 32 i) (h.l.get (Fin.ofNat 32 (i + m.lbase)))) g.l else g.l
    fifos := if first then Vector.ofFn (fun p => if old.portsUsed.contains p then h.fifos.get (m.port p) else []) else g.fifos
    ctl := if first ∧ old.ctlUsed then h.ctl else g.ctl
    ctxs := vset g.ctxs m.gctx ((old.ctxs.get m.gctx).moved (h.ctxs.get m.hctx)) })
  s1.modElement m.host (fun h => { h with
    fifos := if first then (List.finRange 4).foldl (fun fs p => if old.portsUsed.contains p then vset fs (m.port p) [] else fs) h.fifos else h.fifos
    ctl := if first ∧ old.ctlUsed then [] else h.ctl
    ctxs := vset h.ctxs m.hctx ((mapGet {} before m.host).ctxs.get m.hctx).configured })

/-- PRUNE_UNFOLD (R389): the last fold reversed, where its blocks are free again. -/
def execPruneUnfold (f : Fin 65536) (s : State) : Host.Outcome State Fault Refusal :=
  .next (match s.pruneHead f with
    | some (t0, p) =>
      if p.fold ≠ 0 then s
      else
        let s0 := s.discardStaged f (List.finRange 4)
        let t := (s0.fab? f).getD t0
        match t.folds with
        | [] => s0.endPrune f p 0 (code8 .capacity)
        | d :: rest =>
          let t' : FabTile := { t with widthM1 := d.widthM1, heightM1 := d.heightM1 }
          let back := s0.vacated f t' t
          if p.widthM1 ≠ d.widthM1 ∨ p.heightM1 ≠ d.heightM1
              ∨ ((extentBlocks t').filter (fun b => !(extentBlocks t).contains b)).any (s0.blockTaken f) then
            s0.endPrune f p 0 (code8 .capacity)
          else
            let s1 := { s0 with elements := d.before.foldl (fun m e => if t.holds f e.1 then m else mapPut e.1
                { e.2 with fifos := Vector.replicate 4 [], ctl := [] } m) s0.elements }
            let s2 := (d.moves.foldl (fun (acc : State × List Nat) m =>
              (acc.1.moveBack d.before m (!acc.2.contains m.guest), m.guest :: acc.2)) (s1, [])).1
            (s2.setFab f { t' with
              slots := d.slots, folds := rest, image := d.image, imageRegs := d.imageRegs, ctxMask := d.ctxMask, splice := none, spliceCall := false }).endPrune f p back.length 0
    | none => s)

end Sys2Proof.Machine
end

