-- ==== Sys2Proof/Machine/Sched.lean ====
section
/-! DEFINITION. Firing units (R36 to R40, R82), dispatch (R51), stealing (R52 to R54), the switching of contexts (R55, R56), waits that end
(R15), results and stores that arrive (R127, R145), and markers at actors (R88, R89). -/
namespace Sys2Proof.Machine

/-! Firing units. -/

/-- The order in which a class is searched: after the actor it last fired (R38). -/
def actorOrder (last : Nat) : List Nat := (List.range 64).map (fun i => (last + 1 + i) % 64)

/-- The oldest unreserved items of a consumer port reserved for a firing, urgent ones first (R37, R57); `none` where too few are there. -/
def State.reserveItems (s : State) (c : Nat) (key : FiringKey) : Nat → Queue → Option Queue
  | 0, q => some q
  | n + 1, q =>
    match s.candidate q c none with
    | .item u i => s.reserveItems c key n { q.noteEmpty c with
        items := q.items ++ [⟨key, c, u, i⟩], cons := listModify (ConsPort.count u) c (q.noteEmpty c).cons, lastUse := s.micros }
    | _ => none

/-- One input's items reserved. -/
def State.reserveIn (s : State) (key : FiringKey) (d : PortDecl) : Option State :=
  match s.queue? d.queue with
  | none => none
  | some q =>
    match q.consOf (.tile (.quad key.quad)) with
    | none => none
    | some c => (s.reserveItems c key d.rate q).map (s.setQueue d.queue)

/-- One output's slots reserved (R37): of a queue that is mapped, or of an engine queue. -/
def State.reserveOut (s : State) (key : FiringKey) (d : PortDecl) : Option State :=
  if isEngineId d.queue then
    let e := s.eng d.queue
    if e.entries.length + ((e.slots.map (·.left)).sum) + d.rate ≤ 32 then
      some (s.modEng d.queue (fun e => { e with slots := e.slots ++ [⟨key, 0, d.rate⟩] }))
    else none
  else match s.queue? d.queue with
    | none => none
    | some q =>
      match q.prodOf (.tile (.quad key.quad)) with
      | none => none
      | some p =>
        if q.mapped.isSome ∧ d.rate ≤ q.unreserved p then
          some (s.setQueue d.queue { q with slots := q.slots ++ [⟨key, p, d.rate⟩], lastUse := s.micros })
        else none

/-- Every input and output of an actor reserved at once. -/
def State.reserveAll (s : State) (key : FiringKey) (d : ActorDecl) : Option State :=
  (d.ins.foldlM (fun (st : State) p => st.reserveIn key p) s).bind (fun s1 => d.outs.foldlM (fun (st : State) p => st.reserveOut key p) s1)

/-- The marker at the head of the normal lane of a consumer port (R87). -/
def State.markerAt (s : State) (q : Queue) (c : Nat) : Option (BitVec 32 × BitVec 32) :=
  match q.cons[c]? with
  | none => none
  | some x =>
    if q.mapped.isNone then none
    else match s.laneNext q c x false with
      | some i => if s.kindAt q false i = 1 then some (s.mkidAt q false i, i) else none
      | none => none

/-- The marker at the head of an actor's input. -/
def State.inputMarker (s : State) (quad : Nat) (d : PortDecl) : Option (BitVec 32 × BitVec 32) :=
  match s.queue? d.queue with
  | none => none
  | some q => (q.consOf (.tile (.quad quad))).bind (s.markerAt q)

/-- The marker on which an actor is aligned (R88): at the head of every input, or delivered to an actor without inputs. The head is that of the normal
lane, whatever stands in the urgent one (DESIGN CHOICE: log entry 102). -/
def State.aligned (s : State) (quad : Nat) (a : ActorSt) : Option (BitVec 32) :=
  match a.decl.ins with
  | [] => a.direct
  | p :: r =>
    match s.inputMarker quad p with
    | none => none
    | some (m, _) => if r.all (fun x => (s.inputMarker quad x).map (·.1) == some m) then some m else none

/-- The core whose deque receives an actor's record (R39). -/
def State.homeCore (s : State) (quad : Nat) (d : ActorDecl) : Nat :=
  match d.home with
  | some c => 4 * quad + c.1
  | none =>
    ([1, 2, 3] : List Nat).foldl (fun b i =>
      if (s.core (4 * quad + i)).dequeLen < (s.core b).dequeLen then 4 * quad + i else b) (4 * quad)

/-- Whether the lines of every input tile are full. -/
def State.tilesFull (s : State) (quad : Nat) (d : ActorDecl) : Bool :=
  d.tiles.all (fun t => (List.range t.lines).all (fun i => s.isFull (scratchBase quad + t.off + 128 * i)))

/-- The items that a firing would reserve with a type that its port does not expect (R82), by input and lane (2i + urgent) and index. -/
def State.mismatches (s : State) (key : FiringKey) (d : ActorDecl) : List (Nat × BitVec 32) :=
  (d.ins.zip (List.range d.ins.length)).flatMap (fun (p, i) =>
    match s.queue? p.queue with
    | none => []
    | some q =>
      match q.consOf (.tile (.quad key.quad)) with
      | none => []
      | some c => (q.items.filter (fun r => r.key == key && r.cons == c && p.type != 0 && s.itypeAt q r.urgent r.index != p.type)).map
          (fun r => (2 * i + (if r.urgent then 1 else 0), r.index)))

/-- Readiness (R36, R88): the state with everything reserved, and the items of the wrong type among them. -/
def State.readiness (s : State) (quad a : Nat) : Option (State × List (Nat × BitVec 32)) :=
  match s.actor? quad a with
  | none => none
  | some x =>
    let key : FiringKey := ⟨quad, a, x.fired⟩
    if x.hold ≠ .none ∨ (s.aligned quad x).isSome ∨ x.decl.conc ≤ x.inFlight ∨ !s.tilesFull quad x.decl
        ∨ !s.dequeRoom (s.homeCore quad x.decl) then none
    else (s.reserveAll key x.decl).map (fun s1 => (s1, s1.mismatches key x.decl))

/-- The actors that would fire. -/
def State.readyNow (s : State) (quad a : Nat) : Bool :=
  match s.readiness quad a with
  | some (_, []) => true
  | _ => false

/-- The mismatching items of an actor reported once each (R82); those that are gone from the head are forgotten. -/
def State.reportTypes (s : State) (quad a : Nat) : State :=
  match s.readiness quad a, s.actor? quad a with
  | some (_, bad), some x =>
    let fresh := bad.filter (fun b => !x.mismatch.contains b)
    fresh.foldl (fun (st : State) _ => st.report (.quad quad) { cause := .type, src := 5, who := some (quad, a) })
      (s.modActor quad a (fun y => { y with mismatch := bad }))
  | _, _ => s

/-- A firing (R37 to R39): reservations, the record on the home deque. -/
def State.fire (s : State) (quad a : Nat) : State :=
  match s.readiness quad a, s.actor? quad a with
  | some (s1, []), some x =>
    let home := s.homeCore quad x.decl
    let arg0 : Nat := match x.decl.stateArea with
      | some (o, _) => o
      | none => 0
    let s2 := s1.modActor quad a (fun y => { y with inFlight := y.inFlight + 1, fired := y.fired + 1, mismatch := [] })
    let s3 := s2.modQuad quad (fun q =>
      if x.decl.urgent then { q with lastUrg := a, urgRun := q.urgRun + 1 } else { q with lastNorm := a, urgRun := 0 })
    s3.pushBottom home (mkRecord x.decl.entry (BitVec.ofNat 64 arg0) 0 x.fired home 0 x.decl.urgent x.decl.aff a)
  | _, _ => s

/-- Whether a quad's firing unit works: a tile that is neither pre-empted nor being released (R63, R384, R382), with its clocks on. -/
def State.unitRuns (s : State) (quad : Nat) : Bool :=
  (s.quad quad).ctlState == 0 && s.clocked (4 * quad) && match (s.quad quad).tile with
    | some t => !t.releasing
    | none => false

/-- What a firing unit's look at the queues of its actors leaves: the unmapped ones are asked for (R379), an empty urgent lane sets its port's
count to 0 (R57). -/
def State.wantAll (s : State) (quad : Nat) : State :=
  let seen := fun (st : State) (p : PortDecl) =>
    match (st.queue? p.queue).bind (fun q => q.consOf (.tile (.quad quad))) with
    | some c => st.noteEmpty p.queue c
    | none => st
  match (s.quad quad).tile with
  | some t => t.actors.foldl (fun (st : State) a =>
      a.decl.ins.foldl seen ((a.decl.ins ++ a.decl.outs).foldl (fun (st : State) p => st.want p.queue) st)) s
  | none => s

/-- The actor that a firing unit fires (R38). -/
def State.chooseActor (s : State) (quad : Nat) : Option Nat :=
  let q := s.quad quad
  let isUrg := fun (a : Nat) => ((s.actor? quad a).map (·.decl.urgent)).getD false
  let u := (actorOrder q.lastUrg).find? (fun a => isUrg a && s.readyNow quad a)
  let n := (actorOrder q.lastNorm).find? (fun a => !isUrg a && s.readyNow quad a)
  if 256 ≤ q.urgRun then n <|> u else u <|> n

/-- ACTOR_FIRE (R38). -/
def execActorFire (quad : Fin 1024) (s : State) : Host.Outcome State Fault Refusal :=
  .next (
    if !s.unitRuns quad then s
    else
      let s1 := (List.range 64).foldl (fun (st : State) a => st.reportTypes quad a) (s.wantAll quad)
      match s1.chooseActor quad with
      | some a => s1.fire quad a
      | none => s1)

/-! Dispatch. -/

/-- The place in a deque, bottom first, of the record to dispatch (R51). The top rule stands before the others, so that it bounds the wait
of the top record (R65, log entry 20). -/
def pickRecord (dq : List (BitVec 256)) (urgRun botRun : Nat) : Nat :=
  if 1024 ≤ botRun ∧ 1 < dq.length then dq.length - 1
  else match dq.findIdx? recUrg, dq.findIdx? (fun r => !recUrg r) with
    | some u, some n => if 256 ≤ urgRun then n else u
    | some u, none => u
    | none, _ => 0

/-- The record at place `i` taken out of a deque, with the counts of R51. -/
def State.removeRecord (s : State) (c i : Nat) : State :=
  let l := s.dequeOf c
  let urg := (l[i]?.map recUrg).getD false
  (s.setDeque c (l.eraseIdx i)).modCore c (fun k =>
    if l.length ≤ 1 then { k with urgRun := 0, botRun := 0 }
    else { k with urgRun := if urg then k.urgRun + 1 else 0, botRun := if i + 1 = l.length then 0 else k.botRun + 1 })

/-- The q registers that an actor's port bindings name (R40). -/
def bindPorts (d : ActorDecl) (v : Vector (BitVec 16) 16) : Vector (BitVec 16) 16 :=
  (d.ins ++ d.outs).foldl (fun v p => vset v p.q (BitVec.ofNat 16 p.queue)) v

/-- A record starts on a context (R40): pc, g1 to g3 and, for a firing, the q registers of its actor in the home quad (R53). -/
def State.startRecord (s : State) (c : Nat) (x : Fin 4) (r : BitVec 256) : State :=
  let decl := if recKind r = 0 then (s.actor? (recHome r / 4) (recActor r)).map (·.decl) else none
  s.startCtx c x (fun y => { y with
    run := if recKind r = 0 then .firing r else .task r
    pc := BitVec.ofNat 56 (bitsOf r.toNat 0 56 / 4 * 4)
    g := vset (vset (vset y.g 1 (r.extractLsb' 64 64)) 2 (r.extractLsb' 128 64)) 3 (r.extractLsb' 192 64)
    q := match decl with
      | some d => bindPorts d y.q
      | none => y.q })

/-- Whether a message in the inbox comes before any dispatch (R51, R59). -/
def Core.handlerFirst (k : Core) : Bool := !k.order.isEmpty && (List.finRange 4).all (fun x => !(k.ctxs.get x).inHandler)

/-- DISPATCH (R51). -/
def execDispatch (core : Fin 4096) (s : State) : Host.Outcome State Fault Refusal :=
  .next (
    let k := s.core core
    if !s.mayStart core ∨ k.handlerFirst then s
    else match s.freeCtx core with
      | none => s
      | some x =>
        let i := pickRecord (s.dequeOf core) k.urgRun k.botRun
        match (s.dequeOf core)[i]? with
        | none => s
        | some r => (s.removeRecord core i).startRecord core x r)

/-! Stealing. -/

/-- The cores of ring `r` around a core: its quad, island, stack group, die, the module, each without the ring before (R52). -/
def ringCores (r c : Nat) : List Nat :=
  (List.range 4096).filter (fun v => v != c && coresWithin (r + 1) c v && (r == 0 || !coresWithin r c v))

/-- Requests that a pass sends in a ring (R52). -/
def ringAsks (r : Nat) : Nat := if r = 0 then 3 else 4

/-- The next victim: each core of the quad once, then free choices among the ring's cores (R52, log entry 3). -/
def State.nextVictim (s : State) (c : Nat) : Nat :=
  let t := (s.core c).steal
  if t.ring = 0 then ((List.range 4).map (· + c / 4 * 4)).find? (fun v => v != c && !t.asked.contains v) |>.getD c
  else
    let l := ringCores t.ring c
    l.getD (Config.freeNat s.freeCtr % l.length) c

/-- Whether a core steals (R52, R384): nothing in the deque or inbox, a context free, no back-off and no request on its way. -/
def State.maySteal (s : State) (c : Nat) : Bool :=
  let k := s.core c
  s.mayStart c && k.deque.isEmpty && k.order.isEmpty && (s.freeCtx c).isSome && k.steal.backoffEnd.isNone && k.steal.victim.isNone
    && k.steal.reply.isNone

/-- STEAL_REQUEST (R52). -/
def execStealRequest (core : Fin 4096) (s : State) : Host.Outcome State Fault Refusal :=
  .next (
    if s.maySteal core then
      let v := s.nextVictim core
      (s.modCore core (fun k => { k with steal := { k.steal with victim := some v, asked := k.steal.asked ++ [v] } })).tick
    else s)

/-- Whether a victim hands its top record to a thief (R53, R384): request and reply need bridges that carry them (R16, R345). -/
def State.handsOver (s : State) (v thief : Nat) (r : BitVec 256) : Bool :=
  (s.quad (v / 4)).ctlState == 0 && s.reaches (thief / 1024) (v / 1024) && s.reaches (v / 1024) (thief / 1024) && coresWithin (recAff r) thief (recHome r)
    && (recKind r != 0 || coresWithin 1 thief (recHome r))
    && (v / 4 == thief / 4 || ((s.tileOf v).isSome && (s.tileOf thief).isSome && s.jobOf v == s.jobOf thief))

/-- The top record taken from a deque, with the counts of R51. -/
def State.popTop (s : State) (c : Nat) : State :=
  let rest := (s.dequeOf c).dropLast
  (s.setDeque c rest).modCore c (fun k => if rest.isEmpty then { k with urgRun := 0, botRun := 0 } else k)

/-- STEAL_REQUEST_ARRIVAL (R53): the request of the thief `core` reaches its victim. -/
def execStealRequestArrival (core : Fin 4096) (s : State) : Host.Outcome State Fault Refusal :=
  .next (match (s.core core).steal.victim with
    | none => s
    | some v =>
      let answer := fun (st : State) (r : Option (BitVec 256)) =>
        st.modCore core (fun k => { k with steal := { k.steal with victim := none, reply := some r } })
      match (s.dequeOf v).getLast? with
      | some r => if s.handsOver v core r then answer (s.popTop v) (some r) else answer s none
      | none => answer s none)

/-- A thief after a refusal (R52, R54): the next request of the ring, the next ring, or a back-off. A pass that local work interrupts goes on
later where it stopped (log entry 63). -/
def Core.refused (k : Core) : Core :=
  let t := { k.steal with reply := none }
  if t.asked.length < ringAsks t.ring then { k with steal := t }
  else if t.ring < 4 then { k with steal := { t with ring := t.ring + 1, asked := [] } }
  else { k with steal := { t with ring := 0, asked := [], failed := t.failed + 1
                                  backoffEnd := some (k.clock + min (64 * 2 ^ t.failed) 65536) } }

/-- STEAL_REPLY_ARRIVAL (R53): the stolen record is dispatched; where no context can take it any more, it enters the thief's deque once that
has room (R50). -/
def execStealReplyArrival (core : Fin 4096) (s : State) : Host.Outcome State Fault Refusal :=
  .next (match (s.core core).steal.reply with
    | none => s
    | some none => s.modCore core Core.refused
    | some (some r) =>
      let s1 := s.modCore core (fun k => { k with steal := {} })
      match s1.mayStart core && !(s1.core core).handlerFirst, s1.freeCtx core with
      | true, some x => s1.startRecord core x r
      | _, _ => if s.dequeRoom core then s1.pushBottom core r else s)

/-- STEAL_BACKOFF_END (R54). -/
def execStealBackoffEnd (core : Fin 4096) (s : State) : Host.Outcome State Fault Refusal :=
  .next (match (s.core core).steal.backoffEnd with
    | some d => if d ≤ (s.core core).clock then s.modCore core (fun k => { k with steal := { k.steal with backoffEnd := none } }) else s
    | none => s)

/-! Contexts. -/

/-- The next ready context in round-robin order, the one that stalled last (R56). -/
def Core.nextReady (k : Core) : Option (Fin 4) :=
  ([k.running + 1, k.running + 2, k.running + 3, k.running] : List (Fin 4)).find? (fun x => (k.ctxs.get x).ready)

/-- A core that leaves its running context at a stall event: the switch takes one cycle (R55, R56). -/
def State.switch (s : State) (c : Nat) : State :=
  let k := s.core c
  if k.left ∨ (k.ctxs.get k.running).stalled then
    match k.nextReady with
    | some x => s.modCore c (fun k => { k with running := x, left := false, clock := k.clock + 1 })
    | none => s
  else s

/-- SCOREBOARD_STALL (R55): a scoreboard wait has lasted 8 cycles. -/
def execScoreboardStall (core : Fin 4096) (s : State) : Host.Outcome State Fault Refusal :=
  .next (
    let k := s.core core
    let x := k.ctxs.get k.running
    if (match x.wait with
        | .reg _ => true
        | .resource => true
        | _ => false) && x.since.any (fun t => decide (t + 8 ≤ k.clock)) then
      (s.modCtx core k.running (fun y => { y with waited := 8 })).switch core
    else s)

/-- CONTEXT_SWITCH (R56). -/
def execContextSwitch (core : Fin 4096) (s : State) : Host.Outcome State Fault Refusal := .next (s.switch core)

/-- Whether a context waits on a miss-merging entry of its island. -/
def State.merged (s : State) (c : Nat) (x : Fin 4) : Bool :=
  (s.island (islandOfCore c)).misses.any (fun m => m.clients.contains (.context c x))

/-- WAIT_END (R15, R56): a scoreboard wait for a register ends when the register is written, a pop, barrier or signal wait when its condition
holds, a wait for room or for earlier work when its instruction would wait no more, which the turn of this step finds out
(`State.waitTurn`). Fault and trap waits end by their answers, translation misses by their walks. -/
def execWaitEnd (core : Fin 4096) (ctx : Fin 4) (s : State) : Host.Outcome State Fault Refusal :=
  .next (
    let y := s.ctx core ctx
    let go := s.wakeCtx core ctx (fun y => { y with wait := .none, waited := 0 })
    match y.wait with
    | .none => s
    | .reg r => if y.vars.any (fun p => p.reg == r) || y.landingEmpty r then s else go
    | .resource => go
    | .pop => if s.popReady core ctx then go else s
    | .barrier d pa g => if s.barrierOpen pa g || d.any (fun d => decide (d ≤ (s.core core).clock)) then go else s
    | .signal pa n => if s.signalReached pa n then go else s
    | .call => go
    | .miss => if s.merged core ctx then s else go
    | .fault _ => s
    | .trap => s)

/-- A result of a stopped context goes into its saved image too (R258, R385). -/
def State.saveWrite (s : State) (c : Nat) (x : Fin 4) (w : RegWrite) : State :=
  let b := s.saveAt (c / 4) (0x10000 + 0x2000 * (4 * (c % 4) + x.1))
  match w with
  | .g r v => if r.1 = 0 then s else s.deviceWrite (b + 8 * r.1) (dwordBytes v)
  | .v r v => s.deviceWrite (b + 0x1000 + 128 * r.1) (leBytes 128 v.toNat)
  | .vlo r v => s.deviceWrite (b + 0x1000 + 128 * r.1) (leBytes 64 v.toNat)
  | .m r v => s.deviceWrite (b + 0x200 + 16 * r.1) (leBytes 16 v.toNat)
  | .k r v => if r.1 = 0 then s else (s.deviceWrite (b + 0x100 + 16 * r.1) (leBytes 16 v.bits.toNat)).deviceWrite (b + 0x800 + 8 * r.1)
      (leBytes 8 (if v.tag then 1 else 0))
  | .flags f => s.deviceWrite (b + 0x410) [s.mem.read (b + 0x410) ||| f.setWidth 8]

/-- VARIABLE_RESULT_WRITE (R145): the `n`th pending result of a context is written, where its value is known, behind the results of fixed
latency into the same register that are due by then. Other results wait in their place: an instruction that issued before they were due still reads
what stood before them (R144). -/
def execVariableResultWrite (core : Fin 4096) (ctx : Fin 4) (n : Nat) (s : State) : Host.Outcome State Fault Refusal :=
  .next (match (s.ctx core ctx).vars[n]? with
    | some ⟨_, some w⟩ =>
      let s1 := s.modCtx core ctx (fun y => { (y.landReg w.reg (s.core core).clock).apply w with vars := y.vars.eraseIdx n })
      if (s.ctx core ctx).stopped then s1.saveWrite core ctx w else s1
    | _ => s)

/-- STORE_PERFORMED (R127). -/
def execStorePerformed (core : Fin 4096) (ctx : Fin 4) (s : State) : Host.Outcome State Fault Refusal := .next (s.performOldest core ctx)

/-! Markers at actors. -/

/-- Whether an output takes a marker now (R88 step 3). An engine queue takes markers from `qmark` only (R252). -/
def State.takesMarker (s : State) (quad : Nat) (d : PortDecl) : Bool :=
  isEngineId d.queue || match s.queue? d.queue with
    | none => false
    | some q =>
      match q.prodOf (.tile (.quad quad)) with
      | some p => q.hasRoom none p false 1
      | none => false

/-- A marker pushed onto an output that is no engine queue (R88 step 4, R252). -/
def State.sendMarker (s : State) (quad : Nat) (m : BitVec 32) (d : PortDecl) : State :=
  if isEngineId d.queue then s
  else match (s.queue? d.queue).bind (fun q => q.prodOf (.tile (.quad quad))) with
    | some p => s.push d.queue p none false ⟨1, 0, m, []⟩
    | none => s

/-- A marker removed from an input where it stands at the head. -/
def State.dropMarker (s : State) (quad : Nat) (m : BitVec 32) (d : PortDecl) : State :=
  match s.inputMarker quad d, (s.queue? d.queue).bind (fun q => q.consOf (.tile (.quad quad))) with
  | some (k, i), some c => if k = m then s.passSlots d.queue c false i 1 else s
  | _, _ => s

/-- Steps 5 and 6 of R88: the record, once the exception queue has a free slot for it (R372). -/
def State.postMarker (s : State) (quad a : Nat) (m : BitVec 32) : State :=
  match s.actor? quad a with
  | none => s
  | some _ =>
    let r : FaultRec := { cause := .marker, src := 5, aux := m.toNat, who := some (quad, a), ans := true }
    match s.pushRecord (.quad quad) r (some (.marker a)) with
    | some s1 => s1.modActor quad a (fun y => { y with hold := .held m })
    | none => s.wantEx (.quad quad)

/-- Steps 4 to 6 of R88, once no firing is in flight and every output has room. -/
def State.moveMarker (s : State) (quad a : Nat) (x : ActorSt) (m : BitVec 32) : State :=
  if x.inFlight = 0 ∧ x.decl.outs.all (s.takesMarker quad) then
    let s1 := x.decl.ins.foldl (fun (st : State) p => st.dropMarker quad m p) s
    let s2 := x.decl.outs.foldl (fun (st : State) p => st.sendMarker quad m p) s1
    (s2.modActor quad a (fun y => { y with hold := .moved m, direct := none, oneSided := none })).postMarker quad a m
  else s

/-- MARKER_ALIGN (R88): the actor fires no more once it is aligned; the steps follow as they become possible. -/
def execMarkerAlign (quad : Fin 1024) (actor : Fin 64) (s : State) : Host.Outcome State Fault Refusal :=
  .next (
    if !s.unitRuns quad then s
    else match s.actor? quad actor with
      | none => s
      | some x =>
        match x.hold, s.aligned quad x with
        | .held _, _ => s
        | .moved m, _ => s.postMarker quad actor m
        | _, some m =>
          (s.modActor quad actor (fun y => { y with hold := .draining m })).moveMarker quad actor { x with hold := .draining m } m
        | _, none => s.modActor quad actor (fun y => { y with hold := .none }))

/-- Whether a record of a stuck marker of this reference awaits its answer. -/
def ExSide.stuckPosted (e : ExSide) (p : HoldRef → Bool) : Bool :=
  e.awaiting.any (fun w => match w.holder with
    | .stuck r _ => p r
    | _ => false)

/-- QUIESCE_STUCK at an actor (R89): input `i` lacks the marker that another input holds. The timeout runs on the clock of the quad's first
core from the cycle in which the firing unit first finds the actor so. -/
def State.stuckActor (s : State) (quad a i : Nat) : State :=
  match s.actor? quad a, (s.quad quad).tile with
  | some x, some t =>
    let marks := x.decl.ins.map (fun p => (s.inputMarker quad p).map (·.1))
    let now := (s.core (4 * quad)).clock
    let other := marks.findSome? (fun m => if m == marks.getD i none then none else m)
    if (marks.findSome? id).isNone ∨ (s.aligned quad x).isSome ∨ x.hold ≠ .none then s.modActor quad a (fun y => { y with oneSided := none })
    else match x.oneSided with
      | none => s.modActor quad a (fun y => { y with oneSided := some now })
      | some d =>
        let lacks := decide (i < x.decl.ins.length) && other.isSome
        let posted := t.ex.stuckPosted (fun r => match r with
          | .actor q b _ => q == quad && b == a
          | .element _ => false)
        if !lacks ∨ posted ∨ now < d + (s.quad quad).quiesceTo.toNat then s
        else
          let port := ((x.decl.ins[i]?).map (·.q.1)).getD 0
          let r : FaultRec := { cause := .quiesceStuck, src := 5, aux := port, who := some (quad, a), ans := true }
          (s.pushRecord (.quad quad) r (some (.stuck (.actor quad a i) (other.getD 0)))).getD (s.wantEx (.quad quad))
  | _, _ => s

end Sys2Proof.Machine
end

