-- ==== Sys2Proof/Machine/VectorMemory.lean ====
section
/-! DEFINITION. Vector memory (R193 to R196), reductions (R198), merging and sorting (R199), and the repetition buffer (R201 to R204):
majors 0x27 to 0x29, 0x2B, 0x2C and 0x2E. -/
namespace Sys2Proof.Machine

/-! Vector memory. -/

/-- One active part or element: its first byte lane, its address, its size, and the bytes of it that are active. -/
structure Piece where
  lane : Nat
  va : Nat
  n : Nat
  mask : Nat

/-- The active parts of `vld` and `vst` (R194). -/
def Ctx.parts (x : Ctx) (m : Fin 8) (addr : Nat) : List Piece :=
  (List.range 16).filterMap (fun p =>
    let mask := (List.range 8).foldl (fun a k => a + (if x.active m 8 (8 * p + k) then 2 ^ k else 0)) 0
    if mask = 0 then none else some ⟨8 * p, (addr + 8 * p) % 2 ^ 56, 8, mask⟩)

/-- The active elements of a width, at addresses that `f` gives (R193). -/
def Ctx.elements (x : Ctx) (m : Fin 8) (w : Fin 4) (f : Nat → VAddr) : List Piece :=
  let b := laneBits w
  ((List.range (1024 / b)).filter (x.active m b)).map (fun i => ⟨i * (b / 8), (f i).toNat, b / 8, fullMask (b / 8)⟩)

/-- What the checks of all parts give. -/
inductive Placed where
  | ok (s : State) (ps : List (Piece × Nat × Bool))
  | fault (s : State) (c : Cause) (va : Nat)
  | miss (s : State)

/-- Step 6 of R172 for a part or element to be stored: one whose lanes are not all active is no whole element of an accumulator (R117). -/
def State.pieceBarred (s : State) (p : Piece) (pa : Nat) : Option Cause :=
  (s.writeBarred pa p.n) <|> (if p.mask ≠ fullMask p.n ∧ (coreWindow? pa).any (fun w => decide (w.2 < 0xC000)) then some .window else none)

/-- R172 applied to every active part or element, before any access (R195): all of its steps to one before the next, in lane order (DESIGN CHOICE: log
entry 105); a gather needs F clear (Table 5-5) and a page that is not effectful (R123). -/
def State.place (s : State) (k : Cap) (write gather : Bool) : List Piece → List (Piece × Nat × Bool) → Placed
  | [], acc => .ok s acc
  | p :: r, acc =>
    if p.va % p.n = 0 ∧ gather ∧ k.hasF then .fault s .perm p.va
    else match s.checked s.myAccess k p.va p.n p.n (if write then permW else permR) (if write then 1 else 0) with
      | .fault s1 c v => .fault s1 c v
      | .miss s1 => .miss s1
      | .ok s1 pa eff =>
        if gather ∧ eff then .fault s1 .perm p.va
        else match (if write then s1.pieceBarred p pa else s1.readBarred pa p.n) with
          | some c => .fault s1 c p.va
          | none => s1.place k write gather r (acc ++ [(p, pa, eff)])

/-- Active bytes of a part put into a register. -/
def putPiece (v : Nat) (p : Piece) (bs : List Byte) : Nat :=
  (List.range p.n).foldl (fun v k => if p.mask.testBit k then putBits v (8 * (p.lane + k)) 8 (bs.getD k 0).toNat else v) v

/-- A vector load of its active parts (R195, R196). -/
def State.vload (s : State) (d : Fin 32) (k : Cap) (gather : Bool) (ps : List Piece) : Res :=
  match s.place k false gather ps [] with
  | .fault s1 c v => .raiseIn s1 c (BitVec.ofNat 64 v)
  | .miss s1 => .wait .miss s1
  | .ok s1 pl =>
    let get := fun (st : State) => pl.foldl (fun v (p, pa, _) => putPiece v p (st.viewAt pa p.n)) (st.my.rv d).toNat
    if pl.any (fun (_, pa, _) => s1.linkDown pa) then .wait .resource s1
    else if pl.all (fun (_, pa, eff) => isPlain pa && !eff) then .vars s1 [.v d (BitVec.ofNat 1024 (get s1))]
    else
      let (s2, empty) := s1.drainMine
      if empty then .vars s2.tick [.v d (BitVec.ofNat 1024 (get s2))] else .wait .resource s2

/-- A vector store: a sequence of stores in lane order (R196). -/
def State.vstore (s : State) (v : Fin 32) (k : Cap) (ps : List Piece) : Res :=
  match s.place k true false ps [] with
  | .fault s1 c a => .raiseIn s1 c (BitVec.ofNat 64 a)
  | .miss s1 => .wait .miss s1
  | .ok s1 pl =>
    .regs (s1.modMy (fun x => { x with
      stores := x.stores ++ pl.map (fun (p, pa, _) =>
        ⟨pa, leBytes p.n ((x.rv v).toNat / 2 ^ (8 * p.lane)), p.mask, false, BitVec.ofNat 56 p.va, x.pc, none⟩) })) []

/-- The issue of a vector memory instruction: it waits for a repetition sequence of the core (R203). -/
def State.vmem (s : State) (st : Fin 8) (rd wr : List RegId) (act : State → Res) : Host.Outcome State Fault Refusal :=
  s.run st rd wr 0 (fun s1 => if s1.vectorHeld then .wait .resource s1 else act s1)

/-- A masked-load destination is also read (R183). -/
def loadReads (m : Fin 8) (d : Fin 32) : List RegId := maskReads m (.v d)

/-- A mask as a source alone. -/
def maskOnly (m : Fin 8) : List RegId := if m.1 = 0 then [] else [.m m]

/-- `vld`: ALIGN on its address first (R194). -/
def State.vldAt (s : State) (st : Fin 8) (d : Fin 32) (op : MemOp) (m : Fin 8) : Host.Outcome State Fault Refusal :=
  s.vmem st (op.regs ++ loadReads m d) [.v d] (fun s1 =>
    let va := op.addr s1.my 128
    if va % 8 ≠ 0 then .raise .align (BitVec.ofNat 64 va) else s1.vload d (op.cap s1.my) false (s1.my.parts m va))

/-- `vst`. -/
def State.vstAt (s : State) (st : Fin 8) (d : Fin 32) (op : MemOp) (m : Fin 8) : Host.Outcome State Fault Refusal :=
  s.vmem st (.v d :: op.regs ++ maskOnly m) [] (fun s1 =>
    let va := op.addr s1.my 128
    if va % 8 ≠ 0 then .raise .align (BitVec.ofNat 64 va) else s1.vstore d (op.cap s1.my) (s1.my.parts m va))

/-- Strided addresses (Table 8-6). -/
def Ctx.strided (x : Ctx) (k : Fin 16) (g : Fin 32) (i : Nat) : VAddr :=
  (x.rk k).cursor + BitVec.ofInt 56 (i * (x.rg g).toInt)

/-- Indexed addresses (Table 8-6). -/
def Ctx.indexed (x : Ctx) (k : Fin 16) (v : Fin 32) (w : Fin 4) (i : Nat) : VAddr :=
  (x.rk k).cursor + BitVec.ofNat 56 (laneOf (laneBits w) (x.rv v) i * (laneBits w / 8))

/-- `vld`, MODE 0 (R194). -/
def execVld (st : Fin 8) (d : Fin 32) (k : Fin 16) (i : Fin 1024) (s : State) : Host.Outcome State Fault Refusal :=
  s.vldAt st d (.disp k i) 0

/-- `vld`, MODE 1. -/
def execVldIdx (st : Fin 8) (d : Fin 32) (k : Fin 16) (x : Fin 32) (c : Fin 4) (m : Fin 8) (s : State) :
    Host.Outcome State Fault Refusal :=
  s.vldAt st d (.idx k x c) m

/-- `vst`, MODE 0 (R194). -/
def execVst (st : Fin 8) (d : Fin 32) (k : Fin 16) (i : Fin 1024) (s : State) : Host.Outcome State Fault Refusal :=
  s.vstAt st d (.disp k i) 0

/-- `vst`, MODE 1. -/
def execVstIdx (st : Fin 8) (d : Fin 32) (k : Fin 16) (x : Fin 32) (c : Fin 4) (m : Fin 8) (s : State) :
    Host.Outcome State Fault Refusal :=
  s.vstAt st d (.idx k x c) m

/-- `vlds` (R193). -/
def execVlds (st : Fin 8) (d : Fin 32) (k : Fin 16) (x : Fin 32) (w : Fin 4) (m : Fin 8) (s : State) :
    Host.Outcome State Fault Refusal :=
  s.vmem st ([.k k, .g x] ++ loadReads m d) [.v d] (fun s1 =>
    s1.vload d (s1.my.rk k) false (s1.my.elements m w (s1.my.strided k x)))

/-- `vsts` (R193). -/
def execVsts (st : Fin 8) (d : Fin 32) (k : Fin 16) (x : Fin 32) (w : Fin 4) (m : Fin 8) (s : State) :
    Host.Outcome State Fault Refusal :=
  s.vmem st ([.v d, .k k, .g x] ++ maskOnly m) [] (fun s1 =>
    s1.vstore d (s1.my.rk k) (s1.my.elements m w (s1.my.strided k x)))

/-- `vgath` (R193, R195). -/
def execVgath (st : Fin 8) (d : Fin 32) (k : Fin 16) (x : Fin 32) (w : Fin 4) (m : Fin 8) (s : State) :
    Host.Outcome State Fault Refusal :=
  s.vmem st ([.k k, .v x] ++ loadReads m d) [.v d] (fun s1 =>
    s1.vload d (s1.my.rk k) true (s1.my.elements m w (s1.my.indexed k x w)))

/-- `vscat` (R193, R196). -/
def execVscat (st : Fin 8) (d : Fin 32) (k : Fin 16) (x : Fin 32) (w : Fin 4) (m : Fin 8) (s : State) :
    Host.Outcome State Fault Refusal :=
  s.vmem st ([.v d, .k k, .v x] ++ maskOnly m) [] (fun s1 =>
    s1.vstore d (s1.my.rk k) (s1.my.elements m w (s1.my.indexed k x w)))

/-! Reduction (R198). -/

/-- One level after another of a tree: pairs combined, at most `fuel` levels. -/
def treeReduce (f : FRes → FRes → FRes) : Nat → List FRes → FRes
  | _, [] => ⟨0, 0⟩
  | _, [a] => a
  | 0, a :: _ => a
  | n + 1, l => treeReduce f n ((List.range (l.length / 2)).map (fun i => f (l.getD (2 * i) ⟨0, 0⟩) (l.getD (2 * i + 1) ⟨0, 0⟩)))

/-- Combine, identity and sign extension of an operation code (Table 8-9) at width `b`. -/
def redOp (o : Nat) (w : Fin 4) (mode : Nat) : Nat × (Nat → Nat → FRes) × Nat × Bool :=
  let b := laneBits w
  let t := laneFmt w
  let int := fun (f : Nat → Nat → Nat) (x y : Nat) => (⟨f x y, 0⟩ : FRes)
  match o with
  | 0 => (b, int (fun x y => (x + y) % 2 ^ b), 0, false)
  | 1 => (b, int (fun x y => if signedOf b y < signedOf b x then y else x), 2 ^ (b - 1) - 1, true)
  | 2 => (b, int (fun x y => if signedOf b x < signedOf b y then y else x), 2 ^ (b - 1), true)
  | 3 => (b, int min, 2 ^ b - 1, false)
  | 4 => (b, int max, 0, false)
  | 5 => (b, int (· &&& ·), 2 ^ b - 1, false)
  | 6 => (b, int (· ||| ·), 0, false)
  | 7 => (b, int (· ^^^ ·), 0, false)
  | 8 => (t.width, t.add mode, t.signBit true, false)
  | 9 => (t.width, t.pick false, t.infBits false, false)
  | _ => (t.width, t.pick true, t.infBits true, false)

/-- `vred` (R198). -/
def execVred (st : Fin 8) (d a o : Fin 32) (w : Fin 4) (m : Fin 8) (s : State) : Host.Outcome State Fault Refusal :=
  s.vrun st ⟨.v a :: maskOnly m, [.g d], if o.1 ≤ 7 then 2 else 4, fun s1 =>
    let x := s1.my
    let (b, f, ident, signed) := redOp o.1 w x.rmode
    let lanes := (List.range (1024 / b)).map (fun i =>
      (⟨if x.active m b i then laneOf b (x.rv a) i else ident, 0⟩ : FRes))
    let r := treeReduce (fun p q => let c := f p.bits q.bits; ⟨c.bits, p.flags ||| q.flags ||| c.flags⟩) 7 lanes
    .ok [.g d (if signed then sextTo64 b r.bits else BitVec.ofNat 64 r.bits), .flags r.flags]⟩

/-! Merging and sorting (R199). -/

/-- The elements of a register: width of an element, and the width of its key. -/
def elems (b kb : Nat) (x : VReg) : List (Nat × Nat) :=
  (List.range (1024 / b)).map (fun i => (laneOf b x i % 2 ^ kb, laneOf b x i))

/-- Whether one key stands at or before another. -/
def keyLe (signed : Bool) (kb x y : Nat) : Bool := if signed then decide (signedOf kb x ≤ signedOf kb y) else decide (x ≤ y)

/-- The merge of R199: the first list's element on equal keys; at most `n` elements. -/
def mergeKeys (le : Nat → Nat → Bool) : Nat → List (Nat × Nat) → List (Nat × Nat) → List Nat
  | 0, _, _ => []
  | _ + 1, [], [] => []
  | n + 1, a :: p, [] => a.2 :: mergeKeys le n p []
  | n + 1, [], b :: q => b.2 :: mergeKeys le n [] q
  | n + 1, a :: p, b :: q => if le a.1 b.1 then a.2 :: mergeKeys le n p (b :: q) else b.2 :: mergeKeys le n (a :: p) q

/-- An element put after every element whose key is at or before its own. -/
def insertKey (le : Nat → Nat → Bool) (x : Nat × Nat) : List (Nat × Nat) → List (Nat × Nat)
  | [] => [x]
  | y :: r => if le y.1 x.1 then y :: insertKey le x r else x :: y :: r

/-- A register from its elements. -/
def fromElems (b : Nat) (l : List Nat) : VReg := fromLanes b (1024 / b) 0 (fun i => some (l.getD i 0))

/-- A merge of two registers into a pair (R199): `pair` where an element is a key and its payload. -/
def State.merge (s : State) (st : Fin 8) (d a b : Fin 32) (w : Fin 4) (g : Fin 2) (pair : Bool) : Host.Outcome State Fault Refusal :=
  let kb := laneBits w
  let eb := if pair then 2 * kb else kb
  let d2 : Fin 32 := d + 1
  s.vrun st ⟨[.v a, .v b], [.v d, .v d2], 4, fun s1 =>
    let x := s1.my
    let n := 1024 / eb
    let out := mergeKeys (keyLe (g == 1) kb) (2 * n) (elems eb kb (x.rv a)) (elems eb kb (x.rv b))
    .ok [.v d (fromElems eb (out.take n)), .v d2 (fromElems eb (out.drop n))]⟩

/-- `vmrg` (R199). -/
def execVmrg (st : Fin 8) (d a b : Fin 32) (w : Fin 4) (g : Fin 2) (s : State) : Host.Outcome State Fault Refusal :=
  s.merge st d a b w g false

/-- `vmrgp` (R199). -/
def execVmrgp (st : Fin 8) (d a b : Fin 32) (w : Fin 4) (g : Fin 2) (s : State) : Host.Outcome State Fault Refusal :=
  s.merge st d a b w g true

/-- `vsrt` (R199): a stable sort, by key and payload where `v` is 1. -/
def execVsrt (st : Fin 8) (d a : Fin 32) (w : Fin 4) (v g : Fin 2) (s : State) : Host.Outcome State Fault Refusal :=
  let kb := laneBits w
  let eb := if v = 1 then 2 * kb else kb
  s.vrun st ⟨[.v a], [.v d], 4, fun s1 =>
    let l := (elems eb kb (s1.my.rv a)).foldl (fun acc x => insertKey (keyLe (g == 1) kb) x acc) []
    .ok [.v d (fromElems eb (l.map (·.2)))]⟩

/-! The repetition buffer (R201 to R204). -/

/-- The captured words of a `vrep`, from `va` on. -/
inductive Captured where
  | ok (s : State) (ws : List Nat)
  | fault (s : State) (c : Cause) (va : Nat)
  | miss (s : State)

/-- Fetching and decoding of captured words (R201). -/
def State.capture (s : State) : Nat → VAddr → List Nat → Captured
  | 0, _, acc => .ok s acc
  | n + 1, va, acc =>
    match s.fetchAt s.cur s.me va.toNat with
    | .fault s1 c => .fault s1 c va.toNat
    | .miss s1 => .miss s1
    | .word s1 w =>
      match decodeCore w with
      | .ok i => if (capturedBody id i).isSome then s1.capture n (va + 4) (acc ++ [w]) else .fault s1 .illegal 0
      | .reject _ => .fault s1 .illegal 0

/-- `vrep` (R201): captures the next n + 1 words and starts their sequence; the context goes on behind them. -/
def execVrep (st : Fin 8) (b a l : Fin 32) (n t : Fin 16) (s : State) : Host.Outcome State Fault Refusal :=
  s.run st [.g a] [] 1 (fun s1 =>
    if s1.vectorHeld then .wait .resource s1
    else match s1.capture (n.1 + 1) (s1.my.pc + 4) [] with
      | .fault s2 c v => .raiseIn s2 c (BitVec.ofNat 64 v)
      | .miss s2 => .wait .miss s2
      | .ok s2 ws =>
        let count := (s2.my.rg a).toNat % 65536
        let seq : RepSeq := { ctx := s2.me, pc := s2.my.pc, words := ws, count := count, base := b.1, len := l.1 + 1, stride := t.1 }
        let s3 := if count = 0 then s2 else s2.modCore s2.cur (fun k => { k with rep := some seq })
        .regs (s3.modMy (fun x => { x with pc := x.pc + BitVec.ofNat 56 (4 * (n.1 + 1)) })) [])

/-- The register that a field names in a repetition (R202). -/
def RepSeq.rename (r : RepSeq) (x : Fin 32) : Fin 32 :=
  if r.base ≤ x.1 ∧ x.1 < r.base + r.len then Fin.ofNat 32 (r.base + (x.1 - r.base + r.rep * r.stride) % r.len) else x

/-- The next position of a sequence. -/
def RepSeq.next (r : RepSeq) : RepSeq :=
  if r.idx + 1 < r.words.length then { r with idx := r.idx + 1 } else { r with idx := 0, rep := r.rep + 1 }

/-- The body of the captured instruction at a sequence's position. -/
def RepSeq.body (r : RepSeq) : Option VBody :=
  match decodeCore (r.words.getD r.idx 0) with
  | .ok i => capturedBody r.rename i
  | .reject _ => none

/-- The state in which context `x` of core `c` is the one that issues. -/
def State.focus (s : State) (c : Fin 4096) (x : Fin 4) : State := { s with cur := c }.modCore c (fun k => { k with running := x })

/-- A sequence that faults stops (R204): its context enters a fault wait on an imprecise record with the address of the `vrep`, and
REPPOS holds the position. -/
def State.repStop (s : State) (c : Nat) (r : RepSeq) (cause : Cause) : State :=
  let rec_ := { s.contextRec c r.ctx cause 0 with imp := true, place := r.pc.setWidth 64 }
  ((s.faultStop c r.ctx rec_ (.sequence c r.ctx)).modCtx c r.ctx (fun x => { x with
    repRep := BitVec.ofNat 16 r.rep, repIdx := BitVec.ofNat 4 r.idx, repPend := true })).modCore c (fun k => { k with
    rep := some { r with stopped := true } })

/-- One captured instruction issues on its context's registers (R202), or the sequence ends when the results of its last repetition
are written (R203). -/
def State.repStep (s : State) (c : Fin 4096) (r : RepSeq) : State :=
  let k := s.core c
  if r.count ≤ r.rep then
    let y := k.ctxs.get r.ctx
    let t := y.fixed.foldl (fun t p => max t p.due) k.clock
    (s.modCtx c r.ctx (fun x => x.land t)).modCore c (fun k => { k with clock := t, rep := none })
  else match r.body with
    | none => s
    | some v =>
      let run := k.running
      let old := s.cur
      let t := max k.clock r.readyAt
      let s1 := (((s.focus c r.ctx).modCore c (fun k => { k with clock := t })).modMy (fun x => x.land t))
      let back := fun (st : State) => { st with cur := old }.modCore c (fun k => { k with running := run })
      if s1.my.short v.reads v.writes v.lat t then back (s1.repStop c r .shortstall)
      else if (s1.my.blocker v.reads v.writes).isSome then back s1
      else match v.act s1 with
        | .error e => back (s1.repStop c r e)
        | .ok ws =>
          let s2 := s1.modMy (fun x => ws.foldl (Ctx.result v.lat t) x)
          back (s2.modCore c (fun k => { k with rep := some { r.next with readyAt := t + 1 + r.words.getD r.idx 0 / 2 ^ 29 } }))

/-- REPETITION_ISSUE (R202): a halted core issues nothing (R353). -/
def execRepetitionIssue (core : Fin 4096) (s : State) : Host.Outcome State Fault Refusal :=
  .next (match (s.core core).rep with
    | some r => if r.stopped ∨ r.saved ∨ (s.core core).halted then s else s.repStep core r
    | none => s)

end Sys2Proof.Machine
end

