-- ==== Sys2Proof/Machine/Answers.lean ====
section
/-! DEFINITION. Walks and page requests (R363 to R367), fault records that waited (R372), the answers of the runtime (R371, R373), and
markers that are stuck (R89, R294). -/
namespace Sys2Proof.Machine

/-! Walks. -/

/-- Request queue of a stall (R407). -/
def stallQueue (part kind : Nat) : Nat := 0x8900 + 8 * part + kind

/-- A page request (R365): D0 is the address of the access that missed first. -/
def pageRequest (m : Miss) (rid : BitVec 16) (island : Nat) : List Byte :=
  leBytes 8 m.va ++ leBytes 8 (rid.toNat + m.kind.1 * 2 ^ 16 + m.job % 65536 * 2 ^ 32) ++ leBytes 8 (island % 256) ++ leBytes 8 0

/-- A translation installed in the island buffer and in the buffer of each core that asked (R364). -/
def State.installXlat (s : State) (island : Nat) (x : Xlat) (m : Miss) : State :=
  let s1 := s.modIsland island (fun i => { i with tlb := pushXlat 4096 x i.tlb, misses := i.misses.filter (· != m) })
  m.clients.foldl (fun (st : State) g =>
    (match g with
      | .context c _ => st.modCore c (fun k => { k with tlb := pushXlat 64 x k.tlb })
      | _ => st).wakeAgent g) s1

/-- The page request of a walk that met an absent page, and the wait for its answer (R365, R366); without a free slot in the stall's
queue it is made later. -/
def State.askPage (s : State) (island : Nat) (m : Miss) : State :=
  let q := stallQueue (s.job m.job).part.1 1
  if s.roomDevice q false then
    let rid := (s.island island).nextRid
    (s.pushDevice q false ⟨0, 0x7C, 0, pageRequest m rid island⟩).modIsland island (fun i => { i with
      nextRid := i.nextRid + 1, misses := i.misses.map (fun x => if x = m then { x with rid := some rid } else x) })
  else s.want q

/-- PAGE_WALK (R363 to R365): the walk of a miss-merging entry completes. -/
def execPageWalk (island : Fin 256) (vpage job : Nat) (s : State) : Host.Outcome State Fault Refusal :=
  .next (match (s.island island).misses.find? (fun m => m.vpage == vpage && m.job == job && m.rid.isNone) with
    | none => s
    | some m =>
      match s.walk job (vpage * 4096) with
      | .bad => s.failMiss island m .ptformat
      | .absent => s.askPage island m
      | .leaf x accessed =>
        let s1 := if accessed then s else s.deviceWrite x.pte [s.mem.read x.pte ||| 0x40]
        s1.installXlat island x m)

/-- PGWAKE_WRITE (R366). -/
def execPgwakeWrite (island : Fin 256) (x : Dword) (s : State) : Host.Outcome State Fault Refusal := .next (s.pgwake island x)

/-! Records that waited. -/

/-- The work that a record which waited holds: none for a report, else the context or, where IMP is set, its repetition sequence. -/
def heldBy (r : FaultRec) (c : Nat) (x : Fin 4) : Option Holder :=
  if !r.ans then none else some (if r.imp then .sequence c x else .context c x)

/-- The oldest record of a context in a fault wait that still waits, pushed where there is a free slot now (R372). -/
def State.pushHeld (s : State) (c : Nat) (x : Fin 4) : State :=
  match (s.ctx c x).unposted with
  | [] => s
  | l :: r =>
    match s.pushRecord (.quad (c / 4)) l (heldBy l c x) with
    | some s1 => s1.modCtx c x (fun y => { y with wait := .fault r })
    | none => s.wantEx (.quad (c / 4))

/-- Reports of a job's fabric tiles that waited for room. -/
def State.flushFabrics (s : State) (job : Nat) : State :=
  s.fabrics.foldl (fun (st : State) p => if p.2.job = job then State.flushReports (.fabric p.1) 16 st else st) s

/-- FAULT_RECORD_PUSH (R372): reports that waited in the tile's buffer, and in those of the job's fabric tiles, then the context's
own record. -/
def execFaultRecordPush (core : Fin 4096) (ctx : Fin 4) (s : State) : Host.Outcome State Fault Refusal :=
  .next (((State.flushReports (.quad (core.1 / 4)) 16 s).flushFabrics (s.jobOf core)).pushHeld core ctx)

/-! Answers. -/

/-- The work that a record's answer moves is a context of this number, in its own right or through its repetition sequence. -/
def Holder.isCtx (h : Holder) (c : Nat) (x : Fin 4) : Bool := h == .context c x || h == .sequence c x

/-- The destinations of the instruction that a context fetched last, which is the one it stopped on; none where its fetch failed. -/
def State.destsAt (s : State) (c : Nat) (x : Fin 4) : List RegId :=
  match (s.ctx c x).word.map (fun w => decodeCore w.toNat) with
  | some (.ok i) =>
    let isz := match takenQ i with
      | some q => ((s.queue? ((s.ctx c x).qid q)).map (·.isz)).getD 0
      | none => 0
    instrDests isz i
  | _ => []

/-- The write of zero to a register. -/
def RegId.zero : RegId → RegWrite
  | .g r => .g r 0
  | .v r => .v r 0
  | .m r => .m r 0
  | .k r => .k r {}

/-- Registers set to zero, with everything pending for them cancelled (R373); in the saved image too where the context is stopped. -/
def State.zeroRegs (s : State) (c : Nat) (x : Fin 4) (rs : List RegId) : State :=
  let s1 := s.modCtx c x (fun y => rs.foldl (fun z r => z.apply r.zero) { y with
    vars := y.vars.filter (fun p => !rs.contains p.reg)
    fixed := y.fixed.filter (fun p => match p.write.reg with
      | some r => !rs.contains r
      | none => true) })
  if (s.ctx c x).stopped then rs.foldl (fun (st : State) r => st.saveWrite c x r.zero) s1 else s1

/-- A context's pc, in its saved image too where the context is stopped. -/
def State.setPc (s : State) (c : Nat) (x : Fin 4) (pc : VAddr) : State :=
  let s1 := s.modCtx c x (fun y => { y with pc := pc })
  if (s.ctx c x).stopped then s1.deviceWrite (s.saveAt (c / 4) (8 * (4 * (c % 4) + x.1)) + 1) (leBytes 7 pc.toNat) else s1

/-- The fault wait of a context ends, unless another record of it still awaits its answer or its posting (R372). A trap wait behind it lasts
(R350). -/
def State.endFault (s : State) (c : Nat) (x : Fin 4) : State :=
  match s.exSide? (.quad (c / 4)) with
  | some ex =>
    if ex.awaiting.any (fun w => w.holder.isCtx c x) ∨ (s.ctx c x).unposted ≠ [] then s
    else s.wakeCtx c x (fun y => { y with
      wait := if y.trapped then .trap else .none, since := none, waited := 0, readyAt := (s.core c).clock })
  | none => s

/-- A repetition sequence goes on from a position (R204). -/
def State.goOn (s : State) (c : Nat) (x : Fin 4) (f : RepSeq → RepSeq) : State :=
  (s.modCore c (fun k => { k with rep := k.rep.map (fun r => { f r with stopped := false, readyAt := k.clock }) })).modCtx c x
    (fun y => { y with repPend := false })

/-- The other records of a context whose work has ended await nothing any more. -/
def State.dropAwaiting (s : State) (c : Nat) (x : Fin 4) : State :=
  s.modEx (.quad (c / 4)) (fun e => { e with awaiting := e.awaiting.filter (fun w => !w.holder.isCtx c x) })

/-- An abort at a context (R62, R60, R204, R234): its firing, task or handler ends, its holds and its repetition sequence with it; the stores
that it has issued are performed (log entry 86). -/
def State.abortCtx (s : State) (c : Nat) (x : Fin 4) : State :=
  let s0 := State.drain c x (s.ctx c x).stores.length s
  let s1 := s0.modCore c (fun k => { k with rep := k.rep.filter (fun r => r.ctx != x) })
  let s2 := if (s.ctx c x).inHandler then (s1.endHolds c x).endHandler c x else s1.endFiring c x true
  ((s2.dropAwaiting c x).modCtx c x (fun y => { y with wait := .none, trapped := false, since := none, waited := 0, repPend := false }))

/-- The timeout of a stuck marker starts again (R89). -/
def State.keepWaiting (s : State) (r : HoldRef) : State :=
  match r with
  | .actor q a _ => s.modActor q a (fun y => { y with oneSided := some (s.core (4 * q)).clock })
  | .element _ => s

/-- The timeout of a marker that an element holds at a FIFO starts again (R294). -/
def State.keepHolding (s : State) (e : Nat) (p : Fin 4) : State :=
  s.modElement e (fun y => { y with holds := y.holds.map (fun h =>
    if h.port = p then { h with waited := 0, since := h.since.map (fun _ => s.quadClock h.quad) } else h) })

/-- An aborted marker is removed from the inputs of the actor where it stands at the head (R89). -/
def State.abortMarker (s : State) (r : HoldRef) (m : BitVec 32) : State :=
  match r with
  | .actor q a _ =>
    match s.actor? q a with
    | none => s
    | some x => (x.decl.ins.foldl (fun (st : State) p => st.dropMarker q m p) s).modActor q a (fun y => { y with oneSided := none })
  | .element _ => s

/-- The markers at the heads of the FIFO sources of the word that an aborted marker at FIFO `p` is held for are removed (R294). -/
def State.abortHold (s : State) (e : Nat) (p : Fin 4) : State :=
  let y := s.element e
  match y.holds.find? (fun h => h.port == p) with
  | none => s
  | some h =>
    let ports := ((y.ctxs.get h.ctx).markerPorts).1
    s.modElement e (fun y => { y with
      fifos := ports.foldl (fun f p => if ((s.seen e).markerAt p).isSome then vset f p ((f.get p).drop 1) else f) y.fifos
      holds := y.holds.filter (fun k => !ports.contains k.port) })

/-- A resume answer (R88, R89, R373). -/
def State.resume (s : State) (t : TileRef) (h : Holder) : State :=
  match h with
  | .context c x => s.endFault c x
  | .sequence c x => (s.goOn c x id).endFault c x
  | .marker a =>
    match t with
    | .quad q => s.modActor q a (fun y => { y with hold := .none })
    | .fabric _ => s
  | .stuck r _ => s.keepWaiting r
  | .stuckAt e p => s.keepHolding e p
  | .exit =>
    match t with
    | .fabric f => s.modFab f (fun t => { t with hold := none })
    | .quad _ => s

/-- A skip answer (R204, R373): destinations zero, and on with the next instruction, or with the next captured one. -/
def State.skip (s : State) (h : Holder) : State :=
  match h with
  | .context c x => ((s.zeroRegs c x (s.destsAt c x)).setPc c x ((s.ctx c x).pc + 4)).endFault c x
  | .sequence c x =>
    let ws := (((s.core c).rep.bind RepSeq.body).map (·.writes)).getD []
    ((s.zeroRegs c x ws).goOn c x RepSeq.next).endFault c x
  | _ => s

/-- An abort answer (R62, R88, R89, R373). -/
def State.abort (s : State) (t : TileRef) (h : Holder) : State :=
  match h with
  | .context c x => s.abortCtx c x
  | .sequence c x => s.abortCtx c x
  | .marker a =>
    match t with
    | .quad q => s.modActor q a (fun y => { y with hold := .none, aborts := 0 })
    | .fabric _ => s
  | .stuck r m => s.abortMarker r m
  | .stuckAt e p => s.abortHold e p
  | .exit => s.resume t h

/-- Whether a cause accepts an answer (Table 20-4): 0 resume, 1 skip, 2 abort. -/
def Cause.accepts (c : Cause) (a : Nat) : Bool :=
  match c with
  | .marker => a == 0 || a == 2
  | .quiesceStuck => a == 0 || a == 2
  | _ => c.answered && decide (a ≤ 2)

/-- The item that heads a tile's answer queue: queue, lane, index, RID and answer (R370). -/
def State.answerHead (s : State) (t : TileRef) : Option (Nat × Nat × Bool × BitVec 32 × BitVec 16 × Nat) :=
  match s.exSide? t with
  | none => none
  | some ex =>
    match s.queue? ex.ansq with
    | none => none
    | some q =>
      match q.consOf .device with
      | none => none
      | some c =>
        match s.candidate q c none with
        | .item u i =>
          let bs := s.itemAt q u i
          some (ex.ansq, c, u, i, (dwordAt bs 0).setWidth 16, (dwordAt bs 8).toNat)
        | _ => none

/-- The device takes an answer item; one whose header says KIND 3 is reported against the tile (R73). -/
def State.takeAnswer (s : State) (t : TileRef) (id c : Nat) (u : Bool) (i : BitVec 32) : State :=
  let r : FaultRec := match t with
    | .quad _ => { cause := .qformat, src := 5 }
    | .fabric f => { cause := .qformat, src := 2, place := BitVec.ofNat 64 (f * 2 ^ 32) }
  match s.queue? id with
  | some q => (s.noteKind t r q u i).take id c u i
  | none => s

/-- The answer at the head of a tile's answer queue acts, where it is this RID with this answer. One that names no record awaiting an
answer, or that is reserved or excluded for the cause, is discarded (R371). -/
def State.answer (s : State) (t : TileRef) (rid : BitVec 16) (a : Nat) (act : State → Holder → State) : State :=
  match s.answerHead t, s.exSide? t with
  | some (id, c, u, i, r, b), some ex =>
    if r ≠ rid then s
    else match ex.awaiting.find? (fun w => w.rid = rid) with
      | none => s.takeAnswer t id c u i
      | some w =>
        if !w.cause.accepts b then s.takeAnswer t id c u i
        else if b ≠ a then s
        else
          let s1 := (s.takeAnswer t id c u i).modEx t (fun e => { e with awaiting := e.awaiting.filter (fun y => y.rid ≠ rid) })
          act s1 w.holder
  | _, _ => s

/-- ANSWER_RESUME (R373). -/
def execAnswerResume (t : TileRef) (rid : Fin 65536) (s : State) : Host.Outcome State Fault Refusal :=
  .next (s.answer t (BitVec.ofFin rid) 0 (fun st h => st.resume t h))

/-- ANSWER_SKIP (R373). -/
def execAnswerSkip (t : TileRef) (rid : Fin 65536) (s : State) : Host.Outcome State Fault Refusal :=
  .next (s.answer t (BitVec.ofFin rid) 1 (fun st h => st.skip h))

/-- ANSWER_ABORT (R373). -/
def execAnswerAbort (t : TileRef) (rid : Fin 65536) (s : State) : Host.Outcome State Fault Refusal :=
  .next (s.answer t (BitVec.ofFin rid) 2 (fun st h => st.abort t h))

/-! Stuck markers. -/

/-- Cycles that a held marker has waited in calls (R294). -/
def State.heldFor (s : State) (h : ElHold) : Nat := (h.pause s.quadClock).waited

/-- The first marker that an element has held too long, and a source that lacks it (R294): the word that it is held for has another marker there or
none, QUIESCETO is over, and no record of it awaits its answer. -/
def State.overdue (s : State) (e : Nat) (t : FabTile) (y : Element) : Option (ElHold × Fin 4) :=
  let z := y.arrived t.cycle
  y.holds.findSome? (fun h =>
    let ports := (y.ctxs.get h.ctx).markerPorts.1
    let posted := t.ex.awaiting.any (fun w => w.holder == .stuckAt e h.port)
    if posted ∨ !ports.contains h.port ∨ s.heldFor h < (s.quad h.quad).quiesceTo.toNat then none
    else (ports.find? (fun p => z.markerAt p != z.markerAt h.port)).map (fun p => (h, p)))

/-- QUIESCE_STUCK at an element (R294). -/
def State.stuckElement (s : State) (e : Nat) : State :=
  match s.fabOf e with
  | none => s
  | some (f, t) =>
    let y := t.noteHold s.quadClock (s.element e)
    if t.callQuad.isNone then s.modElement e (fun _ => y)
    else
      let s1 := s.modElement e (fun _ => { y with holds := y.holds.map (fun h => h.go s.quadClock) })
      match s.overdue e t y with
      | some (h, lack) =>
        let r : FaultRec := { cause := .quiesceStuck, src := 2, aux := lack.1, ans := true
                              place := BitVec.ofNat 64 (f * 2 ^ 32 + (s.errorData e h.ctx .quiesceStuck).toNat) }
        (s1.pushRecord (.fabric f) r (some (.stuckAt e h.port))).getD (s1.wantEx (.fabric f))
      | none => s1

/-- QUIESCE_STUCK (R89). -/
def execQuiesceStuck (ref : HoldRef) (s : State) : Host.Outcome State Fault Refusal :=
  .next (match ref with
    | .actor q a i => s.stuckActor q a i
    | .element e => s.stuckElement e)

end Sys2Proof.Machine
end

