-- ==== Sys2Proof/Machine/Control.lean ====
section
/-! DEFINITION. Branches, jumps and capability instructions: majors 0x10 to 0x15 (R165 to R170), and `ill`. -/
namespace Sys2Proof.Machine

/-- The least exponent that represents `n` bytes exactly (R169). -/
def boundExpo (n : Nat) : Option Nat := leastFrom (fun e => n % 2 ^ e == 0 && decide (n / 2 ^ e ≤ 1023)) 0 47

/-- A capability narrowed to the `n` bytes at its cursor, or its bits with the tag cleared (R169). -/
def Cap.bound (k : Cap) (n : Nat) : Cap :=
  let c := k.cursor.toNat
  match boundExpo n with
  | some e =>
    if k.tag ∧ c % 256 = 0 ∧ c % 2 ^ e = 0 ∧ c + n ≤ 2 ^ 56 ∧ k.base ≤ c ∧ c + n ≤ k.base + k.len then mkCap k.perms c n e c
    else { k with tag := false }
  | none => { k with tag := false }

/-- The field of a capability that a selector names (R170). -/
def Cap.field (k : Cap) (sel : Nat) : Dword :=
  match sel with
  | 0 => k.cursor.setWidth 64
  | 1 => BitVec.ofNat 64 k.base
  | 2 => BitVec.ofNat 64 k.len
  | 3 => BitVec.ofNat 64 k.perms
  | 4 => dbit k.tag
  | _ => k.cursor.setWidth 64 - BitVec.ofNat 64 k.base

/-- `beq` (Table 7-4). -/
def execBeq (st : Fin 8) (a b : Fin 32) (o : Fin 2048) (s : State) : Host.Outcome State Fault Refusal :=
  s.branch st a b o (fun x y => x == y)

/-- `bne` (Table 7-4). -/
def execBne (st : Fin 8) (a b : Fin 32) (o : Fin 2048) (s : State) : Host.Outcome State Fault Refusal :=
  s.branch st a b o (fun x y => x != y)

/-- `blt` (Table 7-4). -/
def execBlt (st : Fin 8) (a b : Fin 32) (o : Fin 2048) (s : State) : Host.Outcome State Fault Refusal :=
  s.branch st a b o (fun x y => decide (x.toInt < y.toInt))

/-- `bge` (Table 7-4). -/
def execBge (st : Fin 8) (a b : Fin 32) (o : Fin 2048) (s : State) : Host.Outcome State Fault Refusal :=
  s.branch st a b o (fun x y => decide (y.toInt ≤ x.toInt))

/-- `bltu` (Table 7-4). -/
def execBltu (st : Fin 8) (a b : Fin 32) (o : Fin 2048) (s : State) : Host.Outcome State Fault Refusal :=
  s.branch st a b o (fun x y => decide (x < y))

/-- `bgeu` (Table 7-4). -/
def execBgeu (st : Fin 8) (a b : Fin 32) (o : Fin 2048) (s : State) : Host.Outcome State Fault Refusal :=
  s.branch st a b o (fun x y => decide (y ≤ x))

/-- `jal` (R166). -/
def execJal (st : Fin 8) (o : Fin 8388608) (s : State) : Host.Outcome State Fault Refusal :=
  s.run st [] [.g 31] 1 (fun s1 =>
    let x := s1.my
    if x.mayGo (x.rel 23 o.1) then .done s1 [.g 31 (x.pc.setWidth 64 + 4)] [] (some (x.rel 23 o.1)) else .raise .illegal 0)

/-- `jalr` (R166): the target from the old value of the register; ALIGN names the target. -/
def execJalr (st : Fin 8) (d a : Fin 32) (i : Fin 8192) (s : State) : Host.Outcome State Fault Refusal :=
  s.run st [.g a] [.g d] 1 (fun s1 =>
    let x := s1.my
    let t : VAddr := (x.rg a + imm13 i).setWidth 56
    if t.toNat % 4 ≠ 0 then .raise .align (t.setWidth 64)
    else if x.mayGo t then .done s1 [.g d (x.pc.setWidth 64 + 4)] [] (some t) else .raise .illegal 0)

/-- `ill` (R159): MAJOR 0x00 with MINOR 0x00 raises ILLEGAL, whatever the other bits hold. -/
def execIll (st : Fin 8) (d a b : Fin 32) (s : State) : Host.Outcome State Fault Refusal :=
  .next (s.atIssue.raise .illegal 0)

/-- `cap.bnd` (R169). -/
def execCapBnd (st : Fin 8) (d a : Fin 16) (b : Fin 32) (s : State) : Host.Outcome State Fault Refusal :=
  s.capResult st [.k a, .g b] d (fun x => (x.rk a).bound (x.rg b).toNat)

/-- `cap.prm` (R168). -/
def execCapPrm (st : Fin 8) (d a : Fin 16) (b : Fin 32) (s : State) : Host.Outcome State Fault Refusal :=
  s.capResult st [.k a, .g b] d (fun x => { x.rk a with bits := (x.rk a).bits &&& (((x.rg b).setWidth 8 ++ (-1 : BitVec 120)) : BitVec 128) })

/-- `cap.set` (R168). -/
def execCapSet (st : Fin 8) (d a : Fin 16) (b : Fin 32) (s : State) : Host.Outcome State Fault Refusal :=
  s.capResult st [.k a, .g b] d (fun x => (x.rk a).withCursor ((x.rg b).setWidth 56))

/-- `cap.add` (R168). -/
def execCapAdd (st : Fin 8) (d a : Fin 16) (b : Fin 32) (s : State) : Host.Outcome State Fault Refusal :=
  s.capResult st [.k a, .g b] d (fun x => (x.rk a).withCursor ((x.rk a).cursor + (x.rg b).setWidth 56))

/-- `cap.add` with an immediate (R168). -/
def execCapAddImm (st : Fin 8) (d a : Fin 16) (i : Fin 8192) (s : State) : Host.Outcome State Fault Refusal :=
  s.capResult st [.k a] d (fun x => (x.rk a).withCursor ((x.rk a).cursor + (imm13 i).setWidth 56))

/-- `cap.get` (R170). -/
def execCapGet (st : Fin 8) (d : Fin 32) (a : Fin 16) (c : Fin 32) (s : State) : Host.Outcome State Fault Refusal :=
  s.gResult st [.k a] d 1 (fun x => (x.rk a).field c.1)

end Sys2Proof.Machine
end

