-- ==== Sys2Proof/Machine/Sha.lean ====
section
/-! DEFINITION. SHA-256 and SHA-384 (FIPS 180-4), which the signatures and measurements of R411 to R418 name. -/
namespace Sys2Proof.Machine

/-- The first 80 primes, from which FIPS 180-4 takes its constants. -/
def shaPrimes : List Nat := (List.range 410).filter (fun n => decide (2 ≤ n) && (List.range n).all (fun d => decide (d < 2) || n % d != 0))

/-- The whole `k`-th root of a number, from its `bits` bits downward. -/
def rootOf (k n : Nat) : (bits : Nat) → (r : Nat) → Nat
  | 0, r => r
  | b + 1, r => rootOf k n b (if (r + 2 ^ b) ^ k ≤ n then r + 2 ^ b else r)

/-- The first 64 bits behind the point of a prime's cube root. -/
def cubeBits (p : Nat) : Nat := rootOf 3 (p * 2 ^ 192) 68 0 % 2 ^ 64

/-- The first 64 bits behind the point of a prime's square root. -/
def squareBits (p : Nat) : Nat := rootOf 2 (p * 2 ^ 128) 70 0 % 2 ^ 64

/-- The 80 constants of the rounds of SHA-384; their upper halves serve SHA-256. -/
def shaConstants : List Nat := shaPrimes.map cubeBits

/-- A number in big-endian bytes. -/
def beBytes (n x : Nat) : List Byte := (leBytes n x).reverse

/-- The number that big-endian bytes hold. -/
def beNat (bs : List Byte) : Nat := leNat bs.reverse

/-- What a member of the family fixes: the word width, its rotations and the constants of its rounds. -/
structure ShaKind where
  w : Nat
  big0 : Nat × Nat × Nat
  big1 : Nat × Nat × Nat
  small0 : Nat × Nat × Nat
  small1 : Nat × Nat × Nat
  ks : List Nat
  deriving DecidableEq, Repr

/-- SHA-256. -/
def sha32 : ShaKind := ⟨32, (2, 13, 22), (6, 11, 25), (7, 18, 3), (17, 19, 10), (shaConstants.take 64).map (· / 2 ^ 32)⟩

/-- SHA-384. -/
def sha64 : ShaKind := ⟨64, (28, 34, 39), (14, 18, 41), (1, 8, 7), (19, 61, 6), shaConstants⟩

/-- A sum of words. -/
def ShaKind.sum (k : ShaKind) (l : List Nat) : Nat := l.sum % 2 ^ k.w

/-- A word rotated right. -/
def ShaKind.rot (k : ShaKind) (x n : Nat) : Nat := x / 2 ^ n ||| x % 2 ^ n * 2 ^ (k.w - n)

/-- The functions that rotate three times. -/
def ShaKind.big (k : ShaKind) (r : Nat × Nat × Nat) (x : Nat) : Nat := k.rot x r.1 ^^^ k.rot x r.2.1 ^^^ k.rot x r.2.2

/-- The functions that rotate twice and shift. -/
def ShaKind.small (k : ShaKind) (r : Nat × Nat × Nat) (x : Nat) : Nat := k.rot x r.1 ^^^ k.rot x r.2.1 ^^^ x / 2 ^ r.2.2

/-- The words of a block cut from its bytes. -/
def ShaKind.cut (k : ShaKind) : Nat → List Byte → List Nat
  | 0, _ => []
  | n + 1, bs => beNat (bs.take (k.w / 8)) :: k.cut n (bs.drop (k.w / 8))

/-- The message schedule from its last 16 words, the oldest first: the words of the rounds to come. -/
def ShaKind.schedule (k : ShaKind) : Nat → List Nat → List Nat
  | 0, _ => []
  | n + 1, l => match l with
    | [] => []
    | x :: r =>
      x :: k.schedule n (r ++ [k.sum [k.small k.small1 (l.getD 14 0), l.getD 9 0, k.small k.small0 (l.getD 1 0), x]])

/-- One round on the working words a to h. -/
def ShaKind.round (k : ShaKind) (v : List Nat) (kw : Nat × Nat) : List Nat :=
  match v with
  | [a, b, c, d, e, f, g, h] =>
    let t1 := k.sum [h, k.big k.big1 e, (e &&& f) ^^^ ((2 ^ k.w - 1 - e) &&& g), kw.1, kw.2]
    let t2 := k.big k.big0 a + ((a &&& b) ^^^ (a &&& c) ^^^ (b &&& c))
    [k.sum [t1, t2], a, b, c, k.sum [d, t1], e, f, g]
  | _ => v

/-- One block taken into a hash value. -/
def ShaKind.block (k : ShaKind) (h : List Nat) (bs : List Byte) : List Nat :=
  let v := (k.ks.zip (k.schedule k.ks.length (k.cut 16 bs))).foldl k.round h
  (h.zip v).map (fun p => k.sum [p.1, p.2])

/-- Blocks taken one after another. -/
def ShaKind.blocks (k : ShaKind) : Nat → List Nat → List Byte → List Nat
  | 0, h, _ => h
  | n + 1, h, bs => k.blocks n (k.block h (bs.take (2 * k.w))) (bs.drop (2 * k.w))

/-- The hash of a message from an initial value: padded with a one bit, zeros and its length. -/
def ShaKind.hash (k : ShaKind) (init : List Nat) (m : List Byte) : List Byte :=
  let b := 2 * k.w
  let z := (b - (m.length + 1 + k.w / 4) % b) % b
  let bs := m ++ [0x80] ++ List.replicate z 0 ++ beBytes (k.w / 4) (8 * m.length)
  (k.blocks (bs.length / b) init bs).flatMap (beBytes (k.w / 8))

/-- SHA-256. -/
def sha256 (m : List Byte) : List Byte := sha32.hash ((shaPrimes.take 8).map (fun p => squareBits p / 2 ^ 32)) m

/-- SHA-384 (R411, R415): 48 bytes. -/
def sha384 (m : List Byte) : List Byte := (sha64.hash (((shaPrimes.drop 8).take 8).map squareBits) m).take 48

end Sys2Proof.Machine
end

