-- ==== Sys2Proof/Machine/Signatures.lean ====
section
/-! DEFINITION. The two signatures of R412 and R413: ECDSA on P-384 with SHA-384 (FIPS 186-5) and HSS (SP 800-208) with LMS_SHA256_M24_H15 and
LMOTS_SHA256_N24_W4 on both levels. How keys stand in bytes is log entry 94. -/
namespace Sys2Proof.Machine

/-! HSS (R413). -/

/-- LMS_SHA256_M24_H15. -/
def lmsType : Nat := 0x0000000C
/-- LMOTS_SHA256_N24_W4. -/
def otsType : Nat := 0x00000007
/-- Chains of a one-time signature. -/
def otsChains : Nat := 51
/-- Bytes of a one-time signature: typecode, randomizer, chains. -/
def otsBytes : Nat := 4 + 24 + otsChains * 24
/-- Height of a tree. -/
def lmsHeight : Nat := 15
/-- Bytes of an LMS signature: leaf number, one-time signature, typecode, path. -/
def lmsBytes : Nat := 4 + otsBytes + 4 + lmsHeight * 24
/-- Bytes of an LMS public key: two typecodes, identifier, root. -/
def lmsKeyBytes : Nat := 4 + 4 + 16 + 24
/-- Bytes of an HSS signature with L = 2. -/
def hssBytes : Nat := 4 + (lmsBytes + lmsKeyBytes) + lmsBytes
/-- One-time signatures of an HSS key pair. -/
def hssIndices : Nat := 2 ^ lmsHeight * 2 ^ lmsHeight

/-- SHA-256 cut to 24 bytes, over an identifier, a number, a tag of two bytes and what follows. -/
def lmsHash (id : List Byte) (n tag : Nat) (bs : List Byte) : List Byte := (sha256 (id ++ beBytes 4 n ++ beBytes 2 tag ++ bs)).take 24

/-- The digits of four bits of a message hash and of its checksum. -/
def otsDigits (h : List Byte) : List Nat :=
  let ds := h.flatMap (fun b => [b.toNat / 16, b.toNat % 16])
  let c := (ds.map (15 - ·)).sum * 16
  ds ++ [c / 4096 % 16, c / 256 % 16, c / 16 % 16]

/-- A chain run on from step `j` for `k` steps. -/
def otsChain (id : List Byte) (q i : Nat) : (k j : Nat) → List Byte → List Byte
  | 0, _, x => x
  | k + 1, j, x => otsChain id q i k (j + 1) (lmsHash id q i (beBytes 1 j ++ x))

/-- The one-time public key that a signature of a message leads to. -/
def otsKey (id : List Byte) (q : Nat) (sig m : List Byte) : List Byte :=
  let ds := otsDigits (lmsHash id q 0x8181 ((sig.drop 4).take 24 ++ m))
  lmsHash id q 0x8080 ((List.range otsChains).flatMap (fun i =>
    let a := ds.getD i 0
    otsChain id q i (15 - a) a ((sig.drop (28 + 24 * i)).take 24)))

/-- The root that a path leads to from a node. -/
def lmsClimb (id : List Byte) : Nat → Nat → List Byte → List Byte → List Byte
  | 0, _, _, x => x
  | h + 1, node, path, x =>
    let y := path.take 24
    lmsClimb id h (node / 2) (path.drop 24) (lmsHash id (node / 2) 0x8383 (if node % 2 = 1 then y ++ x else x ++ y))

/-- Whether an LMS signature of a message verifies under an LMS public key. -/
def lmsVerifies (key m sig : List Byte) : Bool :=
  let id := (key.drop 8).take 16
  let q := beNat (sig.take 4)
  let ots := (sig.drop 4).take otsBytes
  decide (key.length = lmsKeyBytes ∧ sig.length = lmsBytes ∧ beNat (key.take 4) = lmsType ∧ beNat ((key.drop 4).take 4) = otsType
      ∧ beNat (ots.take 4) = otsType ∧ beNat ((sig.drop (4 + otsBytes)).take 4) = lmsType ∧ q < 2 ^ lmsHeight)
    && lmsClimb id lmsHeight (2 ^ lmsHeight + q) (sig.drop (8 + otsBytes)) (lmsHash id (2 ^ lmsHeight + q) 0x8282 (otsKey id q ots m)) == key.drop 24

/-- Whether an HSS signature with L = 2 verifies under an HSS public key: the first level signs the second level's key, that key the message. -/
def hssVerifies (key m sig : List Byte) : Bool :=
  let sub := (sig.drop (4 + lmsBytes)).take lmsKeyBytes
  decide (key.length = 4 + lmsKeyBytes ∧ beNat (key.take 4) = 2 ∧ sig.length = hssBytes ∧ beNat (sig.take 4) = 1)
    && lmsVerifies (key.drop 4) sub ((sig.drop 4).take lmsBytes) && lmsVerifies sub m (sig.drop (4 + lmsBytes + lmsKeyBytes))

/-- The bytes of an LMS public key whose identifier and root are the device's secret matter. -/
def lmsKeyOf (secret : List Byte) : List Byte := beBytes 4 lmsType ++ beBytes 4 otsType ++ padTo 40 secret

/-- The bytes of an LMS signature under leaf `q`, its hash values the device's secret matter. -/
def lmsSigOf (q : Nat) (secret : List Byte) : List Byte :=
  beBytes 4 q ++ beBytes 4 otsType ++ padTo (otsBytes - 4) secret ++ beBytes 4 lmsType ++ padTo (lmsHeight * 24) (secret.drop (otsBytes - 4))

/-- The HSS public key of a die. -/
def hssPublicKey (die : Nat) : List Byte := beBytes 4 2 ++ lmsKeyOf (Config.hssSecret die 0 0 [])

/-- The HSS signature of a digest under an index: leaf `index / 2^15` signs the tree whose leaf `index % 2^15` signs the digest. -/
def hssSign (die index : Nat) (digest : List Byte) : List Byte :=
  let sub := lmsKeyOf (Config.hssSecret die 1 (index / 2 ^ lmsHeight) [])
  beBytes 4 1 ++ lmsSigOf (index / 2 ^ lmsHeight) (Config.hssSecret die 2 (index / 2 ^ lmsHeight) sub) ++ sub
    ++ lmsSigOf (index % 2 ^ lmsHeight) (Config.hssSecret die 3 index digest)

/-! ECDSA on P-384 (R412). -/

/-- The prime of the field. -/
def p384 : Nat := 2 ^ 384 - 2 ^ 128 - 2 ^ 96 + 2 ^ 32 - 1
/-- The order of the base point. -/
def n384 : Nat := 0xFFFFFFFFFFFFFFFFFFFFFFFFFFFFFFFFFFFFFFFFFFFFFFFFC7634D81F4372DDF581A0DB248B0A77AECEC196ACCC52973
/-- The curve's constant b; its a is -3. -/
def b384 : Nat := 0xB3312FA7E23EE7E4988E056BE3F82D19181D9C6EFE8141120314088F5013875AC656398D8A2ED19D2A85C8EDD3EC2AEF
/-- The base point. -/
def g384 : Nat × Nat :=
  (0xAA87CA22BE8B05378EB1C71EF320AD746E1D3B628BA79B9859F741E082542A385502F25DBF55296C3A545E3872760AB7,
   0x3617DE4A96262C6F5D9E98BF9292DC29F8F41DBD289A147CE9DA3113B5F0B8C00A60B1CE1D7E819D7A431D7C90EA0E5F)

/-- A power modulo `m`, over the low `bits` bits of the exponent. -/
def powMod (m : Nat) : (bits : Nat) → (b e : Nat) → Nat
  | 0, _, _ => 1 % m
  | k + 1, b, e => powMod m k (b * b % m) (e / 2) * (if e % 2 = 1 then b else 1) % m

/-- The inverse modulo a prime of 384 bits. -/
def invMod (m x : Nat) : Nat := powMod m 384 (x % m) (m - 2)

/-- A difference in the field. -/
def subP (a b : Nat) : Nat := (a + (p384 - b % p384)) % p384

/-- The third point of the curve on the line with slope `l` through points at `a` and `b`, mirrored. -/
def chord (l : Nat) (a : Nat × Nat) (bx : Nat) : Nat × Nat :=
  let x := subP (subP (l * l) a.1) bx
  (x, subP (l * subP a.1 x) a.2)

/-- The sum of two points; `none` is the point at infinity. -/
def addPoints : Option (Nat × Nat) → Option (Nat × Nat) → Option (Nat × Nat)
  | none, q => q
  | p, none => p
  | some a, some b =>
    if a.1 = b.1 then
      (if (a.2 + b.2) % p384 = 0 then none else some (chord ((3 * a.1 * a.1 + (p384 - 3)) * invMod p384 (2 * a.2) % p384) a b.1))
    else some (chord (subP b.2 a.2 * invMod p384 (subP b.1 a.1) % p384) a b.1)

/-- A multiple of a point, over the low `bits` bits of the number. -/
def mulPoint : (bits : Nat) → Nat → Option (Nat × Nat) → Option (Nat × Nat)
  | 0, _, _ => none
  | k + 1, n, p => addPoints (if n % 2 = 1 then p else none) (mulPoint k (n / 2) (addPoints p p))

/-- Whether a point lies on the curve. -/
def onCurve (a : Nat × Nat) : Bool :=
  decide (a.1 < p384 ∧ a.2 < p384 ∧ a.2 * a.2 % p384 = (a.1 * a.1 * a.1 + (p384 - 3) * a.1 + b384) % p384)

/-- Whether an ECDSA P-384 signature (r then s, big-endian) of a message verifies under a public key (x then y, big-endian). -/
def ecdsaVerifies (key m sig : List Byte) : Bool :=
  let q := (beNat (key.take 48), beNat (key.drop 48))
  let r := beNat (sig.take 48)
  let s := beNat (sig.drop 48)
  decide (key.length = 96 ∧ sig.length = 96 ∧ 1 ≤ r ∧ r < n384 ∧ 1 ≤ s ∧ s < n384) && onCurve q &&
    (let w := invMod n384 s
     match addPoints (mulPoint 384 (beNat (sha384 m) * w % n384) (some g384)) (mulPoint 384 (r * w % n384) (some q)) with
     | some a => a.1 % n384 == r
     | none => false)

end Sys2Proof.Machine
end

