-- ==== Sys2Proof/Machine/Slots.lean ====
section
/-! DEFINITION. Writes that arrive at register windows (R115 to R117, R341), steps of the queue managers and the queue-slot role (R377 to
R381, R399), pre-emption of core tiles (R383 to R388), and the release of tiles (R382). -/
namespace Sys2Proof.Machine

/-! Windows. -/

/-- A cause raised at the writer of a device write (R115): precisely at a context, by the stop of an engine's entry. -/
def State.faultAt (s : State) (w : Writer) (c : Cause) (pa : Nat) : State :=
  match w with
  | .context k x => s.faultStop k x (s.contextRec k x c (BitVec.ofNat 64 pa)) (.context k x)
  | .engine q => s.stopEntry q c pa
  | .outside => s

/-- The access as which an engine reaches registers for the request at the head of its queue: its tile's privilege and place (R343). -/
def State.engineAccess (s : State) (q : Nat) : Access :=
  match (s.eng q).entries with
  | .request _ _ _ _ _ t _ :: _ => s.engAccess q t
  | _ => ⟨.engine q 0, engineIsland q, 0, 0, false, none⟩

/-- Why a writer may not reach an address at all (R113, R119, R343): contexts and engines by their own authority with G, the host and peers
never the arbor column. -/
def State.writerBarred (s : State) (w : Writer) (pa : Nat) : Option Cause :=
  match w with
  | .context c x => s.route (s.accessOf c x) true pa
  | .engine q => s.route (s.engineAccess q) true pa
  | .outside => if s.firewalled ⟨.engine 0 0, 0, 0, 2, false, none⟩ pa then some .perm else none

/-- Physical address of an offset of a core's window (R114). -/
def windowAddr (core off : Nat) : Nat := scratchBase (core / 4) + 0x100000 + core % 4 * 0x40000 + off

/-- LANDING_WRITE (R116): held while VALID is set; a landing register that is not enabled refuses it, and so does a firewall (R343). -/
def execLandingWrite (w : Writer) (core : Fin 4096) (ctx : Fin 4) (i : Fin 8) (x : VReg) (s : State) : Host.Outcome State Fault Refusal :=
  let pa := windowAddr core (ctx.1 * 0x2000 + 0x1C00 + 128 * i.1)
  .next (match s.writerBarred w pa with
    | some c => s.faultAt w c pa
    | none =>
      if !(s.ctx core ctx).landctl.getLsbD (8 + i.1) then s.faultAt w .window pa
      else if s.landingBusy core ctx i then s
      else s.landWrite core ctx i x)

/-- ACC_REMOTE_WRITE (R117): refused while a command in flight names the tile; a store that has left its context reports imprecisely. -/
def execAccRemoteWrite (w : Writer) (core : Fin 4096) (tile : Fin 8) (el : Fin 256) (x : Dword) (s : State) :
    Host.Outcome State Fault Refusal :=
  let pa := windowAddr core (0x8000 + 0x800 * tile.1 + 8 * el.1)
  .next (match s.writerBarred w pa with
    | some c => s.faultAt w c pa
    | none =>
      match s.accWrite core tile.1 el.1 x with
      | some s1 => s1
      | none =>
        match w with
        | .context c y =>
          s.report (.quad (c / 4)) { s.contextRec c y .window (BitVec.ofNat 64 pa) with imp := true }
        | _ => s.faultAt w .window pa)

/-- TABLE_WINDOW_WRITE (R102), through the firewall of the quad (R343). -/
def execTableWindowWrite (w : Writer) (core : Fin 4096) (e : TableEntry) (x : BitVec 32) (s : State) : Host.Outcome State Fault Refusal :=
  let pa := windowAddr core (0xC000 + 0x400 * e.table.1 + 4 * e.code.1)
  .next (match s.writerBarred w pa with
    | some c => s.faultAt w c pa
    | none => s.tableWrite core e.table.1 e.code.1 x)

/-- WINDOW_WRITE (R115): a write to an offset of a core window that Table 5-2 marks WINDOW changes nothing and raises it at the writer. -/
def execWindowWrite (w : Writer) (pa : Nat) (s : State) : Host.Outcome State Fault Refusal :=
  .next (match coreWindow? pa with
    | some (c, off) =>
      match (s.writerBarred w pa) <|> s.windowCheck c off 8 false with
      | some e => s.faultAt w e pa
      | none => s
    | none => s)

/-- A dword written to a device register by an agent: the checks of step 6 of R172, then the register as its access types say. -/
def State.agentWrite (s : State) (w : Writer) (pa : Nat) (x : Dword) : State :=
  if pa % 8 ≠ 0 then s.faultAt w .align pa
  else match s.writerBarred w pa with
    | some c => s.faultAt w c pa
    | none =>
      match s.deviceCheck pa 8 false with
      | some c => s.faultAt w c pa
      | none => if (coreWindow? pa).isSome then s.writeDevice w 1 pa (dwordBytes x) else s.putDevice w pa x

/-- PRIV_WINDOW_WRITE (R341): by a context or an engine; the host and peers reach no privileged region (R395, R404). -/
def execPrivWindowWrite (w : Writer) (pa : Nat) (x : Dword) (s : State) : Host.Outcome State Fault Refusal :=
  .next (if regionOf pa = 3 ∧ w ≠ .outside then s.agentWrite w pa x else s)

/-! Queue managers. -/

/-- QMCMD_MAP (R377): a write of QMCMD with OP MAP. -/
def execQmcmdMap (island : Fin 256) (slot : Fin 256) (block : BitVec 44) (s : State) : Host.Outcome State Fault Refusal :=
  .next (s.qmCommand island (BitVec.ofNat 64 (2 ^ 60 + slot.1 * 2 ^ 52 + block.toNat * 256)))

/-- QMCMD_UNMAP (R377, R380): a write of QMCMD with OP UNMAP. -/
def execQmcmdUnmap (island : Fin 256) (slot : Fin 256) (s : State) : Host.Outcome State Fault Refusal :=
  .next (s.qmCommand island (BitVec.ofNat 64 (2 * 2 ^ 60 + slot.1 * 2 ^ 52)))

/-- QM_COMMAND_COMPLETE (R377 to R380). -/
def execQmCommandComplete (island : Fin 256) (s : State) : Host.Outcome State Fault Refusal := .next (s.qmComplete island)

/-- Whether a queue is asked for: an agent waits on it, or the device or a stall would take an item that it holds unmapped. -/
def State.askedFor (s : State) (q : Queue) : Bool :=
  q.wanted || (q.mapped.isNone && (List.range q.cons.length).any (fun c =>
    (match (q.cons[c]?).map (·.owner) with
      | some Owner.device => true
      | some (Owner.stall _ _) => true
      | _ => false) &&
    (match s.candidate { q with mapped := some (0, 0) } c none with
      | .item _ _ => true
      | _ => false)))

/-- MAP_REQUEST (R379): the role serves a queue that is asked for. -/
def execMapRequest (q : Nat) (s : State) : Host.Outcome State Fault Refusal :=
  .next (if (s.queue? q).any s.askedFor then s.mapRole q else s)

/-- What the host's write of a notify word leaves there (Table 22-2): it writes its own half, that of its producer or consumer port. -/
def Queue.hostWrites (q : Queue) (old x : Dword) : Dword :=
  if q.hostProducer.isSome then old.extractLsb' 32 32 ++ x.setWidth 32
  else if q.hostConsumer.isSome then x.extractLsb' 32 32 ++ old.setWidth 32
  else x

/-- A notify word written by the host: its vector's next message may be sent (R400). -/
def State.hostNotify (s : State) (part : Fin 4) (q : Nat) (x : Dword) : State :=
  let b := s.notifyBase.get part
  if b = 0 then s
  else
    let s1 := s.writePlain (b + 8 * q) (dwordBytes (match s.queue? q with
      | some y => y.hostWrites (s.peekD (b + 8 * q)) x
      | none => x))
    match (s.queue? q).bind (fun y => y.hostProducer <|> y.hostConsumer) with
    | some v => { s1 with host := { s1.host with msixBusy := setDel v.toNat s1.host.msixBusy } }
    | none => s1

/-- NOTIFY_WRITE (R399). -/
def execNotifyWrite (part : Fin 4) (q : Fin 65536) (x : Dword) (s : State) : Host.Outcome State Fault Refusal :=
  .next (s.hostNotify part q x)

/-- One word of the scan applied where it differs from the last reading (R399). -/
def State.scanWordAt (s : State) (part : Fin 4) (q : Nat) : State :=
  if mapGet 0 s.host.notifySeen (part.1 * 65536 + q) = s.peekD (s.notifyBase.get part + 8 * q) then s else s.applyNotify q

/-- NOTIFY_SCAN (R399): the bit is cleared, then the 64 words are read and applied. -/
def execNotifyScan (part : Fin 4) (n : Fin 1024) (s : State) : Host.Outcome State Fault Refusal :=
  .next (
    let b := s.notifyBase.get part
    let v := b + 0x80000 + n.1 / 8
    if b = 0 ∨ !(s.mem.read v).getLsbD (n.1 % 8) then s
    else
      let s1 := s.deviceWrite v [s.mem.read v &&& ~~~(BitVec.ofNat 8 (2 ^ (n.1 % 8)))]
      (List.range 64).foldl (fun (st : State) k => st.scanWordAt part (64 * n.1 + k)) s1)

/-! The deadlock watchdog (R381). -/

/-- Whether an unmapped queue holds an item that a consumer could take. -/
def State.runnable (s : State) (q : Queue) : Bool :=
  q.wanted || (List.range q.cons.length).any (fun c => match s.candidate { q with mapped := some (0, 0) } c none with
    | .item _ _ => true
    | _ => false)

/-- The queues of a partition. -/
def State.queuesOf (s : State) (part : Fin 4) : List (Nat × Queue) := s.queues.filter (fun e => (s.job e.2.job).part == part)

/-- Engine queues of a partition whose head is a wait entry that does not hold (R85), with the tile that pushed it. -/
def State.parkedEngines (s : State) (part : Fin 4) : List TileRef :=
  s.engines.filterMap (fun e => match e.2.entries with
    | .wait bs t :: _ =>
      if (s.die (dieOfIsland (engineIsland e.1))).part = part ∧ !s.holdsNow bs ((s.tileJob t).getD 0) then some t else none
    | _ => none)

/-- Whether everything of a partition has stood still for 10 ms. -/
def State.stuckFor10ms (s : State) (part : Fin 4) : Bool :=
  let qs := s.queuesOf part
  qs.all (fun e => if e.2.mapped.isSome then s.parkedAll e.2 else !s.runnable e.2)
    && qs.all (fun e => decide (e.2.unparkedAt + 10000 ≤ s.micros)) && decide (s.quietSince.get part + 10000 ≤ s.micros)
    && decide (s.mappedAt.get part + 10000 ≤ s.micros)

/-- Whether an episode has already been posted: no queue was unparked and nothing performed since (R381). -/
def State.episodePosted (s : State) (part : Fin 4) : Bool :=
  match s.deadlockAt.get part with
  | none => false
  | some t => (s.queuesOf part).all (fun e => decide (e.2.unparkedAt < t)) && decide (s.quietSince.get part < t)

/-- DEADLOCK (R381). The report on an engine queue's wait entry goes to the tile that pushed it, with ADDR 0 (DESIGN CHOICE: log entry 100). -/
def execDeadlock (part : Fin 4) (s : State) : Host.Outcome State Fault Refusal :=
  .next (
    let parked := (s.queuesOf part).filter (fun e => s.parkedAll { e.2 with mapped := some (0, 0) })
    if !s.stuckFor10ms part ∨ s.episodePosted part ∨ (parked.isEmpty ∧ (s.parkedEngines part).isEmpty) then s
    else
      let s1 := parked.foldl (fun (st : State) e => e.2.consTiles.foldl (fun (st : State) t =>
        st.report t { cause := .deadlock, src := 7, addr := BitVec.ofNat 64 e.2.base }) st) s
      let s2 := (s.parkedEngines part).foldl (fun (st : State) t => st.report t { cause := .deadlock, src := 7 }) s1
      { s2 with deadlockAt := vset s2.deadlockAt part (some s.micros) })

/-! Pre-emption of core tiles. -/

/-- TILECTL_TARGET_PREEMPT (R383, R384): TARGET 1 takes effect; a value held during a transition or a wavefront acts first. -/
def execTilectlTargetPreempt (quad : Fin 1024) (s : State) : Host.Outcome State Fault Refusal :=
  .next (match (s.quad quad).heldTarget with
    | some b => if b && ((s.quad quad).ctlState == 0 || (s.quad quad).ctlState == 2) then s.tilectl quad (s.quad quad).heldBy true else s
    | none => s.tilectl quad .outside true)

/-- TILECTL_TARGET_RUN (R388): TARGET 0 takes effect: STATE 3, and from there the restoring. -/
def execTilectlTargetRun (quad : Fin 1024) (s : State) : Host.Outcome State Fault Refusal :=
  .next (if (s.quad quad).ctlState = 3 then s.restore quad else match (s.quad quad).heldTarget with
    | some b => if !b && ((s.quad quad).ctlState == 0 || (s.quad quad).ctlState == 2) then s.tilectl quad (s.quad quad).heldBy false else s
    | none => s.tilectl quad .outside false)

/-- MU_DRAIN_SAVE (R384). -/
def execMuDrainSave (core : Fin 4096) (s : State) : Host.Outcome State Fault Refusal := .next (s.drainSave core)

/-- FORCED_SAVE (R384). -/
def execForcedSave (quad : Fin 1024) (s : State) : Host.Outcome State Fault Refusal := .next (s.forceSave quad)

/-! Releasing tiles (R382). -/

/-- An index after index `c` has been taken out of a list; `none` for `c` itself. -/
def shiftIdx (c i : Nat) : Option Nat := if i = c then none else if c < i then some (i - 1) else some i

/-- A queue without consumer port `c`. -/
def Queue.dropCons (q : Queue) (c : Nat) : Queue :=
  { q with
    cons := q.cons.eraseIdx c
    items := q.items.filterMap (fun r => (shiftIdx c r.cons).map (fun k => { r with cons := k }))
    heldItems := q.heldItems.filterMap (fun h => (shiftIdx c h.1).map (fun k => (k, h.2))) }

/-- A queue without producer port `p`: slots that it filled, and those that its items on their way will fill, count as the device's own; what was
sent over a link is the other module's. -/
def Queue.dropProd (q : Queue) (p : Nat) : Queue :=
  { q with
    prods := q.prods.eraseIdx p
    owners := q.owners.map (fun o => (o.1, o.2.1, if o.2.2 < 1000000 then (shiftIdx p o.2.2).getD 1000000 else o.2.2))
    slots := q.slots.filterMap (fun r => (shiftIdx p r.port).map (fun k => { r with port := k }))
    heldSlots := q.heldSlots.map (fun h => (if h.1 < 1000000 then (shiftIdx p h.1).getD 1000000 else h.1, h.2))
    inflight := q.inflight.filterMap (fun f =>
      if f.port = gonePort then some f
      else if f.port = p ∧ q.far.isNone then some { f with port := gonePort }
      else (shiftIdx p f.port).map (fun k => { f with port := k }))
    acks := q.acks.filterMap (shiftIdx p) }

/-- A queue without the ports of an owner. -/
def Queue.dropOwner (o : Owner) (q : Queue) : Queue :=
  let q1 := match q.consOf o with
    | some c => q.dropCons c
    | none => q
  match q1.prodOf o with
  | some p => q1.dropProd p
  | none => q1

/-- A queue unmapped, its slot free, its state in its block (R378). -/
def State.unmapNow (s : State) (id : Nat) : State :=
  match s.queue? id with
  | none => s
  | some q =>
    match q.mapped with
    | none => s
    | some (isl, sl) =>
      let s1 := if q.block = 0 then s else s.deviceWrite q.block (s.blockBytes q)
      (s1.setQueue id { q with mapped := none, wanted := false }).modIsland isl (fun i => { i with slots := mapDel sl i.slots })

/-- A queue deleted. -/
def State.deleteQueue (s : State) (id : Nat) : State := let s1 := s.unmapNow id; { s1 with queues := mapDel id s1.queues }

/-- The ports of a tile end: what every other consumer port has taken becomes free (R72), a queue that only it was bound to is unmapped, its
exception and answer queues go. -/
def State.dropPorts (s : State) (t : TileRef) : State :=
  let o := Owner.tile t
  let s1 := s.queues.foldl (fun (st : State) e =>
    if (e.2.consOf o).isSome ∨ (e.2.prodOf o).isSome then
      let st1 := st.throughBlock e.1 (fun u => (u.modQueue e.1 (fun q => { q.dropOwner o with unparkedAt := s.micros })).freeSlots e.1)
      (if ((st1.queue? e.1).map (fun q => q.cons.isEmpty && q.prods.isEmpty)).getD false then
        (if e.2.far.isSome then st1.deleteQueue e.1 else st1.unmapNow e.1)
      else st1)
    else st) s
  match s.exSide? t with
  | some ex => (s1.deleteQueue ex.exq).deleteQueue ex.ansq
  | none => s1

/-- Whether an engine entry of a tile remains. -/
def State.entriesOf (s : State) (t : TileRef) : Bool :=
  s.engines.any (fun e => e.2.entries.any (fun x => match x with
    | .request _ _ _ _ _ u _ => u == t
    | .wait _ u => u == t
    | .marker _ => false))

/-- Whether a call or request made by a tile remains in a fabric tile. -/
def State.callsOf (s : State) (t : TileRef) : Bool :=
  s.fabrics.any (fun p => p.2.call.any (fun c => c.caller == t) || p.2.prunes.any (fun r => r.caller == t) || p.2.queue.any (fun r => match r with
    | .call _ _ _ _ u => u == t
    | .grove _ _ _ _ u => u == t
    | .stage _ _ _ _ u => u == t
    | .commit _ _ _ u => u == t
    | .discard _ _ _ u => u == t))

/-- Whether work of a core tile remains (R382). -/
def State.quadBusy (s : State) (q : Nat) (t : Tile) : Bool :=
  (s.quad q).ctlState != 0 || t.actors.any (fun a => a.inFlight != 0) || s.entriesOf (.quad q) || s.callsOf (.quad q)
    || (List.range 4).any (fun i =>
      let k := s.core (4 * q + i)
      !k.deque.isEmpty || !k.pending.isEmpty || !k.order.isEmpty || !k.outbox.isEmpty || !k.mu.queue.isEmpty || k.rep.isSome
        || (List.finRange 4).any (fun x => match (k.ctxs.get x).run with
          | .free => !(k.ctxs.get x).stores.isEmpty
          | _ => true))

/-- An element whose store is written with zeros (R382). -/
def Element.cleared : Element :=
  { ctxs := Vector.replicate 4 { words := Vector.replicate 16 0 } }

/-- The exception queue of an arbor quad with role 4 (R375), outside the numbers that a tile can name (log entry 74). -/
def roleQueue (q : Nat) : Nat := 0x10000 + q

/-- A number that no queue has. -/
def noQueue : Nat := 0x30000

/-- Irfin's own tile of an arbor quad: it serves the quad's role (R342, R344). -/
def irfinTile : Tile := { job := 0, priv := 2, code := {}, ex := { exq := noQueue, ansq := noQueue } }

/-- The tile that serves the role of an arbor quad, with the exception queue that role 4 has. -/
def State.roleTile (s : State) (q : Nat) : Tile :=
  if s.roleOf q = 4 then { irfinTile with ex := { exq := roleQueue q, ansq := noQueue } } else irfinTile

/-- Whether a tile is Irfin's own. -/
def Tile.isIrfin (t : Tile) : Bool := t.priv == 2 && t.actors.isEmpty && t.code == {}

/-- Whether the program of an arbor quad has come to its end: it has fired and no actor is ready (R344). -/
def State.programOver (s : State) (q : Nat) (t : Tile) : Bool :=
  s.isArbor q && !t.isIrfin && t.actors.any (fun a => a.fired != 0) && (List.range t.actors.length).all (fun a => !s.readyNow q a)

/-- A core tile released: queues unmapped, the scratchpad zero, the quad free, or back to its role (R344). -/
def State.freeQuad (s : State) (q : Nat) : State :=
  let s1 := (s.dropPorts (.quad q)).zero (scratchBase q) 0x100000
  let base := scratchBase q / 128
  let s2 : State := { s1 with full := s1.full.filter (fun l => decide (l < base) || decide (base + 8192 ≤ l)) }
  s2.modQuad q (fun k => { k with tile := if s.isArbor q then some (s.roleTile q) else none, icache := [] })

/-- Whether the call in progress on a fabric tile can never go on: nothing of it stands on EXIT, no operand can be injected, and no context of
any element can fire, holds a parked access or waits for a status. -/
def State.callDead (s : State) (f : Nat) (t : FabTile) : Bool :=
  t.call.any (fun c => match c.ops with
      | (i, _) :: _ =>
        let slot := t.slots.getD i 0
        decide (fifoRoom ≤ ((s.element (tileElement f (slotX slot) (slotY slot))).fifos.get (slotPort slot)).length)
      | [] => true)
    && t.exitQ.isEmpty && t.hold.isNone && (s.nextDue f t).isNone && s.elements.all (fun (e, y) => !t.holds f e || (y.markerCtx.isNone
      && (List.finRange 4).all (fun c => !s.canFire e c && !(y.ctxs.get c).parked && (y.ctxs.get c).statuses.isEmpty)))

/-- A fabric tile released. -/
def State.freeFabric (s : State) (f : Nat) (t : FabTile) : State :=
  let s1 := (s.tileElements f t).foldl (fun (st : State) e => st.modElement e (fun _ => Element.cleared)) (s.dropPorts (.fabric f))
  { s1 with fabrics := mapDel f s1.fabrics }

/-- TILE_RELEASE (R382): once nothing of a tile that is being released remains, it is gone. A fabric call that can never send its done token ends
with the release (R320). -/
def execTileRelease (t : TileRef) (s : State) : Host.Outcome State Fault Refusal :=
  .next (match t with
    | .quad q =>
      match (s.quad q).tile with
      | some x => if (x.releasing || s.programOver q x) && !s.quadBusy q x then s.freeQuad q else s
      | none => s
    | .fabric f =>
      match s.fab? f with
      | some x =>
        if x.releasing && s.callDead f x then s.endCall f x
        else if x.releasing && x.between && x.queue.isEmpty && x.prunes.isEmpty && x.exitQ.isEmpty && !s.entriesOf (.fabric f) then s.freeFabric f x
        else s
      | none => s)

end Sys2Proof.Machine
end

