-- ==== Sys2Proof/Machine/Load.lean ====
section
/-! DEFINITION. Loading tiles: the checks of R35 and R156, the status of Table 21-5, binding ports (R74, R378), launch set-up of core
tiles (R156, R382), images of fabric tiles (R275, R276). Object files have no layout in the spec (log entry 14). -/
namespace Sys2Proof.Machine

/-! Limits (Table 2-1, R35, R156). -/

/-- Whether a range of whole lines lies in the quad scratchpad and outside every overflow ring area of `ring` records. -/
def rangeOk (ring off lines : Nat) : Bool :=
  decide (off % 128 = 0 ∧ 1 ≤ lines ∧ off + 128 * lines ≤ 0x100000) &&
    (linesOfRange off (128 * lines)).all (fun l => decide (l * 128 % 0x40000 < 0x40000 - ring * 32))

/-- Whether numbers of a list differ from each other. -/
def distinct : List Nat → Bool
  | [] => true
  | a :: r => !r.contains a && distinct r

/-- Whether an actor declaration keeps the limits of Table 2-1 and R35. -/
def declOk (ring codeBase codeLen : Nat) (d : ActorDecl) : Bool :=
  decide (d.ins.length ≤ 8 ∧ d.outs.length ≤ 8 ∧ d.tiles.length ≤ 4 ∧ d.aff ≤ 5 ∧ 1 ≤ d.conc ∧ d.conc ≤ 16)
    && (d.ins ++ d.outs).all (fun p => decide (1 ≤ p.rate ∧ p.rate ≤ 256))
    && distinct ((d.ins ++ d.outs).map (·.q.1))
    && decide (d.entry % 4 = 0 ∧ codeBase ≤ d.entry ∧ d.entry + 4 ≤ codeBase + codeLen)
    && d.tiles.all (fun t => rangeOk ring t.off t.lines)
    && (match d.stateArea with
      | some (o, n) => rangeOk ring o n
      | none => true)

/-- Whether the `.launch` clauses keep R156 and R48. -/
def launchOk (o : TileObject) : Bool :=
  [256, 512, 1024, 2048, 4096].contains o.ring
    && o.fullLines.all (fun l => decide (l < 8192))
    && o.jobcaps.all (fun j => decide (8 ≤ j.k.1 ∧ j.k.1 ≤ 11) && (Cap.mk j.bits true).wellFormed) && distinct (o.jobcaps.map (·.k.1))
    && o.sets.all (fun s => match s.2.2 with
      | .k r _ => !decide (8 ≤ r.1 ∧ r.1 ≤ 11)
      | _ => true)

/-- The exponent of a capability that covers `len` bytes (Table 5-4). -/
def capExpo (len : Nat) : Nat := (leastFrom (fun e => decide ((len + 2 ^ e - 1) / 2 ^ e ≤ 1023)) 0 47).getD 46

/-- The bytes that a tile's code takes: padded with zeros to a length that a capability can have (R118, R121, log entry 39). -/
def codeSpan (len : Nat) : Nat :=
  let e := capExpo len
  (len + 2 ^ e - 1) / 2 ^ e * 2 ^ e

/-- The code capability of a tile: X and G over exactly its code with the padding (R121, R137). -/
def codeCap (base len : Nat) : Cap := mkCap (permX + 128) base (codeSpan len) (capExpo len) base

/-- Whether the code has a place and a capability that holds it. -/
def codeOk (o : TileObject) : Bool :=
  decide (o.codeBase.toNat % 2 ^ max 8 (capExpo o.codeLen) = 0 ∧ o.codeBase.toNat + o.codeLen ≤ 2 ^ 56 ∧ o.code.length ≤ o.codeLen)

/-- Whether a core object keeps every limit (R35, R156). -/
def objectOk (o : TileObject) : Bool :=
  decide (o.actors.length ≤ 64) && launchOk o && codeOk o && o.actors.all (declOk o.ring o.codeBase.toNat o.codeLen)

/-! Ports. -/

/-- Whether a peer's LINKCFG mask names some port, and the port that items of a queue travel on (R404): among the up ports of the mask the one
at the queue identifier modulo their number. -/
def State.linkFor (s : State) (m id : Nat) : Option (Fin 12) :=
  let ups := (List.finRange 12).filter (fun p => (s.peers.get (Fin.ofNat 16 m)).mask.getLsbD p.1 && (s.links.get p).up)
  if ups.isEmpty then none else ups[id % ups.length]?

/-- The port that a producer port towards a peer is bound with: an up one, or while none is up the lowest of the mask. -/
def State.linkBound (s : State) (m id : Nat) : Option (Fin 12) :=
  s.linkFor m id <|> (List.finRange 12).find? (fun p => (s.peers.get (Fin.ofNat 16 m)).mask.getLsbD p.1)

/-- Queues of the stalls carry fixed identifiers (R407). -/
def stallOfQueue (q : Nat) : Option (Nat × Nat) :=
  if 0x8900 ≤ q ∧ q < 0x8920 ∧ q % 8 < 5 then some ((q - 0x8900) / 8, q % 8) else none

/-- Whether a producer at an island is remote to a queue (R74). -/
def Queue.remoteTo (q : Queue) (island : Nat) : Bool :=
  if q.homeKind = 2 then stackOfIsland island != q.hloc else island != q.homeIsland

/-- A consumer port bound (R70, R67): it starts at the free indices; `none` where the queue has no port left. -/
def Queue.bindCons (q : Queue) (o : Owner) : Option Queue :=
  if (q.consOf o).isSome then some q
  else if q.cons.length < q.consumers then some { q with cons := q.cons ++ [{ owner := o, headN := q.freeN, headU := q.freeU }] }
  else none

/-- A producer port bound with window `w` (R74, R378): `none` where the remote windows would sum to more than C or there are 16. -/
def Queue.bindProd (q : Queue) (o : Owner) (remote : Bool) (w : Nat) : Option Queue :=
  let w := max 1 w
  let others := q.prods.filter (·.remote)
  if (q.prodOf o).isSome then some q
  else if remote ∧ (16 ≤ others.length ∨ q.cap < (others.map (·.window)).sum + w) then none
  else some { q with prods := q.prods ++ [{ owner := o, remote := remote, window := w }] }

/-- A queue that a tile of a job may bind: its job's, or a stall's of its partition. -/
def State.mayBind (s : State) (job id : Nat) (q : Queue) : Bool :=
  q.job == job || (match stallOfQueue id with
    | some (p, _) => p == (s.job job).part.1
    | none => false)

/-- The die of a queue's home. -/
def Queue.homeDie (q : Queue) : Nat := dieOfIsland q.homeIsland

/-- A queue homed on another module, known here from the first port bound to it (R83); identifiers 0x8000 to 0x88FF are no other queue's (R251). -/
def State.farQueue (s : State) (job : Nat) (d : PortDecl) : State :=
  match d.far, s.queue? d.queue with
  | some (m, id, desc), none =>
    if 0x8000 ≤ d.queue ∧ d.queue < 0x8900 then s
    else s.setQueue d.queue { job := job, desc := desc, far := some (m, id), mapped := some (0, 256) }
  | _, _ => s

/-- One port of a tile bound. A port on an engine queue needs none (R252). A queue homed on another die or module asks for a capability with G
(R83), one to which no traffic passes, in another partition or behind one, cannot be bound (R16, R345, log entry 66). -/
def State.bindPort (s0 : State) (job : Nat) (t : TileRef) (out : Bool) (d : PortDecl) : Except Cause State :=
  if isEngineId d.queue then (if out then .ok s0 else .error .cfgformat)
  else
    let s := s0.farQueue job d
    let home := dieOfIsland (islandOfTile t)
    let give := fun (o : Option Queue) => match o with
      | some q => .ok (s.changeQueue d.queue (fun _ => q))
      | none => .error .cfgformat
    match s.queue? d.queue with
    | none => .error .cfgformat
    | some q0 =>
      let q := s.blockView d.queue q0
      let passes := if out then s.reaches home q.homeDie else s.reaches q.homeDie home
      if q.far.isNone ∧ !passes then .error .buserr
      else if !s.mayBind job d.queue q ∨ q.far ≠ d.far.map (fun x => (x.1, x.2.1)) then .error .cfgformat
      else match q.far with
        | some (m, id) =>
          match s.linkBound m id.toNat with
          | some l =>
            if !out then .error .cfgformat
            else if !d.reach then .error .perm
            else give ((q.bindProd (.tile t) true d.window).map (fun (x : Queue) => { x with
              prods := x.prods.map (fun p => if p.owner = .tile t then { p with link := some l } else p) }))
          | none => .error .cfgformat
        | none =>
          if q.homeDie ≠ home ∧ !d.reach then .error .perm
          else give (if out then q.bindProd (.tile t) (q.remoteTo (islandOfTile t)) d.window else q.bindCons (.tile t))

/-- All ports of the actors bound. -/
def State.bindPorts (s : State) (job : Nat) (t : TileRef) (l : List ActorDecl) : Except Cause State :=
  l.foldlM (fun (st : State) d => do
    let st ← d.ins.foldlM (fun (st : State) p => st.bindPort job t false p) st
    d.outs.foldlM (fun (st : State) p => st.bindPort job t true p) st) s

/-- The exception and answer queues that a tile brings (R370), the answer queue's consumer port taken by the device. -/
def State.bindEx (s : State) (job exq ansq : Nat) : Option State :=
  match s.queue? exq, s.queue? ansq with
  | some x, some a =>
    if exq ≠ ansq ∧ x.job = job ∧ a.job = job ∧ x.type = 0x7E ∧ x.isz = 64 ∧ x.slotsN = 256 ∧ a.type = 0x7D ∧ a.isz = 16 ∧ a.slotsN = 256
        ∧ (a.bindCons .device).isSome then
      some (s.changeQueue ansq (fun (q : Queue) => (q.bindCons .device).getD q))
    else none
  | _, _ => none

/-- The job capabilities of a tile, the same for every tile of its job (R156): the first tile brings them. -/
def State.bindCaps (s : State) (job : Nat) (l : List JobCap) : Option State :=
  match (s.job job).caps with
  | some c => if c = l then some s else none
  | none => some { s with jobs := mapPut job { s.job job with caps := some l } s.jobs }

/-! Core tiles. -/

/-- Code written where the job's pages put it, page by page; `none` where a page is absent. -/
def State.writeCode (s : State) (job : Nat) : Nat → Nat → List Byte → Option State
  | 0, _, bs => if bs.isEmpty then some s else none
  | n + 1, va, bs =>
    if bs.isEmpty then some s
    else match s.walk job va with
      | .leaf x _ =>
        let m := 4096 - va % 4096
        (s.deviceWrite (x.pa + (va - x.va)) (bs.take m)).writeCode job n (va + m) (bs.drop m)
      | _ => none

/-- One `set` clause on a context (R156): k registers receive bits without a tag. -/
def Ctx.init (x : Ctx) : RegInit → Ctx
  | .g r v => x.apply (.g r v)
  | .v r v => x.apply (.v r v)
  | .m r v => x.apply (.m r v)
  | .k r v => x.apply (.k r { bits := v, tag := false })

/-- A context as launch leaves it (R156). -/
def launchCtx (o : TileObject) (i : Nat) (x : Fin 4) : Ctx :=
  let c0 : Ctx := { stallchk := o.stallchk }
  let c1 := o.jobcaps.foldl (fun (y : Ctx) j => { y with k := vset y.k j.k { bits := j.bits, tag := true } }) c0
  (o.sets.filter (fun e => e.1.1 == i && e.2.1 == x)).foldl (fun (y : Ctx) e => y.init e.2.2) c1

/-- The tile record of a core object. -/
def tileOf_ (o : TileObject) (job : Nat) (priv : Fin 3) : Tile :=
  { job := job, priv := priv, code := codeCap o.codeBase.toNat o.codeLen, actors := o.actors.map (fun d => { decl := d })
    ring := o.ring, ex := { exq := o.exq, ansq := o.ansq } }

/-- A core tile put onto its quad: its instruction cache empty, every full/empty bit empty but those of the named lines (R80), also the bits of lines
under items of a mapped ring (DESIGN CHOICE: log entry 103), its contexts launched and its matrix units reset (R156, R205, R382). QUIESCETO is at
least 1,024 (Table 19-3). -/
def State.launch (s : State) (quad job : Nat) (priv : Fin 3) (o : TileObject) : State :=
  let s1 := s.modQuad quad (fun k => { k with
    tile := some (tileOf_ o job priv), quiesceTo := BitVec.ofNat 64 (max 1024 o.quiesce.toNat), permits := false, ckptTbl := o.ckptTbl, icache := []
    trapTbl := o.traps.foldl (fun v p => vset v p.1 p.2) (Vector.replicate 16 0)
    mintBase := 0, mintLen := 0, mintPerm := 0, lastUrg := 63, lastNorm := 63, urgRun := 0 })
  let base := scratchBase quad / 128
  let s2 := o.fullLines.foldl (fun (st : State) l => st.setFull (scratchBase quad + 128 * l) true)
    { s1 with full := s1.full.filter (fun l => decide (l < base) || decide (base + 8192 ≤ l)) }
  (List.range 4).foldl (fun (st : State) i =>
    st.modCore (4 * quad + i) (fun k => { k with ctxs := Vector.ofFn (fun x => launchCtx o i x), mu := {}, steal := {}, urgRun := 0, botRun := 0 })) s2

/-- Whether an island is retired (R420). -/
def State.isRetired (s : State) (p : Nat) : Bool := (s.island p).retired

/-- Whether a die belongs to a job's partition. -/
def State.inPart (s : State) (d job : Nat) : Bool := (s.die d).part == (s.job job).part

/-- A core tile program loaded (R382): the cause that refuses it, in the order of Table 21-5 (log entry 40), or the state with it. It holds of every
path on which a program comes to a quad (R345, R420). -/
def State.loadProgram (s : State) (job quad : Nat) (priv : Fin 3) (o : TileObject) : Except Cause State :=
  if !objectOk o then .error .cfgformat
  else if s.isRetired (islandOfCore (4 * quad)) then .error .capacity
  else if !s.inPart (quad / 256) job then .error .buserr
  else match (s.bindEx job o.exq o.ansq).bind (fun s1 => s1.bindCaps job o.jobcaps) with
    | none => .error .cfgformat
    | some s1 =>
      match s1.bindPorts job (.quad quad) o.actors with
      | .error c => .error c
      | .ok s2 =>
        let span := codeSpan o.codeLen
        match s2.writeCode job (span / 4096 + 2) o.codeBase.toNat (o.code ++ List.replicate (span - o.code.length) 0) with
        | none => .error .cfgformat
        | some s3 => .ok (s3.launch quad job priv o)

/-- TILELOAD of a core tile at tile privilege (R29, R31, R382). A pre-empted tile keeps its quad, and a load there is refused with PERM as on any quad
that holds a tile (DESIGN CHOICE: log entry 101). -/
def State.loadQuad (s : State) (job quad : Nat) (o : TileObject) : Except Cause State :=
  if !objectOk o ∨ 1024 ≤ quad then .error .cfgformat
  else if s.isRetired (islandOfCore (4 * quad)) then .error .capacity
  else if s.isArbor quad ∨ (s.quad quad).tile.isSome then .error .perm
  else if !s.inPart (quad / 256) job then .error .buserr
  else s.loadProgram job quad 0 o

/-! Fabric tiles. -/

/-- The block records of an image's bytes. -/
def imageRecords : Nat → List Byte → List (List Byte)
  | 0, _ => []
  | n + 1, bs => bs.take recordBytes :: imageRecords n (bs.drop recordBytes)

/-- The records of an image checked one after another: blocks seen, configurations, local registers. -/
def State.takeRecords (s : State) (f : Nat) (t : FabTile) (h : ImgHead) :
    List (List Byte) → List Nat → List (Nat × ElCtx) → List (Nat × Vector Dword 32) → Except Cause (List (Nat × ElCtx) × List (Nat × Vector Dword 32))
  | [], _, cs, rs => .ok (cs, rs)
  | b :: l, seen, cs, rs =>
    match s.blockCheck f t h seen b with
    | .error c => .error c
    | .ok (col, row) =>
      s.takeRecords f t h l ((8 * row + col) :: seen) ((blockCfg f (maskCtxs h.mask) col row b).foldl (fun m p => mapPut p.1 p.2 m) cs)
        (rs ++ blockRegs f col row b)

/-- Whether two fabric tiles share a block. -/
def fabOverlap (f : Nat) (t : FabTile) (g : Nat) (u : FabTile) : Bool :=
  ftIsland f == ftIsland g && decide (ftCol f ≤ ftCol g + u.widthM1.1 ∧ ftCol g ≤ ftCol f + t.widthM1.1
    ∧ ftRow f ≤ ftRow g + u.heightM1.1 ∧ ftRow g ≤ ftRow f + t.heightM1.1)

/-- What loading gives: done with a count of quads or blocks, refused, or a wait for a translation. -/
inductive Loaded where
  | ok (s : State) (n : Nat)
  | refused (c : Cause)
  | wait (s : State)

/-- A fabric image put in place: its elements, registers and slots, and its successor read (R275 to R278). -/
def State.graftImage (s : State) (f : Nat) (t : FabTile) (h : ImgHead) (cfg : List (Nat × ElCtx)) (regs : List (Nat × Vector Dword 32)) : Loaded :=
  let s2 := (s.tileElements f t).foldl (fun (st : State) e => st.modElement e (fun _ => {})) (s.setFab f t)
  let s3 := regs.foldl (fun (st : State) p => st.modElement p.1 (fun y => { y with l := p.2 })) s2
  let s4 := s3.install f t (maskCtxs h.mask) cfg []
  let a : Access := ⟨.fabric f, islandOfFab (ftIsland f / 32) (ftIsland f % 32), t.job, 1, false, none⟩
  match s4.fetchSplice f a none h.splice h.mask with
  | .inl s5 => .wait { s with islands := s5.islands, cores := s5.cores, mem := s5.mem }
  | .inr s5 => .ok s5 ((t.widthM1.1 + 1) * (t.heightM1.1 + 1))

/-- TILELOAD of a fabric tile (R28 to R30, R275, R276, R382). -/
def State.loadFabric (s : State) (job f : Nat) (o : FabricObject) : Loaded :=
  let t0 : FabTile := { job := job, widthM1 := Fin.ofNat 8 o.widthM1, heightM1 := Fin.ofNat 8 o.heightM1, ex := { exq := o.exq, ansq := o.ansq } }
  if f % 8 ≠ 0 ∨ 65536 ≤ f ∨ 7 < ftCol f + o.widthM1 ∨ 6 < ftRow f + o.heightM1 then .refused .cfgformat
  else match imgHead (o.image.take 64) with
    | none => .refused .cfgformat
    | some h =>
      if h.wm1 ≠ o.widthM1 ∨ h.hm1 ≠ o.heightM1 ∨ !s.slotsOk f t0 h.slots ∨ o.image.length ≠ 64 + recordBytes * h.nblk then .refused .cfgformat
      else match s.takeRecords f t0 h (imageRecords h.nblk (o.image.drop 64)) [] [] [] with
        | .error _ => .refused .cfgformat
        | .ok (cfg, regs) =>
          if s.isRetired (islandOfFab (ftIsland f / 32) (ftIsland f % 32)) then .refused .capacity
          else if s.fabrics.any (fun p => fabOverlap f t0 p.1 p.2) then .refused .perm
          else if !s.inPart (f / 2 ^ 14) job then .refused .buserr
          else match s.bindEx job o.exq o.ansq with
            | none => .refused .cfgformat
            | some s1 => s1.graftImage f { t0 with ctxMask := h.mask, slots := h.slots, image := cfg, imageRegs := regs } h cfg regs

end Sys2Proof.Machine
end

