-- ==== Sys2Proof/Machine/Health.lean ====
section
/-! DEFINITION. The health record (R422), ageing (R419 to R421), power and cooling (R423, R424), soft errors and machine checks (R374,
R375), the host port's training (R394). -/
namespace Sys2Proof.Machine

/-! The health record. -/

/-- Entries of the event ring (Table 23-5). -/
def eventRing : Nat := 1920

/-- An event written into the ring, over the oldest where it is full (R422). -/
def State.logEvent (s : State) (kind die island old new : Nat) : State :=
  { s with events := mapPut s.nextEvent ⟨s.micros, kind, die, island, old, new⟩ s.events, nextEvent := (s.nextEvent + 1) % eventRing }

/-- Key of a corrected-error count (Table 23-5): die and kind of storage. -/
def correctedKey (die kind : Nat) : Nat := 8 * die + kind

/-- A counter of 8 bytes that saturates (R422). -/
def saturating (n : Nat) : Nat := min (n + 1) (2 ^ 64 - 1)

/-- Retired islands of a die as a mask. -/
def State.retiredMask (s : State) (die : Nat) : Nat :=
  (List.range 256).foldl (fun n p => if dieOfIsland p = die ∧ (s.island p).retired then n + 2 ^ (8 * yOfIsland p + xOfIsland p) else n) 0

/-- The oldest sweep age of a die in seconds (R419). -/
def State.sweepAge (s : State) (die : Nat) : Nat :=
  ((List.range 256).filter (fun p => dieOfIsland p == die)).foldl (fun n p => max n ((s.micros - (s.island p).sweptAt) / 1000000)) 0

/-- Whether an island has gone 60 minutes without a sweep (R419). -/
def State.unswept (s : State) (p : Nat) : Bool := decide (3600000000 ≤ s.micros - (s.island p).sweptAt)

/-- The islands of a die whose sweep age the record flags, as a mask (R419). -/
def State.unsweptMask (s : State) (die : Nat) : Nat :=
  (List.range 256).foldl (fun n p => if dieOfIsland p = die ∧ s.unswept p then n + 2 ^ (8 * yOfIsland p + xOfIsland p) else n) 0

/-- Lanes of a link port (R403): it trains at all 8 or not at all. -/
def LinkPort.width (l : LinkPort) : Nat := if l.up then 8 else 0

/-- The values that a part of the record without a layout of its own carries (Table 23-5). -/
def State.healthValues (s : State) (off : Nat) : List Nat :=
  if off < 0x40 then [1, (s.micros - s.bootAt) / 1000000, s.limit, (s.die 0).sec.hssIndex]
  else if off < 0x440 then
    let d := (off - 0x40) / 256
    let y := s.die d
    [y.supply, if y.fallback then 1 else 0, s.retiredMask d, s.sweepAge d, s.unsweptMask d, Config.ringOscillator d s.micros, y.peak, s.host.width,
     s.host.rate] ++ s.links.toList.map LinkPort.width
  else match mapFind s.events ((off - 0x1000) / 32) with
    | some e => [e.time, e.kind, e.die, e.island, e.old, e.new]
    | none => []

/-- A byte of the health record (Table 23-5). -/
def State.healthAt (s : State) (off : Nat) : Byte :=
  if off < 4 then BitVec.ofNat 8 (0x48544C48 / 256 ^ off)
  else if off < 0x440 then Config.healthByte off (s.healthValues off)
  else if off < 0x640 then
    let i := s.island ((off - 0x440) / 2)
    BitVec.ofNat 8 (if off % 2 = 0 then i.marginBin else min i.marginBin i.powerBin)
  else if off < 0x740 then BitVec.ofNat 8 (mapGet 0 s.corrected ((off - 0x640) / 8) / 256 ^ (off % 8))
  else if off < 0x1000 then 0
  else if (mapFind s.events ((off - 0x1000) / 32)).isSome then Config.healthByte off (s.healthValues off)
  else 0

/-- The record: 65,536 bytes. -/
def State.healthRecord (s : State) : List Byte := (List.range 65536).map s.healthAt

/-! Ageing. -/

/-- Engine queues of an island (R251). -/
def State.enginesQuiet (s : State) (p : Nat) : Bool :=
  s.engines.all (fun e => e.2.entries.isEmpty || engineIsland e.1 != p || decide (0x8800 ≤ e.1))

/-- Whether an island has no firing, handler, call or engine entry (R419). -/
def State.islandIdle (s : State) (p : Nat) : Bool :=
  s.enginesQuiet p &&
    (if isCoreIsland p then
      (List.range 32).all (fun i =>
        let k := s.core (firstCoreOfIsland p + i)
        k.order.isEmpty && (List.finRange 4).all (fun x => (k.ctxs.get x).run == .free))
    else s.fabrics.all (fun f => islandOfFab (ftIsland f.1 / 32) (ftIsland f.1 % 32) != p || (f.2.call.isNone && f.2.queue.isEmpty)))

/-- Whether an island stands in an idle window: 2 ms without such work (R419). -/
def State.idleWindow (s : State) (p : Nat) : Bool := s.islandIdle p && decide ((s.island p).busyAt + 2000 ≤ s.micros)

/-- PATH_SWEEP (R419): in an idle window of an island; what it finds is the firmware's input to its next plan. -/
def execPathSweep (island : Fin 256) (ok : Bool) (s : State) : Host.Outcome State Fault Refusal :=
  .next (if s.idleWindow island then s.modIsland island (fun i => { i with sweptAt := s.micros, sweepOk := some ok }) else s)

/-- Whether the firmware plans for an island that its measures show short (R419): by its last sweep, or from the replica monitors alone where it had
none within 60 minutes (log entry 96). -/
def State.plansFor (s : State) (p : Nat) : Bool := s.unswept p || (s.island p).sweepOk != some true

/-- REPLAN (R420): one step for an island of the die that is short of its margin: the supply by 5 mV up to 680 mV, then its margin bin
by 50 MHz down to 1.80 GHz, then it is retired. -/
def execReplan (die : Fin 4) (short : Fin 64) (s : State) : Host.Outcome State Fault Refusal :=
  .next (
    let p := modulePos die.1 (short.1 % 8) (short.1 / 8)
    let i := s.island p
    let v := (s.die die).supply
    if !s.plansFor p then s
    else if v < 680 then (s.modDie die (fun d => { d with supply := min 680 (v + 5) })).logEvent 1 die.1 short.1 v (min 680 (v + 5))
    else if 36 < i.marginBin then
      (s.modIsland p (fun i => { i with marginBin := i.marginBin - 1 })).logEvent 2 die.1 short.1 i.marginBin (i.marginBin - 1)
    else if i.retired then s
    else (s.modIsland p (fun i => { i with retired := true })).logEvent 3 die.1 short.1 0 1)

/-! Power and cooling. -/

/-- The lowest bin: 1.80 GHz (R420, log entry 97). -/
def lowestBin : Nat := 36

/-- The bin that an island runs at (R421). -/
def Island.bin (i : Island) : Nat := min i.powerBin i.marginBin

/-- An island's bin one step down, where it is not the lowest. -/
def Island.lowered (i : Island) : Island := if lowestBin < i.bin then { i with powerBin := i.bin - 1 } else i

/-- Islands lowered one step each in turn until the draw is down by `excess` watts or none is left to lower (R423): by how much a step lowers the draw
is the implementation's (log entry 97). -/
def State.lowerBins : List Nat → Nat → State → State
  | [], _, s => s
  | p :: r, excess, s =>
    if excess = 0 then s
    else
      let i := s.island p
      if lowestBin < i.bin then State.lowerBins r (excess - Config.stepSaves p i.bin) (s.modIsland p Island.lowered) else State.lowerBins r excess s

/-- POWER_SAMPLE (R423): 100 µs have passed; where the draw would exceed the limit bins of islands go down, the given island's first, as far as it
takes. -/
def execPowerSample (watts : Nat) (island : Fin 256) (s : State) : Host.Outcome State Fault Refusal :=
  .next (
    let s1 := { s with micros := s.micros + 100 }
    State.lowerBins ((List.range 64).flatMap (fun _ => island.1 :: (List.range 256).filter (· != island.1))) (watts - s.limit) s1)

/-- BIN_RAISE (R423): one step of 50 MHz, a millisecond after the last, up to the margin bin. -/
def execBinRaise (island : Fin 256) (s : State) : Host.Outcome State Fault Refusal :=
  .next (
    let i := s.island island
    if i.powerBin < i.marginBin ∧ i.raisedAt + 1000 ≤ s.micros then
      s.modIsland island (fun i => { i with powerBin := i.powerBin + 1, raisedAt := s.micros })
    else s)

/-- A junction of a die has reached a temperature (R422). -/
def Die.heated (d : Die) (t : Nat) : Die := { d with peak := max d.peak t }

/-- THERMAL_THROTTLE (R424): at 105 °C the bins of the die's islands go down. -/
def execThermalThrottle (die : Fin 4) (s : State) : Host.Outcome State Fault Refusal :=
  .next (((List.range 256).foldl (fun (st : State) p =>
    if dieOfIsland p = die.1 then st.modIsland p Island.lowered else st) (s.modDie die (fun d => d.heated 105))).logEvent 8 die.1 0 0 0)

/-- THERMAL_SHUTDOWN (R424): at 115 °C the core supply goes from all dies, and the host sees the link go down. -/
def execThermalShutdown (die : Fin 4) (s : State) : Host.Outcome State Fault Refusal :=
  .next { s.modDie die (fun d => d.heated 115) with
    powered := false, host := { s.host with width := 0, rate := 0 }, links := s.links.map (fun l => { l with up := false }) }

/-! Errors. -/

/-- The arbor quads of a die that have a role. -/
def State.roleQuads (s : State) (die role : Nat) : List Nat :=
  (List.range 256).filterMap (fun k =>
    let q := 256 * die + k
    if s.isArbor q ∧ s.roleOf q = role then some q else none)

/-- MACHINE_CHECK (R375): the partition freezes 16 cycles later, and the role-4 quad of each of its dies receives an MCHECK record. -/
def execMachineCheck (island : Fin 256) (s : State) : Host.Outcome State Fault Refusal :=
  .next (
    let d := dieOfIsland island.1
    let core := match s.roleQuads d 4 with
      | q :: _ => 4 * q
      | [] => 1024 * d
    let s1 := s.askFreeze d core
    let s2 := (s.partDies d).foldl (fun (st : State) e => (st.roleQuads e 4).foldl (fun (st : State) q =>
      st.report (.quad q) { cause := .mcheck, src := 7, place := BitVec.ofNat 64 island.1 }) st) s1
    s2.logEvent 6 d (8 * yOfIsland island.1 + xOfIsland island.1) 0 0)

/-- The head of a FIFO replaced by an error token (R274, R374). -/
def Element.spoil (y : Element) (p : Fin 4) (d : Dword) : Element :=
  match y.fifos.get p with
  | [] => y
  | t :: r => { y with fifos := vset y.fifos p ({ t with kind := Fin.ofNat 8 kError, data := d } :: r) }

/-- SOFT_ERROR (R374). -/
def execSoftError (hit : SoftHit) (s : State) : Host.Outcome State Fault Refusal :=
  .next (match hit with
    | .corrected die kind =>
      { s with corrected := mapPut (correctedKey die.1 kind.1) (saturating (mapGet 0 s.corrected (correctedKey die.1 kind.1))) s.corrected }
    | .poison a n =>
      if isPlain a ∧ regionOf a ≤ 2 ∧ n ≤ 64 then
        { s with poison := (List.range n).foldl (fun l i => setAdd (a + i) l) s.poison }.logEvent 6 (dieOfPa a) 0 0 0
      else s
    | .elementStore e =>
      match s.fabOf e with
      | some (f, _) => s.modFab f (fun t => { t with regraft := setAdd e t.regraft })
      | none => s
    | .fifo e port =>
      let p : Fin 4 := Fin.ofNat 4 port
      s.modElement e (fun y => y.spoil p (s.errorData e y.running .parity)))

/-- BACK_INVALIDATE_RESPONSE (R396): the host's modified data merge, and the line is no longer tracked. -/
def execBackInvalidateResponse (line : Nat) (data : Option (List Byte)) (s : State) : Host.Outcome State Fault Refusal :=
  .next (
    if !s.host.snooped.contains line then s
    else
      let s1 := match data with
        | some bs => if s.host.modified.contains line then s.poke (64 * line) (padTo 64 bs) else s
        | none => s
      { s1 with host := { s1.host with
          tracked := s1.host.tracked.filter (· != line), modified := s1.host.modified.filter (· != line), snooped := setDel line s1.host.snooped } })

/-- HOST_PORT_TRAINING (R394). -/
def execHostPortTraining (width rate : Nat) (s : State) : Host.Outcome State Fault Refusal :=
  .next (
    if [1, 2, 4, 8, 16].contains width ∧ 1 ≤ rate ∧ rate ≤ 6 then
      { s with host := { s.host with width := width, rate := rate } }.logEvent 9 0 0 s.host.width width
    else s)

end Sys2Proof.Machine
end

