-- ==== Sys2Proof/Machine/Stalls.lean ====
section
/-! DEFINITION. Calls to stalls: taking, committing once per token, restarts (R407 to R409). -/
namespace Sys2Proof.Machine

/-- Where the firmware keeps what it lays out in HBM for a partition (log entry 42): the top of the first stack of its lowest die. -/
def State.reserved (s : State) (part : Nat) (below : Nat) : Nat :=
  2 * (((List.range 4).find? (fun d => (s.die d).part.1 == part)).getD 0) * 2 ^ 36 + 48 * 2 ^ 30 - below

/-- Key of a stall: partition and kind. -/
def stallKey (part kind : Nat) : Nat := 8 * part + kind

/-- A stall. -/
def State.stall (s : State) (part kind : Nat) : Stall := mapGet {} s.stalls (stallKey part kind)

/-- The state with a stall changed. -/
def State.modStall (s : State) (part kind : Nat) (f : Stall → Stall) : State :=
  { s with stalls := mapPut (stallKey part kind) (f (s.stall part kind)) s.stalls }

/-- The reply queue that a call names (R407). -/
def replyQueue (call : List Dword) : Nat := bitsOf (call.getD 1 0).toNat 16 16

/-- The 32 bytes of a reply (R407). -/
def replyBytes (r : List Dword) : List Byte := padTo 32 (r.flatMap dwordBytes)

/-- A reply pushed; `none` while its queue has no free slot. A reply queue that does not exist, or one of another type (R82), receives nothing. -/
def State.sendReply (s : State) (call r : List Dword) : Option State :=
  let q := replyQueue call
  if !((s.queue? q).any (fun x => x.type == 0 || x.type == 0x61)) then some s
  else if s.roomDevice q false then some (s.pushDevice q false ⟨0, 0x61, 0, replyBytes r⟩)
  else none

/-- The item that a stall would take: consumer port, lane, index, type, bytes and client (R407). -/
def State.stallHead (s : State) (part kind : Nat) : Option (Nat × Bool × BitVec 32 × BitVec 8 × List Byte × Owner) :=
  match s.queue? (stallQueue part kind) with
  | none => none
  | some q =>
    match q.consOf (.stall part kind) with
    | none => none
    | some c =>
      match s.candidate q c none with
      | .item u i =>
        let port := (q.owners.find? (fun o => o.1 == u && o.2.1 == i)).map (·.2.2)
        some (c, u, i, s.itypeAt q u i, s.itemAt q u i, ((port.bind (fun p => q.prods[p]?)).map (·.owner)).getD .device)
      | _ => none

/-- A recorded reply of a client's token; TOKEN 0 is never recorded (R408). -/
def Stall.recorded (t : Stall) (client : Owner) (token : Dword) : Option (List Dword) :=
  (t.record.find? (fun r => r.1 == client && r.2.1 == token && token != 0)).map (·.2.2)

/-- Answers sent as far as their reply queues have room, in order; the others stay. -/
def State.sendAnswers (s : State) : List (Owner × Dword × List Dword × List Dword) → State × List (Owner × Dword × List Dword × List Dword)
  | [] => (s, [])
  | e :: r =>
    match s.sendReply e.2.2.1 e.2.2.2 with
    | some s1 => s1.sendAnswers r
    | none =>
      let p := (s.want (replyQueue e.2.2.1)).sendAnswers r
      (p.1, e :: p.2)

/-- The answers of a running stall that are due sent (R408). -/
def State.answerCalls (s : State) (part kind : Nat) : State :=
  let t := s.stall part kind
  if !t.running ∨ t.answers.isEmpty then s
  else
    let p := s.sendAnswers t.answers
    p.1.modStall part kind (fun t => { t with answers := p.2 })

/-- STALL_CALL (R408): replies of committed calls leave; then an item of type 0x60 is a call: a recorded token is answered from the record, any other
waits for its commit. Other items (page requests, R365) are taken and served outside this step. -/
def execStallCall (part : Fin 4) (kind : Fin 5) (s : State) : Host.Outcome State Fault Refusal :=
  .next (
    let s := s.answerCalls part.1 kind.1
    let t := s.stall part.1 kind.1
    match t.running, s.stallHead part.1 kind.1 with
    | true, some (c, u, i, type, bytes, client) =>
      let call := dwordsOf 8 bytes
      let taken := s.take (stallQueue part.1 kind.1) c u i
      if type ≠ 0x60 then taken
      else match t.recorded client (call.getD 0 0) with
        | some r => (taken.sendReply call r).getD (s.want (replyQueue call))
        | none => taken.modStall part.1 kind.1 (fun t => { t with calls := t.calls ++ [(client, call.getD 0 0, call)] })
    | _, _ => s)

/-- Tokens that a completion record keeps for a client (R408). -/
def recordLimit : Nat := 4096

/-- The record of a client after one more token: the last 4,096 stay (R408). -/
def Stall.remember (t : Stall) (client : Owner) (token : Dword) (r : List Dword) : Stall :=
  if token = 0 then t
  else
    let mine := t.record.filter (fun e => e.1 == client)
    let record := match mine with
      | old :: _ => if recordLimit ≤ mine.length then t.record.erase old else t.record
      | [] => t.record
    { t with
      record := record ++ [(client, token, r)]
      clients := if t.clients.any (·.1 == client) then t.clients.map (fun e => if e.1 = client then (e.1, e.2 + 1) else e) else t.clients ++ [(client, 1)] }

/-- Where the next completion record of a client stands in HBM (R408, log entry 42): 256 KiB of each stall for each client, 64 bytes for each of the
last 4,096 tokens. -/
def State.recordAt (s : State) (part kind : Nat) (client : Owner) : Nat :=
  let l := (s.stall part kind).clients
  let i := (l.findIdx? (·.1 == client)).getD l.length
  s.reserved part (2 ^ 33) + kind * 2 ^ 30 + i * 2 ^ 18 + ((l.find? (·.1 == client)).map (·.2)).getD 0 % recordLimit * 64

/-- STALL_COMMIT (R408): replies of committed calls leave; then the oldest call commits: its reply goes into the completion record, and is due to it
and to every call that waits on its token. It leaves in a later step of the stall, so that a failure may come between (R409). -/
def execStallCommit (part : Fin 4) (kind : Fin 5) (err : BitVec 8) (r2 r3 : Dword) (s : State) : Host.Outcome State Fault Refusal :=
  .next (
    let s := s.answerCalls part.1 kind.1
    let t := s.stall part.1 kind.1
    match t.running, t.calls with
    | true, (client, token, call) :: rest =>
      let r := [token, err.setWidth 64, r2, r3]
      let same := fun (e : Owner × Dword × List Dword) => e.1 == client && e.2.1 == token && token != 0
      let s1 := if token = 0 then s else s.deviceWrite (s.recordAt part.1 kind.1 client) (padTo 64 (replyBytes r))
      s1.modStall part.1 kind.1 (fun t => { t.remember client token r with
        calls := rest.filter (fun e => !same e)
        answers := t.answers ++ ((client, token, call) :: rest.filter same).map (fun e => (e.1, e.2.1, e.2.2, r)) })
    | _, _ => s)

/-- Flash reads that the storage stall had taken stop with RESTART (R261). -/
def State.restartFlash (s : State) (part : Nat) : State :=
  s.engines.foldl (fun (st : State) e =>
    if (s.die (dieOfIsland (engineIsland e.1))).part.1 = part then st.stopFlash e.1 .restart else st) s

/-- A stall fails or is restarted (R409): every call popped and not replied to, committed or not, is answered with RESTART, as far as the reply
queues have room; the new instance runs once all are answered. -/
def State.restartStall (s : State) (part kind : Nat) : State :=
  let s0 := if kind = 2 then s.restartFlash part else s
  let restart := fun (tok : Dword) => [tok, BitVec.ofNat 64 (causeCode .restart), 0, 0]
  let t := s0.stall part kind
  let p := s0.sendAnswers (t.answers.map (fun e => (e.1, e.2.1, e.2.2.1, restart e.2.1)) ++ t.calls.map (fun e => (e.1, e.2.1, e.2.2, restart e.2.1)))
  p.1.modStall part kind (fun t => { t with calls := [], answers := p.2, running := p.2.isEmpty })

/-- STALL_RESTART (R409). -/
def execStallRestart (part : Fin 4) (kind : Fin 5) (s : State) : Host.Outcome State Fault Refusal :=
  .next (
    let t := s.stall part.1 kind.1
    if t.running ∨ !t.calls.isEmpty ∨ !t.answers.isEmpty then s.restartStall part.1 kind.1 else s)

end Sys2Proof.Machine
end

