-- ==== Sys2Proof/Machine/Firmware.lean ====
section
/-! DEFINITION. Boot stages and signatures (R410 to R413), the configuration table and the arbor column (R342, R343), a die's reset, and
programs for arbor quads (R344). -/
namespace Sys2Proof.Machine

/-! Manifests (Table 23-2). -/

/-- The key slot's fuses and keys: digest of the ECDSA key, digest of the HSS key, the keys, revoked (R412). -/
def Sec.slot (x : Sec) (i : Nat) : Option (List Byte × List Byte × List Byte × List Byte × Bool) := x.keys[i]?

/-- Whether the two signatures of a manifest verify under a key slot (R411, R412): ECDSA first, LMS second. -/
def Sec.signatures (x : Sec) (i : Nat) (m : List Byte) : Bool × Bool :=
  match x.slot i with
  | none => (false, false)
  | some (de, dh, ke, kh, _) =>
    let msg := m.take 72
    (sha384 ke == de && ecdsaVerifies ke msg ((m.drop 72).take 96),
     sha384 kh == dh && hssVerifies kh msg ((m.drop 168).take 3292))

/-- Whether a key slot is revoked. -/
def Sec.revoked (x : Sec) (i : Nat) : Bool :=
  match x.slot i with
  | some (_, _, _, _, r) => r
  | none => false

/-- Whether a stage of a kind may run (R411, R412). -/
def Sec.stageOk (x : Sec) (kind : Nat) (st : Stage) : Bool :=
  let m := st.manifest
  decide (m.length = 4096 ∧ fieldAt m 0 4 = 0x4D465947 ∧ st.kind = kind ∧ fieldAt m 4 2 = kind ∧ fieldAt m 8 8 = st.body.length
      ∧ 1 ≤ st.body.length ∧ st.body.length ≤ 2 ^ 26 ∧ (m.drop 16).take 48 = sha384 st.body ∧ fieldAt m 64 4 ≤ 3
      ∧ fieldAt m 68 4 / 2 = 0 ∧ mapGet 0 x.svnMin kind ≤ fieldAt m 6 2)
    && (m.drop 3460).all (· == 0) && !x.revoked (fieldAt m 64 4) && x.signatures (fieldAt m 64 4) m == (true, true)

/-- An MREG extended with a digest, and the measurement log (R415). -/
def Sec.extended (x : Sec) (i : Fin 8) (d : List Byte) : Sec :=
  { x with mregs := vset x.mregs i (sha384 (x.mregs.get i ++ d)), log := x.log ++ [(d, i.1, x.seq)] }

/-- The fused minimum of a stage's KIND raised where its FUSESVN asks for it; fuses never decrease (R411). -/
def Sec.fuse (x : Sec) (st : Stage) : Sec :=
  if fieldAt st.manifest 68 4 % 2 = 1 then
    { x with svnMin := mapPut st.kind (max (mapGet 0 x.svnMin st.kind) (fieldAt st.manifest 6 2)) x.svnMin }
  else x

/-- A stage measured before it runs (R410). -/
def Sec.measured (x : Sec) (i : Fin 8) (st : Stage) : Sec := x.extended i (sha384 st.body)

/-- A stage that has booted: its measurement, and the fused minimum (R410, R411). -/
def Sec.ran (x : Sec) (i : Fin 8) (st : Stage) : Sec := (x.measured i st).fuse st

/-! The configuration table (Table 19-2). -/

/-- The role nibble of quad `q` in row `y`. -/
def roleNibble (a12 : Nat) (y q : Nat) : Nat := bitsOf a12 (4 * (4 * y + q)) 4

/-- A die's entry of the configuration table where R342 accepts it: A0 and the role bits. RSVD bits of A0 are ignored (R8). -/
def acceptedEntry (body : List Byte) (die : Nat) : Option (Nat × Nat) :=
  let a0 := fieldAt body (24 * die) 8
  let a12 := fieldAt body (24 * die + 8) 16
  let w := bitsOf a0 2 2
  let rows := (List.range 8).flatMap (fun y => (List.range 4).map (fun q => (q, roleNibble a12 y q)))
  if 24 * die + 24 ≤ body.length ∧ rows.all (fun (q, r) => decide (r ≤ 5) && (if q ≤ w then r != 0 else r == 0))
      ∧ (List.range 5).all (fun k => rows.any (fun (_, r) => r == k + 1)) then some (a0, a12)
  else none

/-- The accepted entry in force. -/
def Die.configure (d : Die) (e : Nat × Nat) : Die :=
  { d with col := Fin.ofNat 4 e.1, widthM1 := Fin.ofNat 4 (e.1 / 4), dbg := e.1.testBit 4, fallback := false, cfgReg := BitVec.ofNat 5 (e.1 % 16)
           roles := Vector.ofFn (fun i => Fin.ofNat 16 (bitsOf e.2 (4 * i.1) 4)) }

/-- The fallback map (R342): COL 0, W 1, DBG 0, rows 0 to 4 roles 1 to 5, rows 5 to 7 role 4. -/
def Die.fallenBack (d : Die) : Die :=
  { d with col := 0, widthM1 := 0, dbg := false, fallback := true, cfgReg := 16
           roles := Vector.ofFn (fun i => if i.1 % 4 ≠ 0 then 0 else if i.1 / 4 < 5 then Fin.ofNat 16 (i.1 / 4 + 1) else 4) }

/-! Reset of a die. -/

/-- Entries of a map whose key does not belong to the die. -/
def away {α : Type} (dieOf : Nat → Nat) (d : Nat) (l : List (Nat × α)) : List (Nat × α) := l.filter (fun e => dieOf e.1 != d)

/-- An island after its die's reset: what the plan in the boot flash restores stays (R420). -/
def Island.restarted (i : Island) : Island := { marginBin := i.marginBin, powerBin := i.powerBin, retired := i.retired, sweptAt := i.sweptAt, raisedAt := i.raisedAt }

/-- A die after reset and before its first stage: PARTID takes effect (R345); fused and non-volatile state stays (R411, R412, R416, R420, log
entry 41). -/
def Die.restarted (d : Die) : Die :=
  { dies := d.idReg.extractLsb' 4 4, part := Fin.ofNat 4 d.idReg.toNat, idReg := d.idReg, supply := d.supply
    sec := { hssIndex := d.sec.hssIndex, keys := d.sec.keys, svnMin := d.sec.svnMin } }

/-- A die's dynamic state cleared, with the jobs and stalls of its partition. -/
def State.clearDie (s : State) (d : Nat) : State :=
  let part := (s.die d).part
  let gone := s.jobs.filter (fun j => j.2.part == part)
  let s1 : State := { s with
    cores := away dieOfCore d s.cores
    quads := away (· / 256) d s.quads
    islands := s.islands.map (fun (p, i) => (p, if dieOfIsland p = d then i.restarted else i))
    engines := away (fun n => dieOfIsland (engineIsland n)) d s.engines
    fabrics := away (· / 2 ^ 14) d s.fabrics
    elements := away (· / 3584 / 32) d s.elements
    full := s.full.filter (fun l => !(isScratch (128 * l) && dieOfPa (128 * l) == d))
    queues := s.queues.filter (fun e => !gone.any (fun j => j.1 == e.2.job) && e.1 / 256 != roleQueue (256 * d) / 256)
    jobs := s.jobs.filter (fun j => j.2.part != part)
    stalls := s.stalls.filter (fun e => e.1 / 8 != part.1) }
  s1.modDie d Die.restarted

/-- An arbor quad taken over by Irfin for its role. One with role 4 has an exception queue of its own at the top of its die's first stack, mapped
from the start (R342, R375, log entry 74). -/
def State.startRole (s : State) (q : Nat) : State :=
  let s1 := s.modQuad q (fun k => { k with tile := some (s.roleTile q) })
  if s.roleOf q = 4 then
    let stack := q / 256 * 2
    let top := stack * 2 ^ 36 + 48 * 2 ^ 30
    let x : Queue :=
      { job := 0
        desc := BitVec.ofNat 128 (0x7E * 2 ^ 120 + 255 * 2 ^ 104 + 3 * 2 ^ 98 + 8 * 2 ^ 88 + 2 * 2 ^ 86 + stack * 2 ^ 74)
        pages := (List.range 5).map (fun k => (k, (top - 2 ^ 26 + 2 ^ 20) / 4096 + 6 * q + k))
        block := top - 2 ^ 25 + 256 * roleQueue q
        cons := [{ owner := .device, headN := 0, headU := 0 }] }
    let sl := 255 - (leastFrom (fun k => (mapFind (s1.island x.homeIsland).slots (255 - k)).isNone) 0 255).getD 0
    (s1.setQueue (roleQueue q) { x with mapped := some (x.homeIsland, sl) }).modIsland x.homeIsland (fun i =>
      { i with slots := mapPut sl (roleQueue q) i.slots })
  else s1

/-- Irfin runs on a die: arbor quads, hand-over, notify page (R342, R398, R415). -/
def State.startDie (s : State) (d : Nat) : State :=
  let part := (s.die d).part
  let s1 := s.modDie d (fun y => { y with started := true, sec := { y.sec with handedOver := true } })
  let s2 := (List.range 256).foldl (fun (st : State) k =>
    if st.isArbor (256 * d + k) then st.startRole (256 * d + k) else st) s1
  { s2 with notifyBase := vset s2.notifyBase part (s.reserved part.1 (2 ^ 26)) }

/-- The stages of stall images in the order of the stalls (R410): which of them run. -/
def Sec.stallStages : Sec → BitVec 5 → Nat → List Stage → Sec × BitVec 5 × Nat
  | x, b, _, [] => (x, b, 0)
  | x, b, k, st :: r =>
    if x.stageOk 4 st then (x.ran 4 st).stallStages (b ||| BitVec.ofNat 5 (2 ^ k)) (k + 1) r
    else
      let (y, b', n) := x.stallStages b (k + 1) r
      (y, b', n + 1)

/-- Events of refused stages. -/
def State.logRefused (d : Nat) : Nat → State → State
  | 0, s => s
  | n + 1, s => State.logRefused d n (s.logEvent 4 d 0 0 0)

/-- Stage 1, the configuration table: accepted, or the fallback map with its events (R342, R410). The boot ROM then writes the firewall from the entry
in force and locks it (R343). -/
def State.bootTable (s : State) (d : Nat) (cfg : List Stage) : State :=
  let s1 := match cfg.find? (·.kind == 1) with
    | some st =>
      if (s.die d).sec.stageOk 1 st then
        let s1 := s.modDie d (fun y => { y with sec := y.sec.measured 1 st })
        match acceptedEntry st.body d with
        | some e => s1.modDie d (fun y => y.configure e)
        | none => (s1.modDie d Die.fallenBack).logEvent 5 d 0 0 0
      else ((s.modDie d Die.fallenBack).logEvent 4 d 0 0 0).logEvent 5 d 0 0 0
    | none => ((s.modDie d Die.fallenBack).logEvent 4 d 0 0 0).logEvent 5 d 0 0 0
  s1.modDie d (fun y => { y with fwLock := true })

/-- Irfin raises the fused minimum of the configuration table where the die booted with it (R411). -/
def State.fuseTable (s : State) (d : Nat) (cfg : List Stage) : State :=
  match cfg.find? (·.kind == 1), (s.die d).fallback with
  | some st, false => s.modDie d (fun y => { y with sec := y.sec.fuse st })
  | _, _ => s

/-- Irfin refused (Table 23-1): the die does not start, and the module exposes only its DOE mailbox. -/
def State.refuseIrfin (s : State) (d : Nat) : State := (s.modDie d (fun y => { y with refused := true })).logEvent 4 d 0 0 0

/-- Stages 2 to 4: Irfin, its patch, the stall images (R410). -/
def State.bootIrfin (s : State) (d : Nat) (cfg : List Stage) : State :=
  match cfg.find? (·.kind == 2) with
  | some st =>
    if (s.die d).sec.stageOk 2 st then
      let s1 := ((s.modDie d (fun y => { y with sec := y.sec.ran 2 st })).startDie d).fuseTable d cfg
      let s2 := match cfg.find? (·.kind == 3) with
        | some p =>
          if (s1.die d).sec.stageOk 3 p then s1.modDie d (fun y => { y with sec := y.sec.ran 3 p }) else s1.logEvent 4 d 0 0 0
        | none => s1
      let (x, b, n) := (s2.die d).sec.stallStages 0 0 (cfg.filter (·.kind == 4))
      State.logRefused d n (s2.modDie d (fun y => { y with sec := x, stalls := b }))
    else s.refuseIrfin d
  | none => s.refuseIrfin d

/-- The module with its supply back (R424): dies that lost it have lost their state, and each waits for its own reset. -/
def State.supplied (s : State) : State :=
  if s.powered then s else { [0, 1, 2, 3].foldl State.clearDie s with powered := true }

/-- The time of the module's boot (R422): that of a reset while no other die runs (log entry 93). -/
def State.booting (s : State) (d : Nat) : State :=
  if [0, 1, 2, 3].any (fun e => e != d && (s.die e).started) then s else { s with bootAt := s.micros }

/-- DIE_RESET (R410): the die's state after reset, then the boot ROM's stages. It brings the supply back (R424). -/
def execDieReset (die : Fin 4) (cfg : List Stage) (s : State) : Host.Outcome State Fault Refusal :=
  .next (
    let s1 := (s.supplied.clearDie die).booting die
    let s2 := s1.modDie die (fun y => { y with sec := y.sec.extended 0 (Config.romDigest die.1) })
    (s2.bootTable die cfg).bootIrfin die cfg)

/-! Programs that Irfin loads (R344, R340). -/

/-- Whether a quad of a die is an arbor quad that serves its role only. -/
def State.isRoleQuad (s : State) (q : Nat) : Bool := s.isArbor q && (s.quad q).tile.any Tile.isIrfin

/-- The quad of role 4 bound to a program's exception and answer queues (R344). -/
def State.bindErrors (s : State) (d : Nat) (o : TileObject) : State :=
  match s.roleQuads d 4 with
  | r :: _ =>
    let t := Owner.tile (.quad r)
    let s1 := s.changeQueue o.exq (fun q => (q.bindCons t).getD q)
    s1.changeQueue o.ansq (fun q => (q.bindProd t (q.remoteTo (islandOfCore (4 * r))) 1).getD q)
  | [] => s

/-- FIRMWARE_PROGRAM_LOAD (R344): a program of KIND 6 for an arbor quad runs at firmware privilege; an image of KIND 4 becomes a stall's
tile at stall privilege, measured into MREG4 (R340, R410, log entry 43). A refusal logs an event of kind 4; so does a quad of another partition than
the program's job or on a retired island (R345, R420). -/
def execFirmwareProgramLoad (die : Fin 4) (stage : Stage) (quad : Fin 1024) (obj : TileObject) (s : State) : Host.Outcome State Fault Refusal :=
  .next (
    let d := s.die die
    let job := ((s.queue? obj.exq).map (·.job)).getD 0
    let arbor := stage.kind == 6
    if !d.started then s
    else if (stage.kind ≠ 6 ∧ stage.kind ≠ 4) ∨ !d.sec.stageOk stage.kind stage ∨ quad.1 / 256 ≠ die.1 ∨ !objectOk obj
        ∨ (if arbor then !s.isRoleQuad quad else s.isArbor quad || (s.quad quad).tile.isSome) then s.logEvent 4 die.1 0 0 0
    else match s.loadProgram job quad (if arbor then 2 else 1) obj with
      | .error _ => s.logEvent 4 die.1 0 0 0
      | .ok s1 =>
        let s2 := s1.modDie die (fun y => { y with sec := if arbor then y.sec.fuse stage else y.sec.ran 4 stage })
        if arbor then s2.bindErrors die.1 obj else s2)

end Sys2Proof.Machine
end

