-- ==== Sys2Proof/Machine/Groves.lean ====
section
/-! DEFINITION. Loading a grove (R302 to R313): the image, its checks in order, and the commit. -/
namespace Sys2Proof.Machine

/-- A grove image's header (Table 13-2). -/
structure GroveHead where
  wm1 : Nat
  hm1 : Nat
  mask : BitVec 4
  nin : Nat
  nout : Nat
  nel : Nat
  int16 : Bool
  int64 : Bool
  deriving DecidableEq, Repr

/-- An element record (R309): element and context, its route fields, its two nodes. -/
structure GroveRec where
  e : Nat
  ctx : Fin 4
  routes : Vector (BitVec 16) 4
  node0 : Dword
  node1 : Dword
  deriving DecidableEq, Repr

/-- Nodes of a record. -/
def GroveRec.nodes (r : GroveRec) : List Node := [nodeOf r.node0, nodeOf r.node1]

/-- Bytes of a grove image (R307). -/
def groveLen (nin nout nel : Nat) : Nat := 64 + 8 * ((nin + nout + 1) / 2) + 32 * nel + 8

/-- Whether a node record keeps its RSVD bits 0 and holds no value or combination that R298 and R309 reserve or reject. -/
def nodeForm (d : Dword) : Bool :=
  let n := nodeOf d
  let src := fun (c : Nat) => decide (c ≤ 4) || c == 7
  bitsOf d.toNat 56 4 == 0 && bitsOf d.toNat 0 33 == 0 && n.sgn != 3 && n.w != 3 && src n.a && src n.b
    && (n.b != 7 || (n.sb == 0 && n.sgn != 1))

/-- The header, where it has the right form (R311 step 1). -/
def groveHead (bs : List Byte) : Option GroveHead :=
  let d := fun (i lo n : Nat) => bitsOf (dwordAt bs (8 * i)).toNat lo n
  let nin := d 1 0 16
  let nout := d 1 16 16
  let nel := d 1 32 20
  if d 0 0 32 = 0x47565247 ∧ d 0 32 8 = 1 ∧ d 0 43 3 ≤ 6 ∧ d 0 46 4 ≠ 0 ∧ d 0 50 14 = 0 ∧ nin ≠ 0 ∧ nout ≠ 0 ∧ 1 ≤ nel ∧ nel ≤ 14336
      ∧ d 1 52 12 = 0 ∧ d 2 2 62 = 0 ∧ d 3 0 64 = 0 ∧ d 4 0 64 = 0 ∧ d 5 0 64 = 0 ∧ d 6 0 64 = 0 ∧ d 7 32 32 = 0
      ∧ d 7 0 32 = crc32c (bs.take 56) then
    some ⟨d 0 40 3, d 0 43 3, BitVec.ofNat 4 (d 0 46 4), nin, nout, nel, d 2 0 1 == 1, d 2 1 1 == 1⟩
  else none

/-- The 4-byte table entries of an image. -/
def groveEntries (bs : List Byte) (at_ n : Nat) : List Nat := (List.range n).map (fun i => leNat ((bs.drop (at_ + 4 * i)).take 4))

/-- The element records of an image. -/
def groveRecs (f : Nat) (bs : List Byte) (h : GroveHead) : List GroveRec :=
  let base := 64 + 8 * ((h.nin + h.nout + 1) / 2)
  (List.range h.nel).map (fun i =>
    let b := (bs.drop (base + 32 * i)).take 32
    let e0 := (dwordAt b 0).toNat
    ⟨tileElement f (bitsOf e0 0 6) (bitsOf e0 6 6), Fin.ofNat 4 (bitsOf e0 12 2),
     Vector.ofFn (fun p => BitVec.ofNat 16 (leNat ((b.drop (8 + 2 * p.1)).take 2))), dwordAt b 16, dwordAt b 24⟩)

/-- Form (R311 step 1): everything that the bytes say by themselves. -/
def groveForm (bs : List Byte) (t : FabTile) : Option GroveHead :=
  match groveHead bs with
  | none => none
  | some h =>
    let len := groveLen h.nin h.nout h.nel
    let pad := groveEntries bs (64 + 4 * (h.nin + h.nout)) ((h.nin + h.nout) % 2)
    let base := 64 + 8 * ((h.nin + h.nout + 1) / 2)
    let ins := groveEntries bs 64 h.nin
    let outs := groveEntries bs (64 + 4 * h.nin) h.nout
    let recOk := (List.range h.nel).all (fun i =>
      let b := (bs.drop (base + 32 * i)).take 32
      (dwordAt b 0).toNat / 2 ^ 14 == 0 && nodeForm (dwordAt b 16) && nodeForm (dwordAt b 24)
        && (List.range 4).all (fun p => !(BitVec.ofNat 16 (leNat ((b.drop (8 + 2 * p)).take 2))).getLsbD 0))
    if bs.length = len ∧ h.wm1 = t.widthM1.1 ∧ h.hm1 = t.heightM1.1 ∧ pad.all (· == 0) ∧ ins.all (fun x => x / 2 ^ 14 == 0)
        ∧ outs.all (fun x => x / 2 ^ 15 == 0) ∧ recOk ∧ leNat ((bs.drop (len - 4)).take 4) = 0
        ∧ leNat ((bs.drop (len - 8)).take 4) = crc32c ((bs.drop 64).take (len - 72)) then some h
    else none

/-- Valid nodes of a context. -/
def nodesIn (rs : List GroveRec) (c : Fin 4) : Nat :=
  ((rs.filter (fun r => r.ctx == c)).map (fun r => (r.nodes.filter (·.valid)).length)).sum

/-- Node capacity of a context (R305). -/
def State.groveCapacity (s : State) (f : Nat) (t : FabTile) (c : Fin 4) : Nat :=
  2 * ((s.tileElements f t).filter (fun e => (s.element e).ctxs.get c |>.len |> (· == 0))).length

/-- A FIFO: element and port. -/
abbrev FifoRef := Nat × Fin 4

/-- The FIFO that a node's output port feeds, where its route stays in the tile (R276, R299). -/
def State.fedBy (s : State) (f : Nat) (t : FabTile) (r : GroveRec) (p : Fin 4) : Option FifoRef :=
  let exit := t.slots.getD 6 0
  if slotValid exit ∧ tileElement f (slotX exit) (slotY exit) = r.e ∧ slotPort exit = p then none
  else match stepFrom r.e (routeStep p (r.routes.get p)) with
    | some e2 => if t.holds f e2 ∧ !s.isFused e2 then some (e2, facing p) else none
    | none => none

/-- Every FIFO that a node feeds, with that node's declared width. -/
def State.feeds (s : State) (f : Nat) (t : FabTile) (rs : List GroveRec) : List (FifoRef × Nat) :=
  rs.flatMap (fun r => r.nodes.flatMap (fun n => n.outs.filterMap (fun p => (s.fedBy f t r p).map (fun q =>
    (q, if n.w = 0 then 24 else if n.w = 1 then 32 else 48)))))

/-- The FIFOs that the image binds as inputs (R308). -/
def groveInputs (f : Nat) (l : List Nat) : List FifoRef :=
  l.map (fun x => (tileElement f (bitsOf x 0 6) (bitsOf x 6 6), Fin.ofNat 4 (bitsOf x 12 2)))

/-- The node that an output entry names. -/
def outputNode (f : Nat) (rs : List GroveRec) (x : Nat) : Option Node :=
  (rs.find? (fun r => r.e == tileElement f (bitsOf x 0 6) (bitsOf x 6 6) && r.ctx.1 == bitsOf x 13 2)).map (fun r =>
    nodeOf (if bitsOf x 12 1 = 1 then r.node1 else r.node0))

/-- Whether the sources of a record's nodes obey R299: node 0 reads no X, a valid node has an operand a. -/
def GroveRec.sourcesOk (r : GroveRec) : Bool :=
  (nodeOf r.node0).a != 4 && (nodeOf r.node0).b != 4 && r.nodes.all (fun n => !n.valid || n.a != 7)

/-- Whether the route fields of a record obey R276, those of unused ports too: no offsets on a neighbour route, a bypass within R271 and the
tile. -/
def GroveRec.routesOk (f : Nat) (t : FabTile) (r : GroveRec) : Bool :=
  (List.finRange 4).all (fun p => routeForm p (r.routes.get p) && (!(r.routes.get p).getLsbD 15
    || (stepFrom r.e (routeStep p (r.routes.get p))).any (fun e2 => t.holds f e2)))

/-- Structure (R311 step 3). -/
def State.groveStructure (s : State) (f : Nat) (t : FabTile) (h : GroveHead) (rs : List GroveRec) (ins outs : List Nat) : Bool :=
  let feeds := (s.feeds f t rs).map (·.1)
  let bound := groveInputs f ins
  let usable := s.tileElements f t
  let reads := rs.flatMap (fun r => r.nodes.flatMap (fun n => n.ports.map (fun p => (r.e, p))))
  rs.all (fun r => usable.contains r.e && h.mask.getLsbD r.ctx.1 && ((s.element r.e).ctxs.get r.ctx).len == 0
      && r.nodes.any (·.valid)
      && (List.finRange 4).all (fun p => !((nodeOf r.node0).outs.contains p && (nodeOf r.node1).outs.contains p))
      && (!((nodeOf r.node1).valid && ((nodeOf r.node1).a == 4 || (nodeOf r.node1).b == 4)) || (nodeOf r.node0).valid)
      && r.nodes.all (fun n => n.outs.all (fun p => s.routeLeads f t (t.slots.getD 6 0) r.e p (r.routes.get p)))
      && r.sourcesOk && r.routesOk f t)
    && decide (rs.map (fun r => (r.e, r.ctx))).Nodup
    && reads.all (fun q => feeds.contains q != bound.contains q)
    && decide feeds.Nodup && decide bound.Nodup
    && bound.all (fun q => usable.contains q.1 && !feeds.contains q)
    && outs.all (fun x => match outputNode f rs x with
      | some n => n.valid
      | none => false)

/-- The declared width of an operand's source (R302). -/
def srcWidth (feeds : List (FifoRef × Nat)) (int16 : Bool) (e : Nat) (w0 : Nat) (c : Nat) : Nat :=
  if c = 4 then w0
  else match fifoPort c with
    | some p => match feeds.find? (fun q => q.1 == (e, p)) with
      | some q => q.2
      | none => if int16 then 16 else 8
    | none => 0

/-- Declared width of a node. -/
def Node.width (n : Node) : Nat := if n.w = 0 then 24 else if n.w = 1 then 32 else 48

/-- Widths (R302, R304; R311 step 4). -/
def State.groveWidths (s : State) (f : Nat) (t : FabTile) (h : GroveHead) (rs : List GroveRec) (outs : List Nat) : Bool :=
  let feeds := s.feeds f t rs
  rs.all (fun r => r.nodes.all (fun n =>
    let w := srcWidth feeds h.int16 r.e (nodeOf r.node0).width
    let need := max (w n.a + n.sa) (if n.b = 7 then 0 else w n.b + n.sb) + 1
    !n.valid || decide (need ≤ n.width)))
    && (h.int64 || outs.all (fun x => match outputNode f rs x with
      | some n => decide (n.width ≤ 32)
      | none => false))

/-- The checks of a grove image in their order (R311): the header and records, or the first failing cause. -/
def State.groveCheck (s : State) (f : Nat) (t : FabTile) (bs : List Byte) : Except Cause (GroveHead × List GroveRec) :=
  match groveForm bs t with
  | none => .error .cfgformat
  | some h =>
    let rs := groveRecs f bs h
    let ins := groveEntries bs 64 h.nin
    let outs := groveEntries bs (64 + 4 * h.nin) h.nout
    if (maskCtxs h.mask).any (fun c => decide (s.groveCapacity f t c < nodesIn rs c)) then .error .capacity
    else if !s.groveStructure f t h rs ins outs then .error .cfgformat
    else if !s.groveWidths f t h rs outs then .error .width
    else .ok (h, rs)

/-- The configuration that a record gives a context. -/
def GroveRec.cfg (r : GroveRec) (bound : List FifoRef) (int16 : Bool) : ElCtx :=
  { routes := r.routes, node0 := r.node0, node1 := r.node1, int16 := int16
    bound := (List.finRange 4).foldl (fun (b : BitVec 4) p => if bound.contains (r.e, p) then b ||| BitVec.ofNat 4 (2 ^ p.1) else b) 0 }

/-- A node record at reset: SRCA and SRCB none (Table 13-3). -/
def noNode : Dword := 0xFC000000000

/-- A grove committed (R312): earlier pairs of its contexts cleared, the records written. A pending splice is dropped where the load goes into
one of its contexts (R278). -/
def State.groveCommit (s : State) (f : Nat) (t : FabTile) (h : GroveHead) (rs : List GroveRec) (bound : List FifoRef) : State :=
  let cs := maskCtxs h.mask
  let s1 := s.modTile f t (fun _ y => cs.foldl (fun y c =>
    { y with ctxs := vset y.ctxs c { y.ctxs.get c with node0 := noNode, node1 := noNode, bound := 0, int16 := false } }) y)
  let s2 := rs.foldl (fun st r => st.modElement r.e (fun y => { y with ctxs := vset y.ctxs r.ctx (r.cfg bound h.int16) })) s1
  let cleared := t.image.map (fun p => if t.holds f (p.1 / 4) ∧ cs.any (fun c => c.1 == p.1 % 4) then
    (p.1, { p.2 with node0 := noNode, node1 := noNode, bound := 0, int16 := false }) else p)
  let hits := t.splice.any (fun st => st.mask &&& h.mask != 0)
  s2.setFab f { t with
    groveMask := t.groveMask ||| h.mask
    splice := if hits then none else t.splice, spliceCall := t.spliceCall && !hits
    image := rs.foldl (fun m r => mapPut (4 * r.e + r.ctx.1) (r.cfg bound h.int16) m) cleared }

/-- The load at the head of a call queue ends (R312). -/
def State.endGrove (s : State) (f : Nat) (seq : BitVec 16) (to_ : StatusTo) (caller : TileRef) (done : Nat) (c : Option Cause) : State :=
  let err : BitVec 8 := match c with
    | some c => code8 c
    | none => 0
  let s1 := s.endRequest f seq to_ done err
  match c with
  | some c =>
    if to_.nowhere then s1.report caller { cause := c, src := 2, imp := true, aux := seq.toNat, place := BitVec.ofNat 64 (f * 2 ^ 32) } else s1
  | none => s1

/-- GROVE_LOAD (R311, R312). -/
def execGroveLoad (f : Fin 65536) (s : State) : Host.Outcome State Fault Refusal :=
  .next (match s.fab? f with
    | none => s
    | some t =>
      match t.between, t.queue with
      | true, .grove seq to_ k len caller :: _ =>
        match s.engRead (s.fabAccess f caller) k true (len / 4096 + 2) k.cursor.toNat len [] with
        | .wait s1 _ => s1
        | .bytes s1 _ (some (c, _)) => s1.endGrove f seq to_ caller 0 (some c)
        | .bytes s1 bs none =>
          match s1.groveCheck f t bs with
          | .error c => s1.endGrove f seq to_ caller 0 (some c)
          | .ok (h, rs) =>
            let n := (rs.map (fun r => (r.nodes.filter (·.valid)).length)).sum
            (s1.groveCommit f t h rs (groveInputs f (groveEntries bs 64 h.nin))).endGrove f seq to_ caller n none
      | _, _ => s)

end Sys2Proof.Machine
end

