-- ==== Sys2Proof/Machine/Security.lean ====
section
/-! DEFINITION. The security controller's commands (R414 to R416) and attestation over SPDM (R417, R418). -/
namespace Sys2Proof.Machine

/-- Bytes of SCBUF from its start. -/
def Sec.bufBytes (x : Sec) (n : Nat) : List Byte := (List.range n).map (fun i => mapGet 0 x.buf i)

/-- OP of the command in SCCMD. -/
def Sec.op (x : Sec) : Nat := bitsOf x.cmd.toNat 60 4

/-- ARG of the command in SCCMD. -/
def Sec.arg (x : Sec) : Nat := bitsOf x.cmd.toNat 56 4

/-- Whether a command with an OP is in progress and its result not yet known. -/
def Sec.doing (x : Sec) (op : Nat) : Bool := x.busy && x.op == op && x.pendRes == none

/-- The result of a command, with what SCRES will hold (Table 23-3). -/
def Sec.result (x : Sec) (r : BitVec 8) (scres : Dword) : Sec := { x with pendRes := some r, scres := scres }

/-- A command's effect on the controller of a die, where that command is in progress. -/
def State.secDo (s : State) (die op : Nat) (f : Sec → Sec) : State :=
  if (s.die die).sec.doing op then s.modDie die (fun d => { d with sec := f d.sec }) else s

/-- VERIFY (R412, R415). -/
def Sec.verify (x : Sec) : Sec :=
  if 3 < x.arg then x.result 6 0
  else if x.revoked x.arg then x.result 4 0
  else match x.signatures x.arg (x.bufBytes 3460) with
    | (true, true) => x.result 0 0
    | (false, true) => x.result 1 0
    | (true, false) => x.result 2 0
    | (false, false) => x.result 3 0

/-- VERIFY (R415). -/
def execVerify (die : Fin 4) (s : State) : Host.Outcome State Fault Refusal := .next (s.secDo die 1 Sec.verify)

/-- EXTEND (R415): refused for MREG0 to MREG3 after the hand-over. -/
def Sec.extendCmd (x : Sec) : Sec :=
  if 7 < x.arg ∨ (x.handedOver ∧ x.arg ≤ 3) then x.result 6 0
  else (x.extended (Fin.ofNat 8 x.arg) (x.bufBytes 48)).result 0 0

/-- EXTEND (R415). -/
def execExtend (die : Fin 4) (s : State) : Host.Outcome State Fault Refusal := .next (s.secDo die 2 Sec.extendCmd)

/-- Whether the HSS key of a die is used up (R416). -/
def State.hssOver (s : State) (die : Nat) : Bool := decide (hssIndices ≤ (s.die die).sec.hssIndex)

/-- An HSS index consumed: the advanced counter is written before the signature exists (R416). -/
def State.useIndex (s : State) (die : Nat) : State := s.modDie die (fun d => { d with sec := { d.sec with hssIndex := d.sec.hssIndex + 1 } })

/-- SIGN (R415, R416). -/
def execSign (die : Fin 4) (s : State) : Host.Outcome State Fault Refusal :=
  .next (
    let x := (s.die die).sec
    if !x.doing 3 then s
    else if s.hssOver die then (s.secDo die 3 (fun y => y.result 5 0)).logEvent 7 die.1 0 0 0
    else
      let d := x.bufBytes 48
      let out := padTo 96 (Config.ecdsaSign die.1 d) ++ hssSign die.1 x.hssIndex d
      (s.useIndex die).secDo die 3 (fun y => (y.fill 0 out).result 0 0))

/-- READMREG (R415). -/
def Sec.readMreg (x : Sec) : Sec :=
  if 7 < x.arg then x.result 6 0 else (x.fill 0 (padTo 48 (x.mregs.get (Fin.ofNat 8 x.arg)))).result 0 0

/-- READMREG (R415). -/
def execReadmreg (die : Fin 4) (s : State) : Host.Outcome State Fault Refusal := .next (s.secDo die 4 Sec.readMreg)

/-- LMSSTAT (R415): SCRES gives the next free HSS index. -/
def execLmsstat (die : Fin 4) (s : State) : Host.Outcome State Fault Refusal :=
  .next (s.secDo die 5 (fun x => x.result 0 (BitVec.ofNat 64 x.hssIndex)))

/-- SC_COMMAND_COMPLETE (R414, R415): RES, SEQ, BUSY; a reserved OP has RES 6. -/
def Sec.complete (x : Sec) : Sec :=
  match x.busy, x.pendRes with
  | true, some r => { x with res := r, seq := x.seq + 1, busy := false, pendRes := none, scres := if x.op = 5 then x.scres else 0 }
  | _, _ => x

/-- SC_COMMAND_COMPLETE (R414). -/
def execScCommandComplete (die : Fin 4) (s : State) : Host.Outcome State Fault Refusal :=
  .next (s.modDie die (fun d => { d with sec := d.sec.complete }))

/-- Physical address of a security controller register (R414). -/
def scAddr (die off : Nat) : Nat := 3 * 2 ^ 44 + die * 2 ^ 42 + 2 * 2 ^ 36 + off

/-- SCBUF_WRITE (R414). -/
def execScbufWrite (w : Writer) (die : Fin 4) (off : Fin 4096) (x : Dword) (s : State) : Host.Outcome State Fault Refusal :=
  .next (s.agentWrite w (scAddr die.1 (0x1000 + off.1)) x)

/-! SPDM (message layouts: DSP0274, log entry 44). -/

/-- A message: version, code, two parameters, what follows. -/
def spdmMsg (version code p1 p2 : Nat) (rest : List Byte) : List Byte := [version, code, p1, p2].map (BitVec.ofNat 8) ++ rest

/-- A response given over the DOE mailbox (R394, R417). -/
def State.respond (s : State) (m : List Byte) : State := { s with host := { s.host with spdm := s.host.spdm ++ [m] } }

/-- An ERROR response (log entry 44). -/
def State.spdmError (s : State) (e : Nat) : State := s.respond (spdmMsg 0x13 0x7F e 0 [])

/-- VERSION: one entry, 1.3 (R417). -/
def versionMsg : List Byte := spdmMsg 0x10 0x04 0 0 [0, 1, 0x00, 0x13]

/-- GET_VERSION (R417): SPDM 1.3 only; the connection and its transcript start anew. -/
def execGetVersion (s : State) : Host.Outcome State Fault Refusal :=
  .next ({ s with host := { s.host with spdmAlgs := false, vca := spdmMsg 0x10 0x84 0 0 [] ++ versionMsg, spdmB := [], spdmL := [] } }.respond versionMsg)

/-- What the responder can do (R417): CERT_CAP, CHAL_CAP and MEAS_CAP with signatures; no key exchange, no sessions, nothing else. -/
def spdmFlags : Nat := 2 + 4 + 2 * 8

/-- CAPABILITIES (R417). -/
def capabilitiesMsg : List Byte :=
  spdmMsg 0x13 0x61 0 0 ([0] ++ padTo 1 Config.spdmLimits ++ [0, 0] ++ leBytes 4 spdmFlags ++ padTo 8 (Config.spdmLimits.drop 1))

/-- GET_CAPABILITIES (R417). -/
def execGetCapabilities (s : State) : Host.Outcome State Fault Refusal :=
  .next ({ s with host := { s.host with vca := s.host.vca ++ Config.spdmRequest 0xE1 [] ++ capabilitiesMsg } }.respond capabilitiesMsg)

/-- ALGORITHMS (R417): for signing ECDSA P-384 with SHA-384, for measurements SHA-384, the general opaque-data format; or nothing. -/
def algorithmsMsg (ok : Bool) : List Byte :=
  spdmMsg 0x13 0x63 0 0 (leBytes 2 36 ++ [1, 2] ++ leBytes 4 (if ok then 4 else 0) ++ leBytes 4 (if ok then 0x80 else 0) ++ leBytes 4 (if ok then 2 else 0)
    ++ List.replicate 16 0)

/-- NEGOTIATE_ALGORITHMS (R417): both are agreed on where the requester offers both. -/
def execNegotiateAlgorithms (asym hash : BitVec 32) (s : State) : Host.Outcome State Fault Refusal :=
  .next (
    let ok := asym.getLsbD 7 && hash.getLsbD 1
    let m := algorithmsMsg ok
    { s with host := { s.host with
        spdmAlgs := ok, vca := s.host.vca ++ Config.spdmRequest 0xE3 (leBytes 4 asym.toNat ++ leBytes 4 hash.toNat) ++ m } }.respond m)

/-- A request about certificates with its response, taken into their transcript. -/
def State.respondB (s : State) (request m : List Byte) : State :=
  { s with host := { s.host with spdmB := s.host.spdmB ++ request ++ m } }.respond m

/-- GET_DIGESTS (R417): the digest of slot 0's chain. -/
def execGetDigests (s : State) : Host.Outcome State Fault Refusal :=
  .next (if s.host.spdmAlgs then s.respondB (spdmMsg 0x13 0x81 0 0 []) (spdmMsg 0x13 0x01 1 1 (sha384 Config.certificate)) else s.spdmError 0x04)

/-- GET_CERTIFICATE (R417): a portion of slot 0's chain, and how much of it is left. -/
def execGetCertificate (slot : BitVec 8) (off len : BitVec 16) (s : State) : Host.Outcome State Fault Refusal :=
  .next (
    if !s.host.spdmAlgs then s.spdmError 0x04
    else if slot ≠ 0 ∨ Config.certificate.length ≤ off.toNat then s.spdmError 0x01
    else
      let part := (Config.certificate.drop off.toNat).take len.toNat
      s.respondB (spdmMsg 0x13 0x82 0 0 (leBytes 2 off.toNat ++ leBytes 2 len.toNat))
        (spdmMsg 0x13 0x02 0 0 (leBytes 2 part.length ++ leBytes 2 (Config.certificate.length - off.toNat - part.length) ++ part)))

/-- The measurement log of a die as bytes: each entry's digest, index and SEQ. -/
def Sec.logBytes (x : Sec) : List Byte := x.log.flatMap (fun e => padTo 48 e.1 ++ leBytes 1 e.2.1 ++ leBytes 2 e.2.2.toNat)

/-- A measurement by index (R417): MREGi of die d at 1 + 8d + i, the measurement log at 33. -/
def State.measurement (s : State) (n : Nat) : Option (List Byte) :=
  if 1 ≤ n ∧ n ≤ 32 then some ((s.die ((n - 1) / 8)).sec.mregs.get (Fin.ofNat 8 (n - 1)))
  else if n = 33 then some ((List.range 4).flatMap (fun d => (s.die d).sec.logBytes))
  else none

/-- A measurement as a block: index, specification, size; a digest, or the log as it stands. -/
def measurementBlock (n : Nat) (v : List Byte) : List Byte :=
  leBytes 1 n ++ [1] ++ leBytes 2 (v.length + 3) ++ [if n = 33 then 0x81 else 0x01] ++ leBytes 2 v.length ++ v

/-- One element of the general opaque-data format (R418): registry and vendor, the HSS signature followed by the HSS public key. -/
def opaqueElement (data : List Byte) : List Byte :=
  let v := Config.vendorId
  let e := leBytes 1 v.1 ++ leBytes 1 v.2.length ++ v.2 ++ leBytes 2 data.length ++ data
  [1, 0, 0, 0] ++ e ++ List.replicate ((4 - e.length % 4) % 4) 0

/-- A signed response (R418) to a request whose transcript so far is `before`: `m` runs up to the responder's nonce. The digest is of the transcript up to
the OpaqueData, which carries the HSS signature over it; the ECDSA signature of the same digest stands at the end (log entry 44). Without an index left
it is an ERROR, Unspecified. -/
def State.respondSigned (s : State) (die : Nat) (before m : List Byte) : State :=
  if s.hssOver die then (s.spdmError 0x05).logEvent 7 die 0 0 0
  else
    let fresh := Config.spdmFresh s.freeCtr
    let head := m ++ padTo 32 fresh
    let d := sha384 (s.host.vca ++ before ++ head)
    let o := opaqueElement (hssSign die (s.die die).sec.hssIndex d ++ hssPublicKey die)
    (s.useIndex die).tick.respond (head ++ leBytes 2 o.length ++ o ++ padTo 8 (fresh.drop 32) ++ padTo 96 (Config.ecdsaSign die d))

/-- CHALLENGE (R417, R418). -/
def execChallenge (die : Fin 4) (nonce : List Byte) (s : State) : Host.Outcome State Fault Refusal :=
  .next (
    if !s.host.spdmAlgs then s.spdmError 0x04
    else if (s.die die).sec.busy then s
    else
      let s1 := s.respondSigned die.1 (s.host.spdmB ++ Config.spdmRequest 0x83 nonce) (spdmMsg 0x13 0x03 0 1 (sha384 Config.certificate))
      { s1 with host := { s1.host with spdmB := [] } })

/-- GET_MEASUREMENTS (R417, R418): index 0 asks for their number, 255 for all of them. -/
def execGetMeasurements (die : Fin 4) (signed : Bool) (index : BitVec 8) (nonce : List Byte) (s : State) : Host.Outcome State Fault Refusal :=
  .next (
    if !s.host.spdmAlgs then s.spdmError 0x04
    else if signed ∧ (s.die die).sec.busy then s
    else
      let got := if index = 0 then some []
        else if index = 255 then some ((List.range 33).filterMap (fun i => (s.measurement (i + 1)).map (measurementBlock (i + 1))))
        else (s.measurement index.toNat).map (fun v => [measurementBlock index.toNat v])
      match got with
      | none => s.spdmError 0x01
      | some l =>
        let record := l.flatten
        let m := spdmMsg 0x13 0x60 (if index = 0 then 33 else 0) 0 (leBytes 1 l.length ++ leBytes 3 record.length ++ record)
        let request := Config.spdmRequest 0xE0 (index :: nonce)
        if signed then
          let s1 := s.respondSigned die.1 (s.host.spdmL ++ request) m
          { s1 with host := { s1.host with spdmL := [] } }
        else
          let fresh := Config.spdmFresh s.freeCtr
          let whole := m ++ padTo 32 fresh ++ leBytes 2 0 ++ padTo 8 (fresh.drop 32)
          { s with host := { s.host with spdmL := s.host.spdmL ++ request ++ whole } }.tick.respond whole)

end Sys2Proof.Machine
end

