-- ==== Sys2Proof/Machine/Host.lean ====
section
/-! DEFINITION. The host command interface: BAR0 (R395), rings and completions, host commands (R401), queue creation (R67), host ports
(R398), flash mappings (R402), accesses through the HDM range (R394, R396). -/
namespace Sys2Proof.Machine

/-- A ring. -/
def State.ring (s : State) (r : Fin 8) : Ring := s.host.rings.get r

/-- The state with a ring changed. -/
def State.modRing (s : State) (r : Fin 8) (f : Ring → Ring) : State :=
  { s with host := { s.host with rings := vset s.host.rings r (f (s.ring r)) } }

/-- Physical address of a host physical address (Table 5-1). -/
def hostAddr (x : Nat) : Nat := 0x10 * 2 ^ 44 + x % 2 ^ 44

/-- Entries of a ring (Table 22-1). -/
def Ring.entries (r : Ring) : Nat := 2 ^ min 12 (bitsOf r.cfg.toNat 0 4)

/-- EN of a ring, with a legal size. -/
def Ring.enabled (r : Ring) : Bool := r.cfg.getLsbD 4 && decide (4 ≤ bitsOf r.cfg.toNat 0 4 ∧ bitsOf r.cfg.toNat 0 4 ≤ 12)

/-- FENCE of an entry. -/
def fenceOf (e : List Dword) : Bool := (e.getD 0 0).getLsbD 8

/-- Whether Irfin's host-command role runs on some die (R342, R401), and no die's Irfin was refused (Table 23-1). -/
def State.hostRole (s : State) : Bool := s.exposed && [0, 1, 2, 3].any (fun d => (s.die d).started)

/-- Entries begun in ring order, at most `n` (R401): one with FENCE waits until every earlier command is performed. -/
def State.beginCmds (r : Fin 8) : Nat → State → State
  | 0, s => s
  | n + 1, s =>
    let x := s.ring r
    let at_ := x.sqHead.toNat % x.entries
    if !x.enabled ∨ !s.hostRole ∨ at_ = x.sqTail.toNat % x.entries then s
    else
      let e := dwordsOf 8 (s.peek (hostAddr (x.sqBase.toNat + 64 * at_)) 64)
      if (fenceOf e && !x.begun.isEmpty) || x.begun.any fenceOf then s
      else State.beginCmds r n (s.modRing r (fun x => { x with sqHead := BitVec.ofNat 32 ((at_ + 1) % x.entries), begun := x.begun ++ [e] }))

/-- SUBMISSION_DOORBELL (R401). -/
def State.doorbell (s : State) (r : Fin 8) (tail : BitVec 32) : State :=
  let s1 := s.modRing r (fun x => { x with sqTail := tail })
  State.beginCmds r (s1.ring r).entries s1

/-- SUBMISSION_DOORBELL (R401). While no die has started, or one has refused its Irfin, the module exposes only its DOE mailbox (Table 23-1): no
doorbell, no BAR0, no HDM range, no link. -/
def execSubmissionDoorbell (ring : Fin 8) (tail : BitVec 32) (s : State) : Host.Outcome State Fault Refusal :=
  .next (if s.hostRole then s.doorbell ring tail else s)

/-- COMPLETION_DOORBELL (R401). -/
def execCompletionDoorbell (ring : Fin 8) (head : BitVec 32) (s : State) : Host.Outcome State Fault Refusal :=
  .next (if s.hostRole then s.modRing ring (fun x => { x with cqHead := head }) else s)

/-- Where BAR0 stands for register writes of the host (log entry 45). -/
def bar0 : Nat := 2 ^ 53

/-- What a write leaves in RINGCFG (Table 22-1): RSVD bits read as zero (R8), and a reserved number of entries leaves that field as it was (R9). -/
def ringCfgWritten (old x : Dword) : Dword :=
  (x &&& 0x07FF0010) ||| ((if 4 ≤ bitsOf x.toNat 0 4 ∧ bitsOf x.toNat 0 4 ≤ 12 then x else old) &&& 0xF)

/-- A ring register written: reserved bits stay 0; RINGCFG starts the ring anew (log entry 45). -/
def Ring.write (x : Ring) (field : Nat) (v : Dword) : Ring :=
  match field with
  | 0 => { x with sqBase := v &&& ~~~4095 }
  | 1 => { x with cqBase := v &&& ~~~4095 }
  | 2 => { x with cfg := ringCfgWritten x.cfg v, sqTail := 0, sqHead := 0, cqHead := 0, cqTail := 0, phase := true, begun := [] }
  | _ => x

/-- A write of the host to BAR0 (Table 22-1): every other offset ignores it. -/
def State.barWrite (s : State) (off : Nat) (v : Dword) : State :=
  if !s.hostRole then s
  else if 0x1000 ≤ off ∧ off < 0x1100 then s.modRing (Fin.ofNat 8 ((off - 0x1000) / 0x20)) (fun x => x.write (off % 0x20 / 8) v)
  else if 0x2000 ≤ off ∧ off < 0x2040 then s.doorbell (Fin.ofNat 8 ((off - 0x2000) / 8)) (v.setWidth 32)
  else if 0x2800 ≤ off ∧ off < 0x2840 then s.modRing (Fin.ofNat 8 ((off - 0x2800) / 8)) (fun x => { x with cqHead := v.setWidth 32 })
  else if 0x100000 ≤ off ∧ off < 0x180000 then s.hostNotify 0 ((off - 0x100000) / 8) v
  else if 0x180000 ≤ off ∧ off < 0x180080 ∧ s.notifyBase.get 0 ≠ 0 then s.poke (s.notifyBase.get 0 + (off - 0x100000)) (dwordBytes v)
  else s

/-- What the host reads at an offset of BAR0 (Table 22-1). -/
def State.barRead (s : State) (off : Nat) : Dword :=
  if !s.hostRole then 0
  else if off = 0 then 0x108
  else if 0x1000 ≤ off ∧ off < 0x1100 then
    let x := s.ring (Fin.ofNat 8 ((off - 0x1000) / 0x20))
    match off % 0x20 / 8 with
    | 0 => x.sqBase
    | 1 => x.cqBase
    | 2 => x.cfg
    | _ => 0
  else if 0x2000 ≤ off ∧ off < 0x2040 then (s.ring (Fin.ofNat 8 ((off - 0x2000) / 8))).sqTail.setWidth 64
  else if 0x2800 ≤ off ∧ off < 0x2840 then (s.ring (Fin.ofNat 8 ((off - 0x2800) / 8))).cqHead.setWidth 64
  else if 0x100000 ≤ off ∧ off < 0x180080 ∧ s.notifyBase.get 0 ≠ 0 then s.peekD (s.notifyBase.get 0 + (off - 0x100000))
  else 0

/-- REGISTER_WRITE (R7): a device register by a context or an engine, one of BAR0 by the host, or a dword of the host's own memory (R397), as which
it also puts entries into its rings (R401). The host reaches nothing else so (R395). -/
def execRegisterWrite (w : Writer) (pa : Nat) (x : Dword) (s : State) : Host.Outcome State Fault Refusal :=
  .next (
    if regionOf pa = 0x10 ∧ w = .outside then s.writePlain pa (dwordBytes x)
    else if isPlain pa then s
    else if bar0 ≤ pa ∧ pa < bar0 + 2 ^ 24 then (if w = .outside ∧ pa % 8 = 0 then s.barWrite (pa - bar0) x else s)
    else if w = .outside then s
    else s.agentWrite w pa x)

/-! Commands. -/

/-- C0 of a command without its reserved bits (R401). -/
def headWord (h : HostHdr) (opc : Nat) : Dword :=
  BitVec.ofNat 64 (opc + (if h.fence then 256 else 0) + h.cid.toNat * 65536 + h.job.toNat * 2 ^ 32)

/-- The begun entry of a ring that is this command with these operands. -/
def State.entryOf (s : State) (h : HostHdr) (opc : Nat) (ops : List Dword) : Option (List Dword) :=
  (s.ring h.ring).begun.find? (fun e => (e.getD 0 0 &&& ~~~0xFEF0) == headWord h opc && (e.drop 1).take ops.length == ops)

/-- Whether a completion entry has room. -/
def Ring.cqRoom (x : Ring) : Bool := (x.cqTail.toNat + 1) % x.entries != x.cqHead.toNat % x.entries

/-- A command completed: its 16-byte entry after its writes, PHASE inverted on each pass, the ring's MSI-X message, and the commands
that a FENCE held (R401). -/
def State.complete (s : State) (h : HostHdr) (e : List Dword) (err : Option Cause) (result : Dword) : State :=
  let x := s.ring h.ring
  let i := x.cqTail.toNat % x.entries
  let ce0 := h.cid.toNat + (if x.phase then 65536 else 0) + (match err with
    | some c => causeCode c
    | none => 0) * 2 ^ 24 + x.sqHead.toNat * 2 ^ 32
  let s1 := s.poke (hostAddr (x.cqBase.toNat + 16 * i)) (leBytes 8 ce0 ++ dwordBytes result)
  let s2 := s1.modRing h.ring (fun x => { x with
    begun := x.begun.erase e, cqTail := BitVec.ofNat 32 ((i + 1) % x.entries), phase := if i + 1 = x.entries then !x.phase else x.phase })
  let s3 : State := { s2 with host := { s2.host with msixSent := s2.host.msixSent ++ [bitsOf x.cfg.toNat 16 11] } }
  State.beginCmds h.ring x.entries s3

/-- What a command's act gives: it is performed (with its result), refused with a cause (and a result, or a state in which
a failure is taken note of), or it waits with what has
happened so far. -/
inductive Act where
  | done (s : State) (result : Dword)
  | refuse (c : Cause) (result : Dword)
  | refuseIn (s : State) (c : Cause)
  | wait (s : State)

/-- A host command (R401): where the ring holds it begun and its completion has room it acts; a reserved bit set refuses it with
ILLEGAL. -/
def State.command (s : State) (h : HostHdr) (opc : Nat) (ops : List Dword) (act : State → Act) : State :=
  match s.entryOf h opc ops with
  | none => s
  | some e =>
    if !(s.ring h.ring).cqRoom then s
    else if e.getD 0 0 &&& 0xFEF0 ≠ 0 then s.complete h e (some .illegal) 0
    else match act s with
      | .done s1 r => s1.complete h e none r
      | .refuse c r => s.complete h e (some c) r
      | .refuseIn s1 c => s1.complete h e (some c) 0
      | .wait s1 => s1

/-- The command's job exists. -/
def State.hasJob (s : State) (h : HostHdr) : Bool := (mapFind s.jobs h.job.toNat).isSome

/-- A command that needs a job (R401): PERM for one that does not exist. -/
def State.withJob (s : State) (h : HostHdr) (act : Nat → Act) : Act := if s.hasJob h then act h.job.toNat else .refuse .perm 0

/-- The dies at the ends of the four die bridges (R16), two for each bridge. -/
def bridgeEnds : List Nat := [0, 1, 2, 3, 0, 2, 1, 3]

/-- The porter quad of link port `k` below 12, or of end `k - 12` of the die bridges (R406): a quad of a core island, on the die of that end. -/
def porterQuad (k : Nat) : Nat := if k < 12 then Config.porterPlace k % 1024 else 256 * bridgeEnds.getD (k - 12) 0 + Config.porterPlace k % 256

/-- A byte of the arbor map of a die: COL, W - 1, FALLBACK, DBG, and from byte 16 the roles as Table 19-2 lays them out (R342). -/
def Die.arborByte (d : Die) (i : Nat) : Byte :=
  match i with
  | 0 => BitVec.ofNat 8 d.col.1
  | 1 => BitVec.ofNat 8 d.widthM1.1
  | 2 => if d.fallback then 1 else 0
  | 3 => if d.dbg then 1 else 0
  | _ => if 16 ≤ i ∧ i < 32 then BitVec.ofNat 8 ((d.roles.get (Fin.ofNat 32 (2 * (i - 16)))).1 + 16 * (d.roles.get (Fin.ofNat 32 (2 * (i - 16) + 1))).1) else 0

/-- A byte of the IDENTIFY buffer (R401): fuse map (the block fused off in each fabric island, 255 for none), partitions, arbor map, porter map, notify
page addresses. Where each stands is log entry 98; the other bytes are free. -/
def State.identifyAt (s : State) (off : Nat) : Byte :=
  if off < 0x80 then BitVec.ofNat 8 ((mapFind s.fused off).getD 255)
  else if off < 0x84 then BitVec.ofNat 8 (s.die (off - 0x80)).part.1
  else if 0x100 ≤ off ∧ off < 0x180 then (s.die ((off - 0x100) / 32)).arborByte (off % 32)
  else if 0x200 ≤ off ∧ off < 0x228 then BitVec.ofNat 8 (porterQuad ((off - 0x200) / 2) / 256 ^ (off % 2))
  else if 0x300 ≤ off ∧ off < 0x320 then BitVec.ofNat 8 (s.notifyBase.get (Fin.ofNat 4 ((off - 0x300) / 8)) / 256 ^ (off % 8))
  else Config.identifyByte s.freeCtr off

/-- IDENTIFY (R401). -/
def execIdentify (h : HostHdr) (buf : Dword) (s : State) : Host.Outcome State Fault Refusal :=
  .next (s.command h 0 [buf] (fun s1 => .done (s1.poke (hostAddr buf.toNat) ((List.range 4096).map s1.identifyAt)).tick 0))

/-- HEALTH (R401, R422). -/
def execHealth (h : HostHdr) (buf : Dword) (s : State) : Host.Outcome State Fault Refusal :=
  .next (s.command h 1 [buf] (fun s1 => .done (s1.poke (hostAddr buf.toNat) s1.healthRecord).tick 65536))

/-- JOBNEW (R401, R359). -/
def execJobnew (h : HostHdr) (part root quota : Dword) (s : State) : Host.Outcome State Fault Refusal :=
  .next (s.command h 2 [part, root, quota] (fun s1 =>
    if 3 < part.toNat ∨ !([0, 1, 2, 3].any (fun d => (s1.die d).part.1 == part.toNat)) ∨ root.toNat % 4096 ≠ 0 ∨ 2 ^ 44 ≤ root.toNat then .refuse .illegal 0
    else match leastFrom (fun j => (mapFind s1.jobs j).isNone) 1 65535 with
      | some j => .done { s1 with jobs := mapPut j { root := root.toNat, part := Fin.ofNat 4 part.toNat, quota := quota } s1.jobs } (BitVec.ofNat 64 j)
      | none => .wait s1))

/-- A tile marked for release (R382). -/
def State.markRelease (s : State) : TileRef → State
  | .quad q => s.modQuad q (fun k => { k with tile := k.tile.map (fun t => { t with releasing := true }) })
  | .fabric f => s.modFab f (fun t => { t with releasing := true })

/-- The tiles of a job. -/
def State.tilesOf (s : State) (job : Nat) : List TileRef :=
  (s.quads.filterMap (fun q => if (q.2.tile.map (·.job)) = some job ∧ !q.2.tile.any Tile.isIrfin then some (.quad q.1) else none))
    ++ (s.fabrics.filterMap (fun f => if f.2.job = job then some (.fabric f.1) else none))

/-- A job gone: its queues, its flash mappings, its translations. -/
def State.dropJob (s : State) (job : Nat) : State :=
  let s1 := (s.queues.filter (fun e => e.2.job == job)).foldl (fun (st : State) e => st.deleteQueue e.1) s
  let keep := fun (x : Xlat) => x.job != job
  { s1 with
    jobs := mapDel job s1.jobs
    cores := s1.cores.map (fun (c, k) => (c, { k with tlb := k.tlb.filter keep }))
    islands := s1.islands.map (fun (p, i) => (p, { i with tlb := i.tlb.filter keep, misses := i.misses.filter (fun m => m.job != job) })) }

/-- JOBEND (R401): it completes when every tile of the job is released. -/
def execJobend (h : HostHdr) (s : State) : Host.Outcome State Fault Refusal :=
  .next (s.command h 3 [] (fun s1 => s1.withJob h (fun job =>
    match s1.tilesOf job with
    | [] => .done (s1.dropJob job) 0
    | l => .wait (l.foldl State.markRelease s1))))

/-- What a load gives the host: a status word (R382), its cause also in the completion's ERR. -/
def loadAct : Loaded → Act
  | .ok s n => .done s (statusWord n 0 0)
  | .refused c => .refuse c (statusWord 0 (code8 c) 0)
  | .wait s => .wait s

/-- The number that names a tile in C1 of TILEREL and a place in C3 of TILELOAD (Table 22-3, log entry 14). -/
def tileNo : TileRef → Dword
  | .quad q => BitVec.ofNat 64 q
  | .fabric f => BitVec.ofNat 64 f

/-- C2 of TILEREL for a tile. -/
def tileBit : TileRef → Dword
  | .quad _ => 0
  | .fabric _ => 1

/-- The tile that a load makes. -/
def targetRef : LoadTarget → TileRef
  | .core quad _ => .quad quad
  | .fabric f _ => .fabric f

/-- TILELOAD (R382, R401): C3 names the place. The object stands in the operand (log entry 14), so C0 and C3 tell which entry it is. -/
def execTileload (h : HostHdr) (target : LoadTarget) (s : State) : Host.Outcome State Fault Refusal :=
  .next (s.command h 4 [] (fun s1 => s1.withJob h (fun job =>
    if ((s.entryOf h 4 []).getD []).getD 3 0 ≠ tileNo (targetRef target) then .wait s1
    else loadAct (match target with
    | .core quad obj => match s1.loadQuad job quad obj with
      | .ok s2 => .ok s2 1
      | .error c => .refused c
    | .fabric f obj => s1.loadFabric job f obj))))

/-- TILEREL (R382, R401): ILLEGAL where C2 has a reserved bit, PERM for a tile of another job; it completes when the tile is gone. -/
def execTilerel (h : HostHdr) (t : TileRef) (s : State) : Host.Outcome State Fault Refusal :=
  .next (s.command h 5 [tileNo t] (fun s1 => s1.withJob h (fun job =>
    let c2 := ((s.entryOf h 5 [tileNo t]).getD []).getD 2 0
    if c2.toNat / 2 ≠ 0 then .refuse .illegal 0
    else if c2 ≠ tileBit t then .wait s1
    else match s1.tileJob t with
      | none => .done s1 0
      | some j => if j ≠ job then .refuse .perm 0 else .wait (s1.markRelease t))))

/-! Queues. -/

/-- Whether a descriptor holds no reserved value (Table 3-1). -/
def descFields (d : BitVec 128) : Bool :=
  let f := fun lo n => bitsOf d.toNat lo n
  decide (f 98 3 ≤ 5 ∧ f 93 5 ≤ 16 ∧ 1 ≤ f 88 5 ∧ f 88 5 ≤ 16 ∧ f 93 5 ≤ f 88 5 ∧ f 86 2 ≤ 2 ∧ f 56 18 = 0)
    && (match f 86 2 with
      | 0 => f 74 12 % 4 == 0
      | 1 => f 74 12 % 32 == 0
      | _ => decide (f 74 12 < 8))

/-- The home that HOME and HLOC name, as a span of physical addresses (R67, R114). -/
def Queue.homeSpan (q : Queue) : Nat × Nat :=
  match q.homeKind with
  | 0 => (scratchBase (q.hloc / 4), 0x100000)
  | 1 => (2 ^ 44 + q.hloc / 1024 * 2 ^ 32 + 0x80000000 + q.hloc / 32 % 32 * 0x1000000, 0x1000000)
  | _ => (q.hloc * 2 ^ 36, 48 * 2 ^ 30)

/-- What finding the pages of a footprint gives (R67). -/
inductive Pages where
  | ok (l : List (Nat × Nat))
  | outside
  | fault (s : State) (c : Cause)
  | wait (s : State)

/-- The pages of [va, end) one after another: an absent one goes to the paging stall as any miss does, a failed walk gives its cause. -/
def State.findPages (s : State) (a : Access) (span : Nat × Nat) : Nat → Nat → Nat → List (Nat × Nat) → Pages
  | 0, _, _, l => .ok l
  | n + 1, va, last, l =>
    if last ≤ va then .ok l
    else match s.walk a.job va with
      | .bad => .fault s .ptformat
      | .absent => match s.failedFor a va with
        | some c => .fault (s.dropFailed a va) c
        | none => .wait (s.takeMiss a va 1)
      | .leaf x _ =>
        let pa := x.pa + (va - x.va)
        let m := min (last - va) (4096 - va % 4096)
        if span.1 ≤ pa ∧ pa + m ≤ span.1 + span.2 then s.findPages a span n (va + m) last (mapPut (va / 4096) (pa / 4096) l) else .outside

/-- The slots' headers of a new queue (R71): PHASE 1, every other field zero. -/
def State.freshHeaders (s : State) (q : Queue) : State :=
  let lane := fun (st : State) (u : Bool) => (List.range (q.laneSlots u)).foldl (fun (st : State) i =>
    st.ringWrite q (q.hdrVa u (BitVec.ofNat 32 i)) (dwordBytes 1)) st
  lane (lane s false) true

/-- An identifier that no queue has: not 0, which names no queue (R226), and outside those of engines and stalls (R251, R407). -/
def State.freeQueueId (s : State) : Option Nat :=
  leastFrom (fun q => (s.queue? q).isNone && !(decide (0x8000 ≤ q ∧ q < 0x8920))) 1 65535

/-- A queue made from its descriptor with the pages found (R67, R71, R378). -/
def State.makeQueue (s : State) (id : Nat) (q : Queue) : State :=
  let s1 := (s.freshHeaders q).setQueue id { q with block := s.reserved (s.job q.job).part.1 (2 ^ 25) + 256 * id, unparkedAt := s.micros, lastUse := s.micros }
  let s2 := if q.homeKind = 0 then
      { s1 with full := s1.full.filter (fun l => !q.pages.any (fun p => decide (p.2 * 32 ≤ l ∧ l < p.2 * 32 + 32) &&
          decide (q.base ≤ p.1 * 4096 + (l - p.2 * 32) * 128 ∧ p.1 * 4096 + (l - p.2 * 32) * 128 < q.base + q.footprint))) }
    else s1
  match s2.queue? id with
  | some x => s2.deviceWrite x.block (s2.blockBytes x)
  | none => s2

/-- QNEW (R67, R401). -/
def execQnew (h : HostHdr) (lo hi : Dword) (s : State) : Host.Outcome State Fault Refusal :=
  .next (s.command h 6 [lo, hi] (fun s1 => s1.withJob h (fun job =>
    let q : Queue := { job := job, desc := hi ++ lo }
    if !descFields q.desc then .refuse .illegal 0
    else if q.base % 128 ≠ 0 ∨ q.slotsN < q.cap ∨ 2 ^ 56 < q.base + q.footprint then .refuse .cfgformat 0
    else if !s1.inPart q.homeDie job then .refuse .buserr 0
    else match s1.freeQueueId with
      | none => .wait s1
      | some id =>
        let a : Access := ⟨.manager id, q.homeIsland, job, 2, false, none⟩
        match s1.findPages a q.homeSpan (q.footprint / 4096 + 2) q.base (q.base + q.footprint) [] with
        | .ok l => .done (s1.makeQueue id { q with pages := l }) (BitVec.ofNat 64 id)
        | .outside => .refuse .cfgformat 0
        | .fault s2 c => .refuseIn s2 c
        | .wait s2 => .wait s2)))

/-- The queue that a command names, of the command's job. -/
def State.jobQueue (s : State) (job : Nat) (q : Dword) (act : Nat → Queue → Act) : Act :=
  match s.queue? q.toNat with
  | some x => if x.job = job then act q.toNat x else .refuse .perm 0
  | none => .refuse .qport 0

/-- QFREE (R401): refused with QPORT while a port is bound. -/
def execQfree (h : HostHdr) (q : Dword) (s : State) : Host.Outcome State Fault Refusal :=
  .next (s.command h 7 [q] (fun s1 => s1.withJob h (fun job => s1.jobQueue job q (fun id x =>
    if x.cons.isEmpty ∧ x.prods.isEmpty then .done (s1.deleteQueue id) 0 else .refuse .qport 0))))

/-- A host port bound or ended (R398): HOME 2 only, one host port at most, the window rules of R74 for the host as a remote producer. -/
def Queue.bindHost (x : Queue) (arg : Nat) : Except Cause Queue :=
  let vec := BitVec.ofNat 11 (bitsOf arg 22 11)
  let taken := x.hostProducer.isSome || x.hostConsumer.isSome
  if arg / 2 ^ 33 ≠ 0 ∨ bitsOf arg 0 2 = 3 then .error .illegal
  else match bitsOf arg 0 2 with
    | 0 =>
      if x.homeKind ≠ 2 ∨ taken then .error .qport
      else match x.bindProd .host true (bitsOf arg 2 20) with
        | some y => .ok { y with hostProducer := some vec }
        | none => .error .qport
    | 1 =>
      if x.homeKind ≠ 2 ∨ taken then .error .qport
      else match x.bindCons .host with
        | some y => .ok { y with hostConsumer := some vec }
        | none => .error .qport
    | _ => .ok { x.dropOwner .host with hostProducer := none, hostConsumer := none }

/-- QBIND (R398, R401): what the remaining consumer ports have all taken becomes free (R72). -/
def execQbind (h : HostHdr) (q arg : Dword) (s : State) : Host.Outcome State Fault Refusal :=
  .next (s.command h 8 [q, arg] (fun s1 => s1.withJob h (fun job => s1.jobQueue job q (fun id x =>
    match (s1.blockView id x).bindHost arg.toNat with
    | .ok y => .done (s1.throughBlock id (fun u => (u.modQueue id (fun _ => y)).freeSlots id)) 0
    | .error c => .refuse c 0))))

/-! COPY. -/

/-- A span of physical addresses in pieces that cross no 4 KiB boundary: what stands there changes only at such. -/
def pagePieces (n pa : Nat) : Nat → List (Nat × Nat)
  | 0 => []
  | f + 1 =>
    if n = 0 then []
    else
      let m := min n (4096 - pa % 4096)
      (pa, m) :: pagePieces (n - m) (pa + m) f

/-- The pieces of a copy. -/
def copyPieces (pa n : Nat) : List (Nat × Nat) := pagePieces n pa (n / 4096 + 2)

/-- Why COPY does not reach a device address (R343, R401): outside regions 0x00 to 0x02 of the job's partition, or an arbor window. -/
def State.copyBarred (s : State) (job pa n : Nat) : Option Cause :=
  (copyPieces pa n).findSome? (fun p =>
    if 2 < regionOf p.1 ∨ !populated p.1 ∨ !s.inPart (dieOfPa p.1) job then some .buserr
    else if regionOf p.1 = 2 ∧ s.isArbor (quadOfPa p.1) then some .perm
    else none)

/-- Bytes that COPY reads. -/
def State.copyRead (s : State) (dev : Bool) (pa n : Nat) : Except Cause (List Byte) :=
  if !dev then .ok (s.peek (hostAddr pa) n)
  else (copyPieces pa n).foldlM (fun l p =>
    if isPlain p.1 then (if s.poisoned p.1 p.2 then .error .eccerr else .ok (l ++ s.peek p.1 p.2))
    else match s.deviceBytes p.1 p.2 with
      | some bs => .ok (l ++ bs)
      | none => .error .buserr) []

/-- Why COPY may not write a piece of a core window (Table 5-2, R116, R117). -/
def State.copyCheck (s : State) (pa n : Nat) : Option Cause :=
  (copyPieces pa n).findSome? (fun p => if isPlain p.1 then none else s.piecesRefused p.1 p.2)

/-- Whether COPY must wait: a landing register that it writes is still VALID (R116). -/
def State.copyHeld (s : State) (pa n : Nat) : Bool := (copyPieces pa n).any (fun p => !isPlain p.1 && s.piecesHeld p.1 p.2)

/-- Bytes that COPY writes. -/
def State.copyWrite (s : State) (dev : Bool) (pa : Nat) (bs : List Byte) : State :=
  if !dev then s.poke (hostAddr pa) bs
  else ((copyPieces pa bs.length).foldl (fun (p : State × List Byte) d =>
    (if isPlain d.1 then p.1.writePlain d.1 (p.2.take d.2) else p.1.putPieces .outside d.1 (p.2.take d.2), p.2.drop d.2)) (s, bs)).1

/-- COPY (R401): every byte is read before any is written; a landing register that is VALID and a line that a host cache may hold are waited
for (R116, R396). -/
def State.copyAct (s : State) (job : Nat) (src dst len dir : Nat) : Act :=
  let sd := dir.testBit 0
  let dd := dir.testBit 1
  if dir / 4 ≠ 0 then .refuse .illegal 0
  else match (if sd then s.copyBarred job src len else none) <|> (if dd then s.copyBarred job dst len else none)
      <|> (if dd then s.copyCheck dst len else none) with
    | some c => .refuse c 0
    | none =>
      match s.copyRead sd src len with
      | .error c => .refuse c 0
      | .ok bs =>
        if dd && s.copyHeld dst len then .wait s
        else match (if dd then s.snoop dst len else none) with
        | some s1 => .wait s1
        | none => .done (s.copyWrite dd dst bs) (BitVec.ofNat 64 len)

/-- COPY (R401). -/
def execCopy (h : HostHdr) (src dst len dir : Dword) (s : State) : Host.Outcome State Fault Refusal :=
  .next (s.command h 9 [src, dst, len, dir] (fun s1 => s1.withJob h (fun job => s1.copyAct job src.toNat dst.toNat len.toNat dir.toNat)))

/-! Stalls, power, links, debugging, reset. -/

/-- FLASHMAP (R401, R402): through the storage stall, so it waits until that runs. -/
def execFlashmap (h : HostHdr) (ns lba len va : Dword) (s : State) : Host.Outcome State Fault Refusal :=
  .next (s.command h 10 [ns, lba, len, va] (fun s1 => s1.withJob h (fun job =>
    if ns.toNat / 2 ^ 33 ≠ 0 ∨ len.toNat % 4096 ≠ 0 ∨ va.toNat % 4096 ≠ 0 ∨ 2 ^ 56 < va.toNat + len.toNat then .refuse .illegal 0
    else if !(s1.stall (s1.job job).part.1 2).running then .wait s1
    else
      let m : FlashMap := ⟨va.toNat, len.toNat, ns.getLsbD 0, bitsOf ns.toNat 1 32, lba.toNat⟩
      .done { s1 with jobs := mapPut job { s1.job job with flash := (s1.job job).flash ++ [m] } s1.jobs } 0)))

/-- The job number under which the firmware keeps a partition's own queues (log entry 42). -/
def firmwareJob (part : Nat) : Nat := 2 ^ 32 + part

/-- The request queue of a stall (R407): 64-byte items of any type, 256 slots, in HBM that the firmware keeps (log entry 42). -/
def State.stallRing (s : State) (part kind : Nat) : Queue :=
  let pa := s.reserved part (2 ^ 24) + kind * 0x10000
  let stack := pa / 2 ^ 36
  { job := firmwareJob part
    desc := BitVec.ofNat 128 (255 * 2 ^ 104 + 3 * 2 ^ 98 + 8 * 2 ^ 88 + 2 * 2 ^ 86 + stack * 2 ^ 74 + pa)
    pages := (List.range 16).map (fun i => (pa / 4096 + i, pa / 4096 + i))
    cons := [{ owner := .stall part kind, headN := 0, headU := 0 }] }

/-- A stall started: its queue is made where there is none, and it takes calls. -/
def State.startStall (s : State) (part kind : Nat) : State :=
  let id := stallQueue part kind
  let s1 := if (s.queue? id).isSome then s
    else
      let s1 : State := { s with jobs := mapPut (firmwareJob part) { part := Fin.ofNat 4 part } s.jobs }
      s1.makeQueue id (s1.stallRing part kind)
  s1.modStall part kind (fun t => { t with running := t.calls.isEmpty && t.answers.isEmpty })

/-- The partition that a command acts on: that of its job, or partition 0 for JOB 0 (log entry 45). -/
def State.cmdPart (s : State) (h : HostHdr) : Option Nat :=
  if h.job = 0 then some 0 else (mapFind s.jobs h.job.toNat).map (fun j => j.part.1)

/-- Whether some die of a partition accepted a stall's image (R410). -/
def State.imageOk (s : State) (part kind : Nat) : Bool := [0, 1, 2, 3].any (fun d => (s.die d).part.1 == part && (s.die d).stalls.getLsbD kind)

/-- STALLCTL (R401, R409, R410). -/
def execStallctl (h : HostHdr) (kind op : Dword) (s : State) : Host.Outcome State Fault Refusal :=
  .next (s.command h 11 [kind, op] (fun s1 =>
    if 4 < kind.toNat ∨ 1 < op.toNat then .refuse .illegal 0
    else match s1.cmdPart h with
      | none => .refuse .perm 0
      | some p =>
        if !s1.imageOk p kind.toNat then .refuse .perm 0
        else .done ((if op = 1 then s1.restartStall p kind.toNat else s1).startStall p kind.toNat) 0))

/-- POWER (R401, R423). -/
def execPower (h : HostHdr) (limit : Dword) (s : State) : Host.Outcome State Fault Refusal :=
  .next (s.command h 12 [limit] (fun s1 =>
    if 1000 ≤ limit.toNat ∧ limit.toNat ≤ 4000 then .done { s1 with limit := limit.toNat } limit else .refuse .illegal 0))

/-- LINKCFG (R401, R404). -/
def execLinkcfg (h : HostHdr) (peer mask base len : Dword) (s : State) : Host.Outcome State Fault Refusal :=
  .next (s.command h 13 [peer, mask, base, len] (fun s1 =>
    if 15 < peer.toNat ∨ 4095 < mask.toNat then .refuse .illegal 0
    else .done { s1 with peers := vset s1.peers (Fin.ofNat 16 peer.toNat) ⟨mask.setWidth 12, base.toNat, len.toNat⟩ } 0))

/-- DEBUG (R354, R355, R401): a freeze or a thaw acts on every die of the partition, a scan read on one die; each of those must permit it. -/
def State.debugAct (s : State) (part : Nat) (op a b : Nat) : Act :=
  let dies := [0, 1, 2, 3].filter (fun d => (s.die d).part.1 == part)
  let d := dies.headD 0
  let acted := if op = 2 then dies.filter (· == bitsOf a 14 2) else dies
  if !acted.all (fun e => (s.die e).dbg) then .refuse .perm 0
  else match op with
    | 0 => .done (s.askFreeze d (4 * (s.roleQuads d 1).headD (256 * d))) 0
    | 1 => .done (s.thaw d) 0
    | 2 =>
      if a / 2 ^ 16 ≠ 0 then .refuse .illegal 0
      else if !dies.contains (bitsOf a 14 2) then .refuse .buserr 0
      else if !(s.die d).frozen then .refuse .notfrozen 0
      else .done s (scanWord (s.die d).scan (bitsOf a 14 2) (bitsOf a 8 6) (bitsOf a 0 8) b)
    | _ => .refuse .illegal 0

/-- DEBUG (R401). -/
def execDebug (h : HostHdr) (op a b : Dword) (s : State) : Host.Outcome State Fault Refusal :=
  .next (s.command h 14 [op, a, b] (fun s1 => match s1.cmdPart h with
    | none => .refuse .perm 0
    | some p => s1.debugAct p op.toNat a.toNat b.toNat))

/-- RESET (R401): the completion first, then the dies of the partition are reset; DIE_RESET runs their stages. -/
def execReset (h : HostHdr) (part : Dword) (s : State) : Host.Outcome State Fault Refusal :=
  .next (match s.entryOf h 15 [part] with
    | none => s
    | some e =>
      if !(s.ring h.ring).cqRoom then s
      else if e.getD 0 0 &&& 0xFEF0 ≠ 0 ∨ 3 < part.toNat then s.complete h e (some .illegal) 0
      else ([0, 1, 2, 3].filter (fun d => (s.die d).part.1 == part.toNat)).foldl State.clearDie (s.complete h e none 0))

/-! The HDM range. -/

/-- Physical address of an offset of the HDM range (R394): eight stacks of 48 GiB. -/
def hdmAddr (off : Nat) : Nat := off / (48 * 2 ^ 30) * 2 ^ 36 + off % (48 * 2 ^ 30)

/-- Lines a die's snoop filter holds at most (R396). -/
def filterLimit : Nat := 2 ^ 26

/-- A line of the HDM range tracked (R396); `none` while the oldest line of a full filter is still being back-invalidated. -/
def State.track (s : State) (line : Nat) : Sum State State :=
  if s.host.tracked.contains line then .inr s
  else
    let mine := s.host.tracked.filter (fun l => dieOfPa (64 * l) == dieOfPa (64 * line))
    if mine.length < filterLimit then .inr { s with host := { s.host with tracked := s.host.tracked ++ [line] } }
    else .inl { s with host := { s.host with snooped := setAdd (mine.headD 0) s.host.snooped } }

/-- Lines tracked one after another. -/
def State.trackAll (s : State) (pa n : Nat) : Sum State State :=
  ((List.range ((pa + n - 1) / 64 - pa / 64 + 1)).map (· + pa / 64)).foldl (fun (r : Sum State State) l => match r with
    | .inr st => st.track l
    | .inl st => .inl st) (.inr s)

/-- A write of the host to HBM: for each notify word that it touches, the vector's next message may be sent (R400). -/
def State.hostWrites (s : State) (pa : Nat) (bs : List Byte) : State :=
  (s.notifyAt pa bs.length).foldl (fun (st : State) w =>
    match (st.queue? w.2).bind (fun y => y.hostProducer <|> y.hostConsumer) with
    | some v => { st with host := { st.host with msixBusy := setDel v.toNat st.host.msixBusy } }
    | none => st) (s.writePlain pa bs)

/-- Whether an access of the host lies in the HDM range and in one stack (R394). -/
def hdmOk (off n : Nat) : Bool := decide (0 < n ∧ off + n ≤ 8 * (48 * 2 ^ 30) ∧ hdmAddr (off + n - 1) = hdmAddr off + (n - 1))

/-- An AtomicOp of the host on a dword of the HDM range (R394): the old value returns to the host. -/
def State.hdmAtomic (s : State) (off : Nat) (f : Dword → Dword) : State :=
  if !s.hostRole ∨ off % 8 ≠ 0 ∨ !hdmOk off 8 then s
  else
    let old := s.peekD (hdmAddr off)
    let s1 := s.hostWrites (hdmAddr off) (dwordBytes (f old))
    { s1 with host := { s1.host with answers := s1.host.answers ++ [old] } }

/-- HDM_ACCESS (R394, R396): a read fetches lines into a host cache; a write modifies them, and what it wrote is what device reads of
the line return; FetchAdd, Swap and CAS are performed at the device. -/
def execHdmAccess (op : HdmOp) (s : State) : Host.Outcome State Fault Refusal :=
  .next (match op with
    | .read off n =>
      if !s.hostRole ∨ !hdmOk off n then s
      else match s.trackAll (hdmAddr off) n with
        | .inl s1 => s1
        | .inr s1 => s1
    | .write off bs =>
      let n := bs.length
      if !s.hostRole ∨ !hdmOk off n then s
      else match s.trackAll (hdmAddr off) n with
        | .inl s1 => s1
        | .inr s1 =>
          let lines := (List.range ((hdmAddr off + n - 1) / 64 - hdmAddr off / 64 + 1)).map (· + hdmAddr off / 64)
          let s2 := s1.hostWrites (hdmAddr off) bs
          { s2 with host := { s2.host with modified := lines.foldl (fun l x => setAdd x l) s2.host.modified } }
    | .fetchAdd off x => s.hdmAtomic off (fun old => old + x)
    | .swap off x => s.hdmAtomic off (fun _ => x)
    | .cas off e x => s.hdmAtomic off (fun old => if old = e then x else old))

end Sys2Proof.Machine
end

