-- ==== Sys2Proof/Machine/Links.lean ====
section
/-! DEFINITION. Hjelli Link: the reception of flits and their replay (R403), memory requests of peers (R404), items and credits
(R405), messages, reduction blocks (R406), ports that fail and recover (R83, R405). Where the spec gives a payload no layout, log
entry 46 does. -/
namespace Sys2Proof.Machine

/-- A link port. -/
def State.link (s : State) (p : Fin 12) : LinkPort := s.links.get p

/-- The state with a link port changed. -/
def State.modLink (s : State) (p : Fin 12) (f : LinkPort → LinkPort) : State := { s with links := vset s.links p (f (s.link p)) }

/-- An answer put on a link to the module that a flit came from: TYPE, TAG, payload. -/
def State.sendFlit (s : State) (p : Fin 12) (type : Nat) (f : Flit) (bs : List Byte) : State := s.sendUnit p type f.tag f.src false 0 bs

/-! What each TYPE does. -/

/-- Whether a request lies in the aperture of its peer (R404). -/
def State.inAperture (s : State) (m a n : Nat) : Bool :=
  let p := s.peers.get (Fin.ofNat 16 m)
  decide (p.base ≤ a ∧ a + n ≤ p.base + p.len)

/-- Why a request of a peer is refused: outside its aperture PERM (R404), at unpopulated addresses BUSERR (R113), behind the firewall PERM (R343). -/
def State.peerBarred (s : State) (m a n : Nat) : Option Cause :=
  if !s.inAperture m a n then some .perm
  else if 2 < a / 2 ^ 40 ∨ !populated (peerAddr a) ∨ !populated (peerAddr (a + n - 1)) then some .buserr
  else s.writerBarred .outside (peerAddr a)

/-- Whether a range of at most a page is plain memory from end to end. -/
def plainRange (pa n : Nat) : Bool := isPlain pa && isPlain (pa + n - 1)

/-- TYPE 1 (R404, R114 to R117): a write of LEN bytes, or a read of 64 bytes where LEN is 0; a refused one is answered with its cause. A
request that runs from a scratchpad into a core window is judged and performed part by part, as COPY is. -/
def State.memRequest (s : State) (p : Fin 12) (f : Flit) : State :=
  let a := f.addr
  let n := if f.len = 0 then 64 else f.len
  let pa := peerAddr a
  match s.peerBarred f.src a n with
  | some c => s.sendFlit p 2 f [code8 c]
  | none =>
  if f.len = 0 then
    (if plainRange pa n then
      (if s.poisoned pa n then s.sendFlit p 2 f [code8 .eccerr] else s.sendFlit p 2 f (0 :: s.peek pa n))
    else match s.copyRead true pa n with
      | .ok bs => (s.sendFlit p 2 f (0 :: bs)).tick
      | .error c => s.sendFlit p 2 f [code8 c])
  else if plainRange pa n then (s.writePlain pa f.payload).sendFlit p 2 f [0]
  else match s.copyCheck pa n with
    | some c => s.sendFlit p 2 f [code8 c]
    | none => (s.copyWrite true pa f.payload).sendFlit p 2 f [0]

/-- The port that a peer's items come through: bound at the first item where the windows allow it (R74, log entry 46). -/
def State.peerPort (s : State) (id m : Nat) (p : Fin 12) : Option (State × Nat) :=
  match s.queue? id with
  | none => none
  | some q =>
    if q.far.isSome then none
    else match (s.blockView id q).bindProd (.peer m) true 1 with
    | none => none
    | some q1 => (q1.prodOf (.peer m)).map (fun i =>
        (s.changeQueue id (fun _ => { q1 with prods := listModify (fun x => { x with link := some p }) i q1.prods }), i))

/-- An item that has arrived whole: its bytes, then its header dword. A unit of the header alone publishes what the peer has written into the slot
at the tail (R233). -/
def State.unitItem (s : State) (q : Queue) (bs : List Byte) : Item :=
  let h := fieldAt bs (bs.length - 8) 8
  ⟨bitsOf h 9 2, BitVec.ofNat 8 (bitsOf h 16 8), BitVec.ofNat 32 (bitsOf h 32 32),
    if bs.length = 8 then s.itemAt q false q.tailN else bs.take (bs.length - 8)⟩

/-- TYPE 3 (R83, R404): parts of one item gather until LAST; the whole item then stands at the home, to be accepted in turn. -/
def State.itemFlit (s : State) (p : Fin 12) (f : Flit) : State :=
  let bs := (s.link p).partUnit ++ f.payload
  let id := f.tag.toNat
  if !f.last then s.modLink p (fun l => { l with partUnit := bs })
  else
    let s1 := s.modLink p (fun l => { l with partUnit := [] })
    match s1.peerPort id f.src p with
    | none => s1
    | some (s2, i) =>
      s2.changeQueue id (fun q =>
        let it := s2.unitItem q bs
        { q with
          prods := listModify (fun x => { x with used := x.used + q.slotsFor it.kind }) i q.prods
          inflight := q.inflight ++ [{ port := i, urgent := f.urg && q.urgSlots != 0, kind := Fin.ofNat 4 it.kind, type := it.type, mkid := it.mkid, bytes := it.bytes }] })

/-- Credits of a queue homed on another module, at most `n` of them: its oldest items over a link have been taken there, the counts of their
ports fall (R75), and the free index moves over their slots (R85). -/
def Queue.credit (p : Fin 12) : Nat → Queue → Queue
  | 0, q => q
  | n + 1, q =>
    match q.inflight.find? (fun i => (q.prods[i.port]?).any (fun x => x.link == some p)) with
    | none => q
    | some i => Queue.credit p n { q with
        inflight := q.inflight.erase i
        freeN := q.freeN + BitVec.ofNat 32 (q.slotsFor i.kind.1)
        prods := listModify (fun x => { x with used := x.used - q.slotsFor i.kind.1 }) i.port q.prods }

/-- TYPE 4 (R75): credits of the queue that TAG names on the sending module come back to the ports whose items went over this link. -/
def State.ackFlit (s : State) (p : Fin 12) (f : Flit) : State :=
  { s with queues := s.queues.map (fun e =>
      if e.2.far = some (Fin.ofNat 16 f.src, f.tag) then (e.1, e.2.credit p f.cred) else e) }

/-- TYPE 5 (R241): parts of a message for the core of ADDR[11:0] gather until LAST; handler words stand in ADDR[20:16]. What a link brought before it
failed belongs to a message that will not be whole. -/
def State.msgFlit (s : State) (p : Fin 12) (f : Flit) : State :=
  let c := f.addr % 4096
  let k := s.core c
  let others := k.parts.filter (fun m => m.port != p || m.cut)
  let whole : Msg := match k.parts.find? (fun m => m.port == p && !m.cut) with
    | some m => { m.msg with bytes := m.msg.bytes ++ f.payload }
    | none => ⟨bitsOf f.addr 24 12, bitsOf f.addr 16 5, f.payload⟩
  if f.last then
    (if 1 ≤ whole.words ∧ whole.words ≤ 16 ∧ 4 * whole.words ≤ whole.bytes.length ∧ whole.bytes.length ≤ 256 then
      s.modCore c (fun k => { k with parts := others, net := k.net ++ [whole] })
    else s.modCore c (fun k => { k with parts := others }))
  else s.modCore c (fun k => { k with parts := others ++ [{ msg := whole, port := p, beat := k.clock }] })

/-- The reduction queues of the porter cores of a link port (R406): those of 256-byte items of type 0x40 that its porter quad has bound, in the
order of their identifiers. -/
def State.reductionQueues (s : State) (p : Fin 12) : List Nat :=
  ((s.queues.filter (fun e => e.2.type == 0x40 && e.2.isz == 256 && (e.2.consOf (.tile (.quad (porterQuad p.1)))).isSome)).map (·.1)).take 4

/-- TYPE 6 (R406): two flits carry one block, and block b goes to the queue of porter core b mod NP; the slot that it took at its sender comes back
(log entry 46). -/
def State.reductionFlit (s : State) (p : Fin 12) (f : Flit) : State :=
  let bs := (s.link p).partUnit ++ f.payload
  if !f.last then s.modLink p (fun l => { l with partUnit := bs })
  else
    let qs := s.reductionQueues p
    if qs.isEmpty ∨ bs.length ≠ 256 then s.modLink p (fun l => { l with partUnit := [] })
    else
      let q := qs.getD (fieldAt bs 132 4 % qs.length) 0
      ((s.modLink p (fun l => { l with partUnit := [] })).pushDevice q false ⟨0, 0x40, 0, bs⟩).sendUnit p 4 f.tag f.src false 1 []

/-- TYPE 7: one without payload asks for the flits from the number in TAG to be sent again (R403, log entry 46). -/
def State.controlFlit (s : State) (p : Fin 12) (f : Flit) : State := if f.len = 0 then s.modLink p (fun l => l.replay f.tag) else s

/-- A flit of one TYPE whose CRC passed; one with a reserved TYPE is discarded (R403). -/
def State.flit (s : State) (p : Fin 12) (f : Flit) : State :=
  match f.type with
  | 1 => s.memRequest p f
  | 2 => s.modLink p (fun l => { l with responses := l.responses ++ [(f.tag, f.payload)] })
  | 3 => s.itemFlit p f
  | 4 => s.ackFlit p f
  | 5 => s.msgFlit p f
  | 6 => s.reductionFlit p f
  | 7 => s.controlFlit p f
  | _ => s

/-- A flit that must still wait: a write to a landing register that is VALID (R116) or to a line that a host cache may hold (R396), with the snoop
sent; a block whose queue is full. -/
def State.flitHeld (s : State) (p : Fin 12) (f : Flit) : Option State :=
  match f.type with
  | 1 =>
    let pa := peerAddr f.addr
    if f.len = 0 ∨ (s.peerBarred f.src f.addr f.len).isSome then none
    else if plainRange pa f.len then s.snoop pa f.len
    else if (s.copyCheck pa f.len).isNone && s.copyHeld pa f.len then some s else none
  | 6 =>
    let bs := (s.link p).partUnit ++ f.payload
    let qs := s.reductionQueues p
    if f.last ∧ !qs.isEmpty ∧ bs.length = 256 ∧ !s.roomDevice (qs.getD (fieldAt bs 132 4 % qs.length) 0) false then some (s.want (qs.getD (fieldAt bs 132 4 % qs.length) 0)) else none
  | _ => none

/-- A change of a link port's width, with its event (R422, log entry 93). -/
def State.setUp (s : State) (p : Fin 12) (up : Bool) : State :=
  if (s.link p).up = up then s
  else (s.modLink p (fun l => { l with up := up })).logEvent 9 0 p.1 (s.link p).width (if up then 8 else 0)

/-- The peer whose LINKCFG mask names a port (R404). -/
def State.peerOf (s : State) (p : Fin 12) : Nat := ((List.range 16).find? (fun m => (s.peers.get (Fin.ofNat 16 m)).mask.getLsbD p.1)).getD 0

/-- A flit comes in at a port (R403): a failed check asks for a replay from the SEQ expected; a flit in sequence brings the port up and takes effect
where DST names this module, which forwards nothing (R404); one out of sequence is dropped. -/
def State.receive (s : State) (port : Fin 12) (f : Flit) : State :=
  if !s.exposed then s
  else
    let s := s.modLink port (fun l => { l with heard := s.micros })
    if !f.good then
      (s.modLink port (fun l => { l with replays := l.replays + 1, replayFrom := some l.rxSeq })).sendUnit port 7 (s.link port).rxSeq (s.peerOf port) false 0 []
    else if f.seq ≠ (s.link port).rxSeq then s
    else match (if f.dst = s.peerIndex.1 then s.flitHeld port f else none) with
      | some s1 => s1
      | none =>
        let s1 := (s.modLink port (fun l => { l with rxSeq := l.rxSeq + 1, replays := 0, replayFrom := none })).setUp port true
        if f.dst = s.peerIndex.1 then s1.flit port f else s1

/-- A flit of TYPE `n` comes in. -/
def State.onFlit (s : State) (p : Fin 12) (f : Flit) (n : Nat) : State := if f.type = n then s.receive p f else s

/-- MEMORY_REQUEST (R404). -/
def execMemoryRequest (port : Fin 12) (f : Flit) (s : State) : Host.Outcome State Fault Refusal := .next (s.onFlit port f 1)
/-- MEMORY_RESPONSE (R403). -/
def execMemoryResponse (port : Fin 12) (f : Flit) (s : State) : Host.Outcome State Fault Refusal := .next (s.onFlit port f 2)
/-- QUEUE_ITEM (R404). -/
def execQueueItem (port : Fin 12) (f : Flit) (s : State) : Host.Outcome State Fault Refusal := .next (s.onFlit port f 3)
/-- ACKNOWLEDGEMENT (R403). -/
def execAcknowledgement (port : Fin 12) (f : Flit) (s : State) : Host.Outcome State Fault Refusal := .next (s.onFlit port f 4)
/-- ACTIVE_MESSAGE (R403). -/
def execActiveMessage (port : Fin 12) (f : Flit) (s : State) : Host.Outcome State Fault Refusal := .next (s.onFlit port f 5)
/-- REDUCTION_BLOCK (R406). -/
def execReductionBlock (port : Fin 12) (f : Flit) (s : State) : Host.Outcome State Fault Refusal := .next (s.onFlit port f 6)
/-- CONTROL (R403). -/
def execControl (port : Fin 12) (f : Flit) (s : State) : Host.Outcome State Fault Refusal := .next (s.onFlit port f 7)

/-- LINK_FLIT_RECEIVE (R403): a flit of any TYPE. -/
def execLinkFlitReceive (port : Fin 12) (f : Flit) (s : State) : Host.Outcome State Fault Refusal := .next (s.receive port f)

/-! Failure and recovery. -/

/-- Whether a port has failed (R403): 16 replays of a flit in a row have, or no flit has come for 2^16 cycles (log entry 6). -/
def State.linkFails (s : State) (p : Fin 12) : Bool :=
  decide (16 ≤ (s.link p).replays ∨ 2 ^ 16 ≤ (s.micros - (s.link p).heard) * 2700)

/-- LINKDOWN (R83, R241, R403, R405): the port is down, partial units are discarded and messages that were crossing it will not be whole; LINKDOWN
goes to the producer tiles whose items crossed it, and their counts stay held. -/
def execLinkdown (port : Fin 12) (s : State) : Host.Outcome State Fault Refusal :=
  .next (
    if !(s.link port).up ∨ !s.linkFails port then s
    else
      let s1 := (s.modLink port (fun l => { l with replays := 0, replayFrom := none, partUnit := [], kept := [] })).setUp port false
      let s2 : State := { s1 with
        cores := s1.cores.map (fun (c, k) => (c, { k with parts := k.parts.map (fun m => if m.port = port then { m with cut := true } else m) }))
        queues := s1.queues.map (fun (i, q) => (i, { q with prods := q.prods.map (fun x => if x.link = some port then { x with failed := true } else x) })) }
      s2.queues.foldl (fun (st : State) e => e.2.prods.foldl (fun (st : State) x => match x.owner with
        | .tile t => if x.link = some port ∧ x.used ≠ 0 then
            st.report t { cause := .linkdown, src := 7, addr := BitVec.ofNat 64 e.2.base } else st
        | _ => st) st) s2)

/-- The peer at the other end of a producer port and the identifier that selects its link port (R404): those of a home on another module, or of a
peer's port on a queue of this one. -/
def Queue.farEnd (q : Queue) (id : Nat) (x : ProdPort) : Option (Nat × Nat) :=
  match q.far, x.owner with
  | some (m, far), _ => some (m.1, far.toNat)
  | none, .peer m => some (m, id)
  | _, _ => none

/-- Items that waited for the recovery of a port sent, in their order (R405). -/
def State.sendHeld (s : State) (id port : Nat) : State :=
  match s.queue? id with
  | none => s
  | some q =>
    let s1 := (q.inflight.filter (fun i => i.port == port && i.unsent)).foldl (fun (st : State) i =>
      st.sendItem q port i.urgent ⟨i.kind.1, i.type, i.mkid, i.bytes⟩) s
    s1.setQueue id { q with inflight := q.inflight.map (fun i => if i.port = port then { i with unsent := false } else i) }

/-- Items on their way with only the first `n` of those that a port has sent (R405). -/
def keepSent (port : Nat) : Nat → List InFlight → List InFlight
  | _, [] => []
  | n, i :: r => if i.port = port ∧ !i.unsent then (if n = 0 then keepSent port 0 r else i :: keepSent port (n - 1) r) else i :: keepSent port n r

/-- LINK_RECOVERY (R405): once a port to the peer is up, be it the one that failed, items sent and not accepted are lost, the count falls by their
number, the producer tile is told, and the port sends on. How many a home on another module has accepted is free. -/
def execLinkRecovery (q port : Nat) (s : State) : Host.Outcome State Fault Refusal :=
  .next (match s.queue? q with
    | none => s
    | some x =>
      match x.prods[port]? with
      | none => s
      | some pr =>
        match (if pr.failed then (x.farEnd q pr).bind (fun e => s.linkFor e.1 e.2) else none) with
        | none => s
        | some np =>
          let sent := x.inflight.filter (fun i => i.port == port && !i.unsent)
          let kept := if x.far.isSome then Config.farAccepted s.freeCtr else 0
          let mine := sent.drop kept
          let lost := (mine.map (fun i => x.slotsFor i.kind.1)).sum
          let s1 := (s.tick.changeQueue q (fun z => { z with
            inflight := keepSent port kept z.inflight
            freeN := if z.far.isSome then z.freeN + BitVec.ofNat 32 lost else z.freeN
            prods := listModify (fun y => { y with used := y.used - lost, link := some np, failed := false }) port z.prods })).sendHeld q port
          match pr.owner with
          | .tile t => s1.report t { cause := .linkdown, src := 7, aux := mine.length, addr := BitVec.ofNat 64 x.base }
          | _ => s1)

end Sys2Proof.Machine
end

