-- ==== Sys2Proof/Machine/MemoryOps.lean ====
section
/-! DEFINITION. Loads, stores, full/empty and capability transfers, atomics, prefetch and fence: majors 0x18 to 0x1E (R171 to R180);
`st.x` stands with the matrix unit. -/
namespace Sys2Proof.Machine

/-- `ld.x` (R173): the lower 64 bytes of vd, the upper half kept. -/
def State.loadX (s : State) (st : Fin 8) (d : Fin 32) (m : MemOp) : Host.Outcome State Fault Refusal :=
  s.run st m.regs [.v d] 0 (fun s1 =>
    s1.load (m.cap s1.my) (m.addr s1.my 64) 64 64 permR (fun _ bs => .vlo d (BitVec.ofNat 512 (leNat bs))))

/-- `ld.b` (Table 7-7), MODE 0. -/
def execLdB (st : Fin 8) (d : Fin 32) (k : Fin 16) (i : Fin 1024) (s : State) : Host.Outcome State Fault Refusal :=
  s.loadG st d (.disp k i) 1 true

/-- `ld.b`, MODE 1. -/
def execLdBIdx (st : Fin 8) (d : Fin 32) (k : Fin 16) (x : Fin 32) (c : Fin 4) (s : State) : Host.Outcome State Fault Refusal :=
  s.loadG st d (.idx k x c) 1 true

/-- `ld.bu` (Table 7-7), MODE 0. -/
def execLdBu (st : Fin 8) (d : Fin 32) (k : Fin 16) (i : Fin 1024) (s : State) : Host.Outcome State Fault Refusal :=
  s.loadG st d (.disp k i) 1 false

/-- `ld.bu`, MODE 1. -/
def execLdBuIdx (st : Fin 8) (d : Fin 32) (k : Fin 16) (x : Fin 32) (c : Fin 4) (s : State) : Host.Outcome State Fault Refusal :=
  s.loadG st d (.idx k x c) 1 false

/-- `ld.h` (Table 7-7), MODE 0. -/
def execLdH (st : Fin 8) (d : Fin 32) (k : Fin 16) (i : Fin 1024) (s : State) : Host.Outcome State Fault Refusal :=
  s.loadG st d (.disp k i) 2 true

/-- `ld.h`, MODE 1. -/
def execLdHIdx (st : Fin 8) (d : Fin 32) (k : Fin 16) (x : Fin 32) (c : Fin 4) (s : State) : Host.Outcome State Fault Refusal :=
  s.loadG st d (.idx k x c) 2 true

/-- `ld.hu` (Table 7-7), MODE 0. -/
def execLdHu (st : Fin 8) (d : Fin 32) (k : Fin 16) (i : Fin 1024) (s : State) : Host.Outcome State Fault Refusal :=
  s.loadG st d (.disp k i) 2 false

/-- `ld.hu`, MODE 1. -/
def execLdHuIdx (st : Fin 8) (d : Fin 32) (k : Fin 16) (x : Fin 32) (c : Fin 4) (s : State) : Host.Outcome State Fault Refusal :=
  s.loadG st d (.idx k x c) 2 false

/-- `ld.w` (Table 7-7), MODE 0. -/
def execLdW (st : Fin 8) (d : Fin 32) (k : Fin 16) (i : Fin 1024) (s : State) : Host.Outcome State Fault Refusal :=
  s.loadG st d (.disp k i) 4 true

/-- `ld.w`, MODE 1. -/
def execLdWIdx (st : Fin 8) (d : Fin 32) (k : Fin 16) (x : Fin 32) (c : Fin 4) (s : State) : Host.Outcome State Fault Refusal :=
  s.loadG st d (.idx k x c) 4 true

/-- `ld.wu` (Table 7-7), MODE 0. -/
def execLdWu (st : Fin 8) (d : Fin 32) (k : Fin 16) (i : Fin 1024) (s : State) : Host.Outcome State Fault Refusal :=
  s.loadG st d (.disp k i) 4 false

/-- `ld.wu`, MODE 1. -/
def execLdWuIdx (st : Fin 8) (d : Fin 32) (k : Fin 16) (x : Fin 32) (c : Fin 4) (s : State) : Host.Outcome State Fault Refusal :=
  s.loadG st d (.idx k x c) 4 false

/-- `ld.d` (Table 7-7), MODE 0. -/
def execLdD (st : Fin 8) (d : Fin 32) (k : Fin 16) (i : Fin 1024) (s : State) : Host.Outcome State Fault Refusal :=
  s.loadG st d (.disp k i) 8 true

/-- `ld.d`, MODE 1. -/
def execLdDIdx (st : Fin 8) (d : Fin 32) (k : Fin 16) (x : Fin 32) (c : Fin 4) (s : State) : Host.Outcome State Fault Refusal :=
  s.loadG st d (.idx k x c) 8 true

/-- `ld.b.acq` (R174): the read is performed when it issues, before every later access (log entry 15). -/
def execLdBAcq (st : Fin 8) (d : Fin 32) (k : Fin 16) (x : Fin 32) (c : Fin 4) (p : Fin 8) (s : State) : Host.Outcome State Fault Refusal :=
  s.loadG st d (.idx k x c) 1 true

/-- `ld.bu.acq` (R174): the read is performed when it issues, before every later access (log entry 15). -/
def execLdBuAcq (st : Fin 8) (d : Fin 32) (k : Fin 16) (x : Fin 32) (c : Fin 4) (p : Fin 8) (s : State) : Host.Outcome State Fault Refusal :=
  s.loadG st d (.idx k x c) 1 false

/-- `ld.h.acq` (R174): the read is performed when it issues, before every later access (log entry 15). -/
def execLdHAcq (st : Fin 8) (d : Fin 32) (k : Fin 16) (x : Fin 32) (c : Fin 4) (p : Fin 8) (s : State) : Host.Outcome State Fault Refusal :=
  s.loadG st d (.idx k x c) 2 true

/-- `ld.hu.acq` (R174): the read is performed when it issues, before every later access (log entry 15). -/
def execLdHuAcq (st : Fin 8) (d : Fin 32) (k : Fin 16) (x : Fin 32) (c : Fin 4) (p : Fin 8) (s : State) : Host.Outcome State Fault Refusal :=
  s.loadG st d (.idx k x c) 2 false

/-- `ld.w.acq` (R174): the read is performed when it issues, before every later access (log entry 15). -/
def execLdWAcq (st : Fin 8) (d : Fin 32) (k : Fin 16) (x : Fin 32) (c : Fin 4) (p : Fin 8) (s : State) : Host.Outcome State Fault Refusal :=
  s.loadG st d (.idx k x c) 4 true

/-- `ld.wu.acq` (R174): the read is performed when it issues, before every later access (log entry 15). -/
def execLdWuAcq (st : Fin 8) (d : Fin 32) (k : Fin 16) (x : Fin 32) (c : Fin 4) (p : Fin 8) (s : State) : Host.Outcome State Fault Refusal :=
  s.loadG st d (.idx k x c) 4 false

/-- `ld.d.acq` (R174): the read is performed when it issues, before every later access (log entry 15). -/
def execLdDAcq (st : Fin 8) (d : Fin 32) (k : Fin 16) (x : Fin 32) (c : Fin 4) (p : Fin 8) (s : State) : Host.Outcome State Fault Refusal :=
  s.loadG st d (.idx k x c) 8 true

/-- `st.b` (Table 7-7), MODE 0. -/
def execStB (st : Fin 8) (d : Fin 32) (k : Fin 16) (i : Fin 1024) (s : State) : Host.Outcome State Fault Refusal :=
  s.storeG st d (.disp k i) 1 none

/-- `st.b`, MODE 1. -/
def execStBIdx (st : Fin 8) (d : Fin 32) (k : Fin 16) (x : Fin 32) (c : Fin 4) (s : State) : Host.Outcome State Fault Refusal :=
  s.storeG st d (.idx k x c) 1 none

/-- `st.b.rel` (R174): the store buffer performs it after every earlier store. -/
def execStBRel (st : Fin 8) (d : Fin 32) (k : Fin 16) (x : Fin 32) (c : Fin 4) (p : Fin 8) (s : State) : Host.Outcome State Fault Refusal :=
  s.storeG st d (.idx k x c) 1 (some p.1)

/-- `st.h` (Table 7-7), MODE 0. -/
def execStH (st : Fin 8) (d : Fin 32) (k : Fin 16) (i : Fin 1024) (s : State) : Host.Outcome State Fault Refusal :=
  s.storeG st d (.disp k i) 2 none

/-- `st.h`, MODE 1. -/
def execStHIdx (st : Fin 8) (d : Fin 32) (k : Fin 16) (x : Fin 32) (c : Fin 4) (s : State) : Host.Outcome State Fault Refusal :=
  s.storeG st d (.idx k x c) 2 none

/-- `st.h.rel` (R174): the store buffer performs it after every earlier store. -/
def execStHRel (st : Fin 8) (d : Fin 32) (k : Fin 16) (x : Fin 32) (c : Fin 4) (p : Fin 8) (s : State) : Host.Outcome State Fault Refusal :=
  s.storeG st d (.idx k x c) 2 (some p.1)

/-- `st.w` (Table 7-7), MODE 0. -/
def execStW (st : Fin 8) (d : Fin 32) (k : Fin 16) (i : Fin 1024) (s : State) : Host.Outcome State Fault Refusal :=
  s.storeG st d (.disp k i) 4 none

/-- `st.w`, MODE 1. -/
def execStWIdx (st : Fin 8) (d : Fin 32) (k : Fin 16) (x : Fin 32) (c : Fin 4) (s : State) : Host.Outcome State Fault Refusal :=
  s.storeG st d (.idx k x c) 4 none

/-- `st.w.rel` (R174): the store buffer performs it after every earlier store. -/
def execStWRel (st : Fin 8) (d : Fin 32) (k : Fin 16) (x : Fin 32) (c : Fin 4) (p : Fin 8) (s : State) : Host.Outcome State Fault Refusal :=
  s.storeG st d (.idx k x c) 4 (some p.1)

/-- `st.d` (Table 7-7), MODE 0. -/
def execStD (st : Fin 8) (d : Fin 32) (k : Fin 16) (i : Fin 1024) (s : State) : Host.Outcome State Fault Refusal :=
  s.storeG st d (.disp k i) 8 none

/-- `st.d`, MODE 1. -/
def execStDIdx (st : Fin 8) (d : Fin 32) (k : Fin 16) (x : Fin 32) (c : Fin 4) (s : State) : Host.Outcome State Fault Refusal :=
  s.storeG st d (.idx k x c) 8 none

/-- `st.d.rel` (R174): the store buffer performs it after every earlier store. -/
def execStDRel (st : Fin 8) (d : Fin 32) (k : Fin 16) (x : Fin 32) (c : Fin 4) (p : Fin 8) (s : State) : Host.Outcome State Fault Refusal :=
  s.storeG st d (.idx k x c) 8 (some p.1)

/-- `ld.x` (R173), MODE 0. -/
def execLdX (st : Fin 8) (d : Fin 32) (k : Fin 16) (i : Fin 1024) (s : State) : Host.Outcome State Fault Refusal :=
  s.loadX st d (.disp k i)

/-- `ld.x`, MODE 1. -/
def execLdXIdx (st : Fin 8) (d : Fin 32) (k : Fin 16) (x : Fin 32) (c : Fin 4) (s : State) : Host.Outcome State Fault Refusal :=
  s.loadX st d (.idx k x c)

/-- `ld.fe` (R175), MODE 0. -/
def execLdFe (st : Fin 8) (d : Fin 32) (k : Fin 16) (i : Fin 1024) (s : State) : Host.Outcome State Fault Refusal :=
  s.loadFe st d (.disp k i)

/-- `ld.fe`, MODE 1. -/
def execLdFeIdx (st : Fin 8) (d : Fin 32) (k : Fin 16) (x : Fin 32) (c : Fin 4) (s : State) : Host.Outcome State Fault Refusal :=
  s.loadFe st d (.idx k x c)

/-- `st.fe` (R175), MODE 0. -/
def execStFe (st : Fin 8) (d : Fin 32) (k : Fin 16) (i : Fin 1024) (s : State) : Host.Outcome State Fault Refusal :=
  s.storeFe st d (.disp k i)

/-- `st.fe`, MODE 1. -/
def execStFeIdx (st : Fin 8) (d : Fin 32) (k : Fin 16) (x : Fin 32) (c : Fin 4) (s : State) : Host.Outcome State Fault Refusal :=
  s.storeFe st d (.idx k x c)

/-- `ld.cap` (R176), MODE 0. -/
def execLdCap (st : Fin 8) (d k : Fin 16) (i : Fin 1024) (s : State) : Host.Outcome State Fault Refusal :=
  s.loadCap st d (.disp k i)

/-- `ld.cap`, MODE 1. -/
def execLdCapIdx (st : Fin 8) (d k : Fin 16) (x : Fin 32) (c : Fin 4) (s : State) : Host.Outcome State Fault Refusal :=
  s.loadCap st d (.idx k x c)

/-- `st.cap` (R176), MODE 0. -/
def execStCap (st : Fin 8) (d k : Fin 16) (i : Fin 1024) (s : State) : Host.Outcome State Fault Refusal :=
  s.storeCap st d (.disp k i)

/-- `st.cap`, MODE 1. -/
def execStCapIdx (st : Fin 8) (d k : Fin 16) (x : Fin 32) (c : Fin 4) (s : State) : Host.Outcome State Fault Refusal :=
  s.storeCap st d (.idx k x c)

/-- `amo.add` (Table 7-8). -/
def execAmoAdd (st : Fin 8) (d a b : Fin 32) (k : Fin 16) (s : State) : Host.Outcome State Fault Refusal :=
  s.amo st d a b k 0

/-- `amo.and` (Table 7-8). -/
def execAmoAnd (st : Fin 8) (d a b : Fin 32) (k : Fin 16) (s : State) : Host.Outcome State Fault Refusal :=
  s.amo st d a b k 1

/-- `amo.or` (Table 7-8). -/
def execAmoOr (st : Fin 8) (d a b : Fin 32) (k : Fin 16) (s : State) : Host.Outcome State Fault Refusal :=
  s.amo st d a b k 2

/-- `amo.xor` (Table 7-8). -/
def execAmoXor (st : Fin 8) (d a b : Fin 32) (k : Fin 16) (s : State) : Host.Outcome State Fault Refusal :=
  s.amo st d a b k 3

/-- `amo.min` (Table 7-8). -/
def execAmoMin (st : Fin 8) (d a b : Fin 32) (k : Fin 16) (s : State) : Host.Outcome State Fault Refusal :=
  s.amo st d a b k 4

/-- `amo.max` (Table 7-8). -/
def execAmoMax (st : Fin 8) (d a b : Fin 32) (k : Fin 16) (s : State) : Host.Outcome State Fault Refusal :=
  s.amo st d a b k 5

/-- `amo.minu` (Table 7-8). -/
def execAmoMinu (st : Fin 8) (d a b : Fin 32) (k : Fin 16) (s : State) : Host.Outcome State Fault Refusal :=
  s.amo st d a b k 6

/-- `amo.maxu` (Table 7-8). -/
def execAmoMaxu (st : Fin 8) (d a b : Fin 32) (k : Fin 16) (s : State) : Host.Outcome State Fault Refusal :=
  s.amo st d a b k 7

/-- `amo.swap` (Table 7-8). -/
def execAmoSwap (st : Fin 8) (d a b : Fin 32) (k : Fin 16) (s : State) : Host.Outcome State Fault Refusal :=
  s.amo st d a b k 8

/-- `amo.cas` (Table 7-8). -/
def execAmoCas (st : Fin 8) (d a b : Fin 32) (k : Fin 16) (s : State) : Host.Outcome State Fault Refusal :=
  s.amo st d a b k 9

/-- `amo.tas` (Table 7-8). -/
def execAmoTas (st : Fin 8) (d a b : Fin 32) (k : Fin 16) (s : State) : Host.Outcome State Fault Refusal :=
  s.amo st d a b k 10

/-- `pf` (R179): the island cache is transparent (R124), so nothing that a program sees changes. -/
def execPf (st : Fin 8) (k : Fin 16) (i : Fin 1024) (s : State) : Host.Outcome State Fault Refusal :=
  s.run st (MemOp.disp k i).regs [] 1 (fun s1 => .regs s1 [])

/-- `pf`, MODE 1. -/
def execPfIdx (st : Fin 8) (k : Fin 16) (x : Fin 32) (c : Fin 4) (s : State) : Host.Outcome State Fault Refusal :=
  s.run st (MemOp.idx k x c).regs [] 1 (fun s1 => .regs s1 [])

/-- `fence` (R129, R180): kinds whose first set holds stores wait until the store buffer is empty; loads are performed when they issue. The
SCOPE code is not looked at: the fence binds every agent, as Table 5-3 allows of any scope (log entry 61). -/
def execFence (st f p : Fin 8) (s : State) : Host.Outcome State Fault Refusal :=
  s.run st [] [] 1 (fun s1 =>
    if f.1 = 1 then .regs s1 []
    else
      let (s2, empty) := s1.drainMine
      if empty then .regs s2 [] else .wait .resource s2)

end Sys2Proof.Machine
end

