-- ==== Sys2Proof/Machine/Mu.lean ====
section
/-! DEFINITION. Instructions of the matrix unit: command stores, `mtbl`, `mrd`, `mwr`, `mseq` (R206, R220 to R223), and the unit's
commands (R207 to R219). -/
namespace Sys2Proof.Machine

/-! Command stores. -/

/-- What offering commands to the queue gives (R206, R223). -/
inductive Offer where
  | ok (s : State)
  | fault (c : Cause)
  | wait (s : State)

/-- Commands checked and accepted in order; on the first failure none is accepted. Two MSIG of one `mseq` that name the same register are both accepted
(DESIGN CHOICE: log entry 106). -/
def State.acceptAll (s : State) (c : Nat) (x : Fin 4) : List (List Dword) → Except Cause State
  | [] => .ok s
  | ws :: r =>
    match (s.core c).mu.check (s.ringOf c) ws with
    | some e => .error e
    | none => (s.muAccept c x ws).acceptAll c x r

/-- The command of a command store, where a word may be one: the low 64 bytes of its v register. -/
def Ctx.storeCommand (x : Ctx) (w : BitVec 32) : Option (List Dword) :=
  let cmd := fun (v : Fin 32) => some (dwordsOf 8 (leBytes 64 (x.rv v).toNat))
  match decodeCore w.toNat with
  | .ok (.stX _ v _ _) => cmd v
  | .ok (.stXIdx _ v _ _ _) => cmd v
  | _ => none

/-- Whether a context of a lower number waits with a command store that is ready too, so that its command goes first (R207). -/
def State.muYields (s : State) (c : Nat) (x : Fin 4) : Bool :=
  (List.finRange 4).any (fun z =>
    let y := s.ctx c z
    decide (z.1 < x.1) && y.since.isSome && !y.stopped && (y.wait == .resource || y.wait == .none) &&
      (y.word.bind y.storeCommand).any (fun ws => !y.msigBlocked ws))

/-- Steps 2 to 5 of R206 for commands of a context, its store buffer drained, in increasing context number (R207). -/
def State.offer (s : State) (c : Nat) (x : Fin 4) (cmds : List (List Dword)) : Offer :=
  if 32 < (s.core c).mu.queue.length + cmds.length ∨ cmds.any (s.ctx c x).msigBlocked ∨ s.muYields c x then .wait s
  else match s.acceptAll c x cmds with
    | .ok s1 => .ok s1
    | .error e => .fault e

/-- Whether an address is a command page of the issuing core (Table 5-2, R206). -/
def State.ownCommandPage (s : State) (pa : Nat) : Bool :=
  match coreWindow? pa with
  | some (c, off) => c == s.cur.1 && decide (0xD000 ≤ off ∧ off < 0xE000)
  | none => false

/-- `st.x` (R173): a command store where it goes to the core's own command page (R206). -/
def State.storeX (s : State) (st : Fin 8) (v : Fin 32) (m : MemOp) : Host.Outcome State Fault Refusal :=
  s.run st (.v v :: m.regs) [] 1 (fun s1 =>
    let va := m.addr s1.my 64
    let bs := leBytes 64 (s1.my.rv v).toNat
    match s1.checked s1.myAccess (m.cap s1.my) va 64 64 permW 1 with
    | .fault s2 c a => .raiseIn s2 c (BitVec.ofNat 64 a)
    | .miss s2 => .wait .miss s2
    | .ok s2 pa _ =>
      if s2.ownCommandPage pa then
        let (s3, empty) := s2.drainMine
        if !empty then .wait .resource s3
        else match s3.offer s3.cur s3.me [dwordsOf 8 bs] with
          | .ok s4 => .regs s4 []
          | .fault c => .raiseIn s3 c 0
          | .wait s4 => .wait .resource s4
      else s2.store (m.cap s1.my) va 64 64 permW false none bs)

/-- `st.x`, MODE 0. -/
def execStX (st : Fin 8) (d : Fin 32) (k : Fin 16) (i : Fin 1024) (s : State) : Host.Outcome State Fault Refusal :=
  s.storeX st d (.disp k i)

/-- `st.x`, MODE 1. -/
def execStXIdx (st : Fin 8) (d : Fin 32) (k : Fin 16) (x : Fin 32) (c : Fin 4) (s : State) : Host.Outcome State Fault Refusal :=
  s.storeX st d (.idx k x c)

/-- MU_COMMAND_ACCEPT (R206, R207): a command that a context offers is placed in the queue; it waits for the store buffer, for room
and for the register of an MSIG, and a command that fails its check faults at its context. -/
def execMuCommandAccept (core : Fin 4096) (ctx : Fin 4) (cmd : List Dword) (s : State) : Host.Outcome State Fault Refusal :=
  let s1 := State.drain core.1 ctx (s.ctx core ctx).stores.length s
  .next (if !(s1.ctx core ctx).stores.isEmpty then s1
    else match s1.offer core ctx [cmd] with
      | .ok s2 => s2
      | .fault c => s1.faultStop core ctx (s1.contextRec core ctx c 0) (.context core ctx)
      | .wait s2 => s2)

/-! Tables and accumulators. -/

/-- The 256 entry words of a table written (R220). -/
def Mu.loadTable (m : Mu) (t : Nat) (bs : List Byte) : Mu :=
  (List.range 256).foldl (fun m c => m.setEntry t c (BitVec.ofNat 20 (leNat ((bs.drop (4 * c)).take 4)))) m

/-- `mtbl` (R220). -/
def State.tableLoad (s : State) (st : Fin 8) (m : MemOp) (t : Fin 4) : Host.Outcome State Fault Refusal :=
  s.run st m.regs [] 1 (fun s1 =>
    let va := m.addr s1.my 1024
    if va % 128 ≠ 0 then .raise .align (BitVec.ofNat 64 va)
    else match s1.readRange (m.cap s1.my) va 1024 with
      | .fault s2 c a => .raiseIn s2 c (BitVec.ofNat 64 a)
      | .miss s2 => .wait .miss s2
      | .ok s2 ps eff =>
        if eff then .raiseIn s2 .perm (BitVec.ofNat 64 va)
        else if !(s2.core s2.cur).mu.queue.isEmpty then .wait .resource s2
        else .regs (s2.setMu s2.cur ((s2.core s2.cur).mu.loadTable t.1 (s2.rangeBytes ps))) [])

/-- `mtbl`, MODE 0. -/
def execMtbl (st : Fin 8) (k : Fin 16) (t : Fin 4) (i : Fin 1024) (s : State) : Host.Outcome State Fault Refusal :=
  s.tableLoad st (.disp k i) t

/-- `mtbl`, MODE 1. -/
def execMtblIdx (st : Fin 8) (k : Fin 16) (x : Fin 32) (c t : Fin 4) (s : State) : Host.Outcome State Fault Refusal :=
  s.tableLoad st (.idx k x c) t

/-- Class code of a table (Table 9-5). -/
def classCode : TblClass → Nat
  | .none => 0
  | .sm => 1
  | .ord => 2

/-- MUSTAT (Table 9-5). -/
def Mu.stat (m : Mu) : Dword :=
  BitVec.ofNat 64 (m.err.toNat * 2 ^ 40 + ((List.range 4).map (fun t => classCode (m.table t).cls * 4 ^ t)).sum * 2 ^ 32
    + m.nextSeq.toNat * 2 ^ 16 + m.ovf.toNat * 2 ^ 8 + m.queue.length)

/-- Tile and element that a register names in `mrd.acc` and `mwr.acc` (R221). -/
def accField (a : Dword) : Nat × Nat := (bitsOf a.toNat 8 3, bitsOf a.toNat 0 8)

/-- `mrd.acc` (R221). -/
def execMrdAcc (st : Fin 8) (d a : Fin 32) (s : State) : Host.Outcome State Fault Refusal :=
  s.run st [.g a] [.g d] 0 (fun s1 =>
    let (t, e) := accField (s1.my.rg a)
    let m := (s1.core s1.cur).mu
    if m.busyTile t then .wait .resource s1 else .vars s1 [.g d (m.el t e)])

/-- `mrd.tbl` (R221). -/
def execMrdTbl (st : Fin 8) (d a : Fin 32) (s : State) : Host.Outcome State Fault Refusal :=
  s.run st [.g a] [.g d] 0 (fun s1 =>
    .vars s1 [.g d ((mapGet 0 (s1.core s1.cur).mu.tbl (bitsOf (s1.my.rg a).toNat 0 10)).setWidth 64)])

/-- `mrd.stat` (R221). -/
def execMrdStat (st : Fin 8) (d : Fin 32) (s : State) : Host.Outcome State Fault Refusal :=
  s.run st [] [.g d] 0 (fun s1 => .vars s1 [.g d (s1.core s1.cur).mu.stat])

/-- `mwr.acc` (R222). -/
def execMwrAcc (st : Fin 8) (a b : Fin 32) (s : State) : Host.Outcome State Fault Refusal :=
  s.run st [.g a, .g b] [] 1 (fun s1 =>
    let (t, e) := accField (s1.my.rg a)
    let m := (s1.core s1.cur).mu
    if m.busyTile t then .wait .resource s1 else .regs (s1.setMu s1.cur (m.setEl t e (s1.my.rg b))) [])

/-- `mwr.tbl` (R222). -/
def execMwrTbl (st : Fin 8) (a b : Fin 32) (s : State) : Host.Outcome State Fault Refusal :=
  s.run st [.g a, .g b] [] 1 (fun s1 =>
    let m := (s1.core s1.cur).mu
    let n := bitsOf (s1.my.rg a).toNat 0 10
    if !m.queue.isEmpty then .wait .resource s1
    else .regs (s1.setMu s1.cur (m.setEntry (n / 256) (n % 256) ((s1.my.rg b).setWidth 20))) [])

/-- `mwr.ovf` (R222). -/
def execMwrOvf (st : Fin 8) (b : Fin 32) (s : State) : Host.Outcome State Fault Refusal :=
  s.run st [.g b] [] 1 (fun s1 =>
    let m := (s1.core s1.cur).mu
    if (List.range 8).any m.busyTile then .wait .resource s1
    else .regs (s1.setMu s1.cur { m with ovf := (s1.my.rg b).setWidth 8 }) [])

/-- Commands of 64 bytes each, at most `n`. -/
def commandsOf : Nat → List Byte → List (List Dword)
  | 0, _ => []
  | n + 1, bs => dwordsOf 8 (bs.take 64) :: commandsOf n (bs.drop 64)

/-- `mseq` (R223). -/
def execMseq (st : Fin 8) (d a b : Fin 32) (k : Fin 16) (s : State) : Host.Outcome State Fault Refusal :=
  s.run st [.k k, .g a, .g b] [.g d] 0 (fun s1 =>
    let x := s1.my
    let n := (x.rg b).toNat
    let va := x.memOff k a
    if n = 0 then .vars s1 [.g d 0]
    else if 32 < n then .raise .mucmd 0
    else if va % 64 ≠ 0 then .raise .align (BitVec.ofNat 64 va)
    else match s1.readRange (x.rk k) va (64 * n) with
      | .fault s2 c v => .raiseIn s2 c (BitVec.ofNat 64 v)
      | .miss s2 => .wait .miss s2
      | .ok s2 ps eff =>
        if eff then .raiseIn s2 .perm (BitVec.ofNat 64 va)
        else
          let (s3, empty) := s2.drainMine
          if !empty then .wait .resource s3
          else match s3.offer s3.cur s3.me (commandsOf n (s3.rangeBytes ps)) with
            | .ok s4 => .vars s4 [.g d (BitVec.ofNat 64 n)]
            | .fault c => .raiseIn s3 c 0
            | .wait s4 => .wait .resource s4)

/-! Commands, as the unit runs them: the head command of the queue of the core whose turn it is. -/

/-- MMA (R211). -/
def execMma (tile : Fin 8) (afmt : Fin 8) (km1 : Fin 4096) (aoff astride : Fin 1048576) (s : State) : Host.Outcome State Fault Refusal :=
  .next (s.muBegin (.mma tile afmt km1 aoff astride))

/-- MMAT (R211). -/
def execMmat (tile : Fin 8) (afmt : Fin 8) (km1 : Fin 4096) (aoff astride : Fin 1048576) (s : State) : Host.Outcome State Fault Refusal :=
  .next (s.muBegin (.mmat tile afmt km1 aoff astride))

/-- MMAS (R212, R213). -/
def execMmas (tile : Fin 8) (afmt : Fin 8) (nm1 : Fin 4096) (voff coff : Fin 1048576) (s : State) : Host.Outcome State Fault Refusal :=
  .next (s.muBegin (.mmas tile afmt nm1 voff coff))

/-- AZERO (R214). -/
def execAzero (tile : Fin 8) (s : State) : Host.Outcome State Fault Refusal := .next (s.muBegin (.azero tile))

/-- ALOAD (R214). -/
def execAload (tile : Fin 8) (sfmt : Fin 8) (off stride : Fin 1048576) (s : State) : Host.Outcome State Fault Refusal :=
  .next (s.muBegin (.aload tile sfmt off stride))

/-- ASTORE (R215). -/
def execAstore (tile : Fin 8) (dfmt : Fin 8) (atype clr full : Bool) (off stride : Fin 1048576) (s : State) :
    Host.Outcome State Fault Refusal :=
  .next (s.muBegin (.astore tile dfmt atype clr full off stride))

/-- BSEL (R216). -/
def execBsel (bfmt : Fin 8) (boff : Fin 131072) (s : State) : Host.Outcome State Fault Refusal := .next (s.muBegin (.bsel bfmt boff))

/-- BFILL (R217). -/
def execBfill (esz : Bool) (km1 : Fin 4096) (soff : Fin 1048576) (doff : Fin 131072) (s : State) : Host.Outcome State Fault Refusal :=
  .next (s.muBegin (.bfill esz km1 soff doff))

/-- TBLSEL (R216). -/
def execTblsel (atbl btbl stbl : Fin 4) (s : State) : Host.Outcome State Fault Refusal := .next (s.muBegin (.tblsel atbl btbl stbl))

/-- MFENCE (R218). -/
def execMfence (s : State) : Host.Outcome State Fault Refusal := .next (s.muBegin .mfence)

/-- MSIG (R219). -/
def execMsig (greg : Fin 32) (s : State) : Host.Outcome State Fault Refusal := .next (s.muBegin (.msig greg))

/-- MU_COMMAND_PERFORMED (R208). -/
def execMuCommandPerformed (core : Fin 4096) (s : State) : Host.Outcome State Fault Refusal := .next (s.muRetire core)

end Sys2Proof.Machine
end

