-- ==== Sys2Proof/Machine/Scalar.lean ====
section
/-! DEFINITION. Scalar integer instructions: majors 0x00 to 0x0C (R159 to R164). -/
namespace Sys2Proof.Machine

/-- `add` (Table 7-2). -/
def execAdd (st : Fin 8) (d a b : Fin 32) (s : State) : Host.Outcome State Fault Refusal :=
  s.alu st d a b (fun x y => x + y)

/-- `sub` (Table 7-2). -/
def execSub (st : Fin 8) (d a b : Fin 32) (s : State) : Host.Outcome State Fault Refusal :=
  s.alu st d a b (fun x y => x - y)

/-- `mul` (Table 7-2), latency 3. -/
def execMul (st : Fin 8) (d a b : Fin 32) (s : State) : Host.Outcome State Fault Refusal :=
  s.gResult st [.g a, .g b] d 3 (fun x => x.rg a * x.rg b)

/-- `mulh` (Table 7-2), latency 3. -/
def execMulh (st : Fin 8) (d a b : Fin 32) (s : State) : Host.Outcome State Fault Refusal :=
  s.gResult st [.g a, .g b] d 3 (fun x => BitVec.ofInt 64 ((x.rg a).toInt * (x.rg b).toInt / 2 ^ 64))

/-- `mulhu` (Table 7-2), latency 3. -/
def execMulhu (st : Fin 8) (d a b : Fin 32) (s : State) : Host.Outcome State Fault Refusal :=
  s.gResult st [.g a, .g b] d 3 (fun x => BitVec.ofNat 64 ((x.rg a).toNat * (x.rg b).toNat / 2 ^ 64))

/-- `div` (R161). -/
def execDiv (st : Fin 8) (d a b : Fin 32) (s : State) : Host.Outcome State Fault Refusal :=
  s.division st d a b (fun x y => if y = 0 then -1 else BitVec.ofInt 64 (Int.tdiv x.toInt y.toInt))

/-- `divu` (R161). -/
def execDivu (st : Fin 8) (d a b : Fin 32) (s : State) : Host.Outcome State Fault Refusal :=
  s.division st d a b (fun x y => if y = 0 then -1 else BitVec.ofNat 64 (x.toNat / y.toNat))

/-- `rem` (R161). -/
def execRem (st : Fin 8) (d a b : Fin 32) (s : State) : Host.Outcome State Fault Refusal :=
  s.division st d a b (fun x y => if y = 0 then x else BitVec.ofInt 64 (x.toInt - y.toInt * Int.tdiv x.toInt y.toInt))

/-- `remu` (R161). -/
def execRemu (st : Fin 8) (d a b : Fin 32) (s : State) : Host.Outcome State Fault Refusal :=
  s.division st d a b (fun x y => if y = 0 then x else BitVec.ofNat 64 (x.toNat % y.toNat))

/-- `and` (Table 7-2). -/
def execAnd (st : Fin 8) (d a b : Fin 32) (s : State) : Host.Outcome State Fault Refusal :=
  s.alu st d a b (fun x y => x &&& y)

/-- `or` (Table 7-2). -/
def execOr (st : Fin 8) (d a b : Fin 32) (s : State) : Host.Outcome State Fault Refusal :=
  s.alu st d a b (fun x y => x ||| y)

/-- `xor` (Table 7-2). -/
def execXor (st : Fin 8) (d a b : Fin 32) (s : State) : Host.Outcome State Fault Refusal :=
  s.alu st d a b (fun x y => x ^^^ y)

/-- `andn` (Table 7-2). -/
def execAndn (st : Fin 8) (d a b : Fin 32) (s : State) : Host.Outcome State Fault Refusal :=
  s.alu st d a b (fun x y => x &&& ~~~y)

/-- `shl` (Table 7-2). -/
def execShl (st : Fin 8) (d a b : Fin 32) (s : State) : Host.Outcome State Fault Refusal :=
  s.alu st d a b (fun x y => x <<< (y.toNat % 64))

/-- `shr` (Table 7-2). -/
def execShr (st : Fin 8) (d a b : Fin 32) (s : State) : Host.Outcome State Fault Refusal :=
  s.alu st d a b (fun x y => x >>> (y.toNat % 64))

/-- `sra` (Table 7-2). -/
def execSra (st : Fin 8) (d a b : Fin 32) (s : State) : Host.Outcome State Fault Refusal :=
  s.alu st d a b (fun x y => x.sshiftRight (y.toNat % 64))

/-- `rol` (Table 7-2). -/
def execRol (st : Fin 8) (d a b : Fin 32) (s : State) : Host.Outcome State Fault Refusal :=
  s.alu st d a b (fun x y => x.rotateLeft (y.toNat % 64))

/-- `slt` (Table 7-2). -/
def execSlt (st : Fin 8) (d a b : Fin 32) (s : State) : Host.Outcome State Fault Refusal :=
  s.alu st d a b (fun x y => dbit (decide (x.toInt < y.toInt)))

/-- `sltu` (Table 7-2). -/
def execSltu (st : Fin 8) (d a b : Fin 32) (s : State) : Host.Outcome State Fault Refusal :=
  s.alu st d a b (fun x y => dbit (decide (x < y)))

/-- `min` (Table 7-2). -/
def execMin (st : Fin 8) (d a b : Fin 32) (s : State) : Host.Outcome State Fault Refusal :=
  s.alu st d a b (fun x y => if x.toInt < y.toInt then x else y)

/-- `max` (Table 7-2). -/
def execMax (st : Fin 8) (d a b : Fin 32) (s : State) : Host.Outcome State Fault Refusal :=
  s.alu st d a b (fun x y => if x.toInt < y.toInt then y else x)

/-- `minu` (Table 7-2). -/
def execMinu (st : Fin 8) (d a b : Fin 32) (s : State) : Host.Outcome State Fault Refusal :=
  s.alu st d a b (fun x y => if x < y then x else y)

/-- `maxu` (Table 7-2). -/
def execMaxu (st : Fin 8) (d a b : Fin 32) (s : State) : Host.Outcome State Fault Refusal :=
  s.alu st d a b (fun x y => if x < y then y else x)

/-- `clz` (Table 7-2). -/
def execClz (st : Fin 8) (d a : Fin 32) (s : State) : Host.Outcome State Fault Refusal :=
  s.aluImm st d a (fun x => BitVec.ofNat 64 (clzN 64 x.toNat))

/-- `ctz` (Table 7-2). -/
def execCtz (st : Fin 8) (d a : Fin 32) (s : State) : Host.Outcome State Fault Refusal :=
  s.aluImm st d a (fun x => BitVec.ofNat 64 (ctzN 64 x.toNat))

/-- `popc` (Table 7-2). -/
def execPopc (st : Fin 8) (d a : Fin 32) (s : State) : Host.Outcome State Fault Refusal :=
  s.aluImm st d a (fun x => BitVec.ofNat 64 (popcN 64 x.toNat))

/-- `bswap` (Table 7-2). -/
def execBswap (st : Fin 8) (d a : Fin 32) (s : State) : Host.Outcome State Fault Refusal :=
  s.aluImm st d a (fun x => BitVec.ofNat 64 (leNat (dwordBytes x).reverse))

/-- `sel` (Table 7-2): reads its destination (R160). -/
def execSel (st : Fin 8) (d a b : Fin 32) (s : State) : Host.Outcome State Fault Refusal :=
  s.gResult st [.g a, .g b, .g d] d 1 (fun x => if x.rg d ≠ 0 then x.rg a else x.rg b)

/-- `sext` (R160): the width code is 0, 1 or 2 for 8, 16 or 32 bits. -/
def execSext (st : Fin 8) (d a w : Fin 32) (s : State) : Host.Outcome State Fault Refusal :=
  s.aluImm st d a (fun x => sextTo64 (8 * 2 ^ w.1) x.toNat)

/-- `zext` (R160). -/
def execZext (st : Fin 8) (d a w : Fin 32) (s : State) : Host.Outcome State Fault Refusal :=
  s.aluImm st d a (fun x => BitVec.ofNat 64 (x.toNat % 2 ^ (8 * 2 ^ w.1)))

/-- `addi` (Table 7-3). -/
def execAddi (st : Fin 8) (d a : Fin 32) (i : Fin 8192) (s : State) : Host.Outcome State Fault Refusal :=
  s.aluImm st d a (fun x => x + imm13 i)

/-- `andi` (Table 7-3). -/
def execAndi (st : Fin 8) (d a : Fin 32) (i : Fin 8192) (s : State) : Host.Outcome State Fault Refusal :=
  s.aluImm st d a (fun x => x &&& imm13 i)

/-- `ori` (Table 7-3). -/
def execOri (st : Fin 8) (d a : Fin 32) (i : Fin 8192) (s : State) : Host.Outcome State Fault Refusal :=
  s.aluImm st d a (fun x => x ||| imm13 i)

/-- `xori` (Table 7-3). -/
def execXori (st : Fin 8) (d a : Fin 32) (i : Fin 8192) (s : State) : Host.Outcome State Fault Refusal :=
  s.aluImm st d a (fun x => x ^^^ imm13 i)

/-- `slti` (Table 7-3). -/
def execSlti (st : Fin 8) (d a : Fin 32) (i : Fin 8192) (s : State) : Host.Outcome State Fault Refusal :=
  s.aluImm st d a (fun x => dbit (decide (x.toInt < (imm13 i).toInt)))

/-- `sltui` (Table 7-3). -/
def execSltui (st : Fin 8) (d a : Fin 32) (i : Fin 8192) (s : State) : Host.Outcome State Fault Refusal :=
  s.aluImm st d a (fun x => dbit (decide (x < imm13 i)))

/-- `shli` (Table 7-3). -/
def execShli (st : Fin 8) (d a : Fin 32) (h : Fin 64) (s : State) : Host.Outcome State Fault Refusal :=
  s.aluImm st d a (fun x => x <<< h.1)

/-- `shri` (Table 7-3). -/
def execShri (st : Fin 8) (d a : Fin 32) (h : Fin 64) (s : State) : Host.Outcome State Fault Refusal :=
  s.aluImm st d a (fun x => x >>> h.1)

/-- `srai` (Table 7-3). -/
def execSrai (st : Fin 8) (d a : Fin 32) (h : Fin 64) (s : State) : Host.Outcome State Fault Refusal :=
  s.aluImm st d a (fun x => x.sshiftRight h.1)

/-- `lui` (R163). -/
def execLui (st : Fin 8) (d : Fin 32) (i : Fin 262144) (s : State) : Host.Outcome State Fault Refusal :=
  s.gResult st [] d 1 (fun _ => sextTo64 18 i.1 <<< 13)

/-- `addpc` (R163). -/
def execAddpc (st : Fin 8) (d : Fin 32) (i : Fin 262144) (s : State) : Host.Outcome State Fault Refusal :=
  s.gResult st [] d 1 (fun x => x.pc.setWidth 64 + (sextTo64 18 i.1 <<< 13))

/-- `bext` (R164); the field `l` holds LEN − 1. -/
def execBext (st : Fin 8) (d a : Fin 32) (p l : Fin 64) (s : State) : Host.Outcome State Fault Refusal :=
  s.aluImm st d a (fun x => BitVec.ofNat 64 (bitsOf x.toNat p.1 (l.1 + 1)))

/-- `bins` (R164): reads its destination. -/
def execBins (st : Fin 8) (d a : Fin 32) (p l : Fin 64) (s : State) : Host.Outcome State Fault Refusal :=
  s.gResult st [.g a, .g d] d 1 (fun x => BitVec.ofNat 64 (putBits (x.rg d).toNat p.1 (l.1 + 1) (x.rg a).toNat))

end Sys2Proof.Machine
end

