-- ==== Sys2Proof/Machine/Dispatch.lean ====
section
/-! DEFINITION. The meaning of every instruction and step: one arm per constructor of Instr. -/
namespace Sys2Proof.Machine

/-- What an instruction does. -/
def exec (i : Instr) (s : State) : Host.Outcome State Fault Refusal :=
  match i with
  | .ill st d a b => Sys2Proof.Machine.execIll st d a b s
  | .add st d a b => Sys2Proof.Machine.execAdd st d a b s
  | .sub st d a b => Sys2Proof.Machine.execSub st d a b s
  | .mul st d a b => Sys2Proof.Machine.execMul st d a b s
  | .mulh st d a b => Sys2Proof.Machine.execMulh st d a b s
  | .mulhu st d a b => Sys2Proof.Machine.execMulhu st d a b s
  | .div st d a b => Sys2Proof.Machine.execDiv st d a b s
  | .divu st d a b => Sys2Proof.Machine.execDivu st d a b s
  | .rem st d a b => Sys2Proof.Machine.execRem st d a b s
  | .remu st d a b => Sys2Proof.Machine.execRemu st d a b s
  | .and st d a b => Sys2Proof.Machine.execAnd st d a b s
  | .or st d a b => Sys2Proof.Machine.execOr st d a b s
  | .xor st d a b => Sys2Proof.Machine.execXor st d a b s
  | .andn st d a b => Sys2Proof.Machine.execAndn st d a b s
  | .shl st d a b => Sys2Proof.Machine.execShl st d a b s
  | .shr st d a b => Sys2Proof.Machine.execShr st d a b s
  | .sra st d a b => Sys2Proof.Machine.execSra st d a b s
  | .rol st d a b => Sys2Proof.Machine.execRol st d a b s
  | .slt st d a b => Sys2Proof.Machine.execSlt st d a b s
  | .sltu st d a b => Sys2Proof.Machine.execSltu st d a b s
  | .min st d a b => Sys2Proof.Machine.execMin st d a b s
  | .max st d a b => Sys2Proof.Machine.execMax st d a b s
  | .minu st d a b => Sys2Proof.Machine.execMinu st d a b s
  | .maxu st d a b => Sys2Proof.Machine.execMaxu st d a b s
  | .clz st d a => Sys2Proof.Machine.execClz st d a s
  | .ctz st d a => Sys2Proof.Machine.execCtz st d a s
  | .popc st d a => Sys2Proof.Machine.execPopc st d a s
  | .bswap st d a => Sys2Proof.Machine.execBswap st d a s
  | .sel st d a b => Sys2Proof.Machine.execSel st d a b s
  | .sext st d a w => Sys2Proof.Machine.execSext st d a w s
  | .zext st d a w => Sys2Proof.Machine.execZext st d a w s
  | .addi st d a im => Sys2Proof.Machine.execAddi st d a im s
  | .andi st d a im => Sys2Proof.Machine.execAndi st d a im s
  | .ori st d a im => Sys2Proof.Machine.execOri st d a im s
  | .xori st d a im => Sys2Proof.Machine.execXori st d a im s
  | .shli st d a h => Sys2Proof.Machine.execShli st d a h s
  | .shri st d a h => Sys2Proof.Machine.execShri st d a h s
  | .srai st d a h => Sys2Proof.Machine.execSrai st d a h s
  | .slti st d a im => Sys2Proof.Machine.execSlti st d a im s
  | .sltui st d a im => Sys2Proof.Machine.execSltui st d a im s
  | .lui st d im => Sys2Proof.Machine.execLui st d im s
  | .addpc st d im => Sys2Proof.Machine.execAddpc st d im s
  | .bext st d a p l => Sys2Proof.Machine.execBext st d a p l s
  | .bins st d a p l => Sys2Proof.Machine.execBins st d a p l s
  | .beq st a b o => Sys2Proof.Machine.execBeq st a b o s
  | .bne st a b o => Sys2Proof.Machine.execBne st a b o s
  | .blt st a b o => Sys2Proof.Machine.execBlt st a b o s
  | .bge st a b o => Sys2Proof.Machine.execBge st a b o s
  | .bltu st a b o => Sys2Proof.Machine.execBltu st a b o s
  | .bgeu st a b o => Sys2Proof.Machine.execBgeu st a b o s
  | .jal st o => Sys2Proof.Machine.execJal st o s
  | .jalr st d a im => Sys2Proof.Machine.execJalr st d a im s
  | .capBnd st d a b => Sys2Proof.Machine.execCapBnd st d a b s
  | .capPrm st d a b => Sys2Proof.Machine.execCapPrm st d a b s
  | .capSet st d a b => Sys2Proof.Machine.execCapSet st d a b s
  | .capAdd st d a b => Sys2Proof.Machine.execCapAdd st d a b s
  | .capGet st d a c => Sys2Proof.Machine.execCapGet st d a c s
  | .capAddImm st d a im => Sys2Proof.Machine.execCapAddImm st d a im s
  | .ldB st d k im => Sys2Proof.Machine.execLdB st d k im s
  | .ldBIdx st d k x c => Sys2Proof.Machine.execLdBIdx st d k x c s
  | .ldBu st d k im => Sys2Proof.Machine.execLdBu st d k im s
  | .ldBuIdx st d k x c => Sys2Proof.Machine.execLdBuIdx st d k x c s
  | .ldH st d k im => Sys2Proof.Machine.execLdH st d k im s
  | .ldHIdx st d k x c => Sys2Proof.Machine.execLdHIdx st d k x c s
  | .ldHu st d k im => Sys2Proof.Machine.execLdHu st d k im s
  | .ldHuIdx st d k x c => Sys2Proof.Machine.execLdHuIdx st d k x c s
  | .ldW st d k im => Sys2Proof.Machine.execLdW st d k im s
  | .ldWIdx st d k x c => Sys2Proof.Machine.execLdWIdx st d k x c s
  | .ldWu st d k im => Sys2Proof.Machine.execLdWu st d k im s
  | .ldWuIdx st d k x c => Sys2Proof.Machine.execLdWuIdx st d k x c s
  | .ldD st d k im => Sys2Proof.Machine.execLdD st d k im s
  | .ldDIdx st d k x c => Sys2Proof.Machine.execLdDIdx st d k x c s
  | .ldX st d k im => Sys2Proof.Machine.execLdX st d k im s
  | .ldXIdx st d k x c => Sys2Proof.Machine.execLdXIdx st d k x c s
  | .stB st d k im => Sys2Proof.Machine.execStB st d k im s
  | .stBIdx st d k x c => Sys2Proof.Machine.execStBIdx st d k x c s
  | .stH st d k im => Sys2Proof.Machine.execStH st d k im s
  | .stHIdx st d k x c => Sys2Proof.Machine.execStHIdx st d k x c s
  | .stW st d k im => Sys2Proof.Machine.execStW st d k im s
  | .stWIdx st d k x c => Sys2Proof.Machine.execStWIdx st d k x c s
  | .stD st d k im => Sys2Proof.Machine.execStD st d k im s
  | .stDIdx st d k x c => Sys2Proof.Machine.execStDIdx st d k x c s
  | .stX st d k im => Sys2Proof.Machine.execStX st d k im s
  | .stXIdx st d k x c => Sys2Proof.Machine.execStXIdx st d k x c s
  | .ldBAcq st d k x c p => Sys2Proof.Machine.execLdBAcq st d k x c p s
  | .ldBuAcq st d k x c p => Sys2Proof.Machine.execLdBuAcq st d k x c p s
  | .ldHAcq st d k x c p => Sys2Proof.Machine.execLdHAcq st d k x c p s
  | .ldHuAcq st d k x c p => Sys2Proof.Machine.execLdHuAcq st d k x c p s
  | .ldWAcq st d k x c p => Sys2Proof.Machine.execLdWAcq st d k x c p s
  | .ldWuAcq st d k x c p => Sys2Proof.Machine.execLdWuAcq st d k x c p s
  | .ldDAcq st d k x c p => Sys2Proof.Machine.execLdDAcq st d k x c p s
  | .stBRel st d k x c p => Sys2Proof.Machine.execStBRel st d k x c p s
  | .stHRel st d k x c p => Sys2Proof.Machine.execStHRel st d k x c p s
  | .stWRel st d k x c p => Sys2Proof.Machine.execStWRel st d k x c p s
  | .stDRel st d k x c p => Sys2Proof.Machine.execStDRel st d k x c p s
  | .ldFe st d k im => Sys2Proof.Machine.execLdFe st d k im s
  | .ldFeIdx st d k x c => Sys2Proof.Machine.execLdFeIdx st d k x c s
  | .stFe st d k im => Sys2Proof.Machine.execStFe st d k im s
  | .stFeIdx st d k x c => Sys2Proof.Machine.execStFeIdx st d k x c s
  | .ldCap st d k im => Sys2Proof.Machine.execLdCap st d k im s
  | .ldCapIdx st d k x c => Sys2Proof.Machine.execLdCapIdx st d k x c s
  | .stCap st d k im => Sys2Proof.Machine.execStCap st d k im s
  | .stCapIdx st d k x c => Sys2Proof.Machine.execStCapIdx st d k x c s
  | .amoAdd st d a b k => Sys2Proof.Machine.execAmoAdd st d a b k s
  | .amoAnd st d a b k => Sys2Proof.Machine.execAmoAnd st d a b k s
  | .amoOr st d a b k => Sys2Proof.Machine.execAmoOr st d a b k s
  | .amoXor st d a b k => Sys2Proof.Machine.execAmoXor st d a b k s
  | .amoMin st d a b k => Sys2Proof.Machine.execAmoMin st d a b k s
  | .amoMax st d a b k => Sys2Proof.Machine.execAmoMax st d a b k s
  | .amoMinu st d a b k => Sys2Proof.Machine.execAmoMinu st d a b k s
  | .amoMaxu st d a b k => Sys2Proof.Machine.execAmoMaxu st d a b k s
  | .amoSwap st d a b k => Sys2Proof.Machine.execAmoSwap st d a b k s
  | .amoCas st d a b k => Sys2Proof.Machine.execAmoCas st d a b k s
  | .amoTas st d a b k => Sys2Proof.Machine.execAmoTas st d a b k s
  | .pf st k im => Sys2Proof.Machine.execPf st k im s
  | .pfIdx st k x c => Sys2Proof.Machine.execPfIdx st k x c s
  | .fence st f p => Sys2Proof.Machine.execFence st f p s
  | .vadd st d a b w m => Sys2Proof.Machine.execVadd st d a b w m s
  | .vsub st d a b w m => Sys2Proof.Machine.execVsub st d a b w m s
  | .vmul st d a b w m => Sys2Proof.Machine.execVmul st d a b w m s
  | .vmulh st d a b w m => Sys2Proof.Machine.execVmulh st d a b w m s
  | .vadds st d a b w m => Sys2Proof.Machine.execVadds st d a b w m s
  | .vsubs st d a b w m => Sys2Proof.Machine.execVsubs st d a b w m s
  | .vmin st d a b w m => Sys2Proof.Machine.execVmin st d a b w m s
  | .vmax st d a b w m => Sys2Proof.Machine.execVmax st d a b w m s
  | .vminu st d a b w m => Sys2Proof.Machine.execVminu st d a b w m s
  | .vmaxu st d a b w m => Sys2Proof.Machine.execVmaxu st d a b w m s
  | .vabs st d a w m => Sys2Proof.Machine.execVabs st d a w m s
  | .vand st d a b w m => Sys2Proof.Machine.execVand st d a b w m s
  | .vor st d a b w m => Sys2Proof.Machine.execVor st d a b w m s
  | .vxor st d a b w m => Sys2Proof.Machine.execVxor st d a b w m s
  | .vshl st d a b w m => Sys2Proof.Machine.execVshl st d a b w m s
  | .vshr st d a b w m => Sys2Proof.Machine.execVshr st d a b w m s
  | .vsra st d a b w m => Sys2Proof.Machine.execVsra st d a b w m s
  | .vclz st d a w m => Sys2Proof.Machine.execVclz st d a w m s
  | .vpopc st d a w m => Sys2Proof.Machine.execVpopc st d a w m s
  | .vcmp st c m a b w k => Sys2Proof.Machine.execVcmp st c m a b w k s
  | .vcmpUnsigned st c m a b w k => Sys2Proof.Machine.execVcmpUnsigned st c m a b w k s
  | .vsel st d a b w m => Sys2Proof.Machine.execVsel st d a b w m s
  | .vfadd st d a b w m => Sys2Proof.Machine.execVfadd st d a b w m s
  | .vfsub st d a b w m => Sys2Proof.Machine.execVfsub st d a b w m s
  | .vfmul st d a b w m => Sys2Proof.Machine.execVfmul st d a b w m s
  | .vfma st d a b w m => Sys2Proof.Machine.execVfma st d a b w m s
  | .vfms st d a b w m => Sys2Proof.Machine.execVfms st d a b w m s
  | .vfmin st d a b w m => Sys2Proof.Machine.execVfmin st d a b w m s
  | .vfmax st d a b w m => Sys2Proof.Machine.execVfmax st d a b w m s
  | .vfcmp st c m a b w k => Sys2Proof.Machine.execVfcmp st c m a b w k s
  | .vfabs st d a w m => Sys2Proof.Machine.execVfabs st d a w m s
  | .vfneg st d a w m => Sys2Proof.Machine.execVfneg st d a w m s
  | .vfrcpe st d a w m => Sys2Proof.Machine.execVfrcpe st d a w m s
  | .vfrsqe st d a w m => Sys2Proof.Machine.execVfrsqe st d a w m s
  | .vcvt st d a t f p => Sys2Proof.Machine.execVcvt st d a t f p s
  | .vdec st d a t f p m => Sys2Proof.Machine.execVdec st d a t f p m s
  | .venc st d a t f p m => Sys2Proof.Machine.execVenc st d a t f p m s
  | .vbaq st d a b t => Sys2Proof.Machine.execVbaq st d a b t s
  | .vbfly st d a b w g => Sys2Proof.Machine.execVbfly st d a b w g s
  | .vld st d k im => Sys2Proof.Machine.execVld st d k im s
  | .vldIdx st d k x c m => Sys2Proof.Machine.execVldIdx st d k x c m s
  | .vst st d k im => Sys2Proof.Machine.execVst st d k im s
  | .vstIdx st d k x c m => Sys2Proof.Machine.execVstIdx st d k x c m s
  | .vlds st d k x w m => Sys2Proof.Machine.execVlds st d k x w m s
  | .vsts st d k x w m => Sys2Proof.Machine.execVsts st d k x w m s
  | .vgath st d k x w m => Sys2Proof.Machine.execVgath st d k x w m s
  | .vscat st d k x w m => Sys2Proof.Machine.execVscat st d k x w m s
  | .vbcast st d a w m => Sys2Proof.Machine.execVbcast st d a w m s
  | .vperm st d a b w m => Sys2Proof.Machine.execVperm st d a b w m s
  | .vslide st d a b w m => Sys2Proof.Machine.execVslide st d a b w m s
  | .vcomp st d a w m => Sys2Proof.Machine.execVcomp st d a w m s
  | .vexpd st d a w m => Sys2Proof.Machine.execVexpd st d a w m s
  | .vred st d a o w m => Sys2Proof.Machine.execVred st d a o w m s
  | .vmrg st d a b w g => Sys2Proof.Machine.execVmrg st d a b w g s
  | .vmrgp st d a b w g => Sys2Proof.Machine.execVmrgp st d a b w g s
  | .vsrt st d a w v g => Sys2Proof.Machine.execVsrt st d a w v g s
  | .mand st d a b => Sys2Proof.Machine.execMand st d a b s
  | .mor st d a b => Sys2Proof.Machine.execMor st d a b s
  | .mxor st d a b => Sys2Proof.Machine.execMxor st d a b s
  | .mnot st d a => Sys2Proof.Machine.execMnot st d a s
  | .mpop st d a w => Sys2Proof.Machine.execMpop st d a w s
  | .mfirst st d a w => Sys2Proof.Machine.execMfirst st d a w s
  | .vrep st b a l n t => Sys2Proof.Machine.execVrep st b a l n t s
  | .mtbl st k t im => Sys2Proof.Machine.execMtbl st k t im s
  | .mtblIdx st k x c t => Sys2Proof.Machine.execMtblIdx st k x c t s
  | .mrdAcc st d a => Sys2Proof.Machine.execMrdAcc st d a s
  | .mrdTbl st d a => Sys2Proof.Machine.execMrdTbl st d a s
  | .mrdStat st d => Sys2Proof.Machine.execMrdStat st d s
  | .mwrAcc st a b => Sys2Proof.Machine.execMwrAcc st a b s
  | .mwrTbl st a b => Sys2Proof.Machine.execMwrTbl st a b s
  | .mwrOvf st b => Sys2Proof.Machine.execMwrOvf st b s
  | .mseq st d a b k => Sys2Proof.Machine.execMseq st d a b k s
  | .qpop st d q v t => Sys2Proof.Machine.execQpop st d q v t s
  | .qtry st d q t => Sys2Proof.Machine.execQtry st d q t s
  | .qpeek st d q t => Sys2Proof.Machine.execQpeek st d q t s
  | .qgetC st d q t => Sys2Proof.Machine.execQgetC st d q t s
  | .qgetP st d q t => Sys2Proof.Machine.execQgetP st d q t s
  | .qdoneC st q => Sys2Proof.Machine.execQdoneC st q s
  | .qdoneP st q => Sys2Proof.Machine.execQdoneP st q s
  | .qpush st d q v t => Sys2Proof.Machine.execQpush st d q v t s
  | .qpushu st d q v t => Sys2Proof.Machine.execQpushu st d q v t s
  | .qmark st g q a => Sys2Proof.Machine.execQmark st g q a s
  | .qmarkA st g a => Sys2Proof.Machine.execQmarkA st g a s
  | .qstat st d q => Sys2Proof.Machine.execQstat st d q s
  | .qwin st d q g => Sys2Proof.Machine.execQwin st d q g s
  | .qfence st v q n => Sys2Proof.Machine.execQfence st v q n s
  | .qfenceSig st v q k => Sys2Proof.Machine.execQfenceSig st v q k s
  | .msend st t l k => Sys2Proof.Machine.execMsend st t l k s
  | .mhret st => Sys2Proof.Machine.execMhret st s
  | .tinit st d a b k => Sys2Proof.Machine.execTinit st d a b k s
  | .tdec st a => Sys2Proof.Machine.execTdec st a s
  | .tspawn st a b k => Sys2Proof.Machine.execTspawn st a b k s
  | .tend st => Sys2Proof.Machine.execTend st s
  | .barArr st d a k => Sys2Proof.Machine.execBarArr st d a k s
  | .barWt st d a b k => Sys2Proof.Machine.execBarWt st d a b k s
  | .sigSet st d a b k => Sys2Proof.Machine.execSigSet st d a b k s
  | .sigAdd st d a b k => Sys2Proof.Machine.execSigAdd st d a b k s
  | .sigWt st d a b k => Sys2Proof.Machine.execSigWt st d a b k s
  | .cp st d k v => Sys2Proof.Machine.execCp st d k v s
  | .cpg st d k v => Sys2Proof.Machine.execCpg st d k v s
  | .cps st d k v => Sys2Proof.Machine.execCps st d k v s
  | .lay st d k v => Sys2Proof.Machine.execLay st d k v s
  | .dcmp st d k v => Sys2Proof.Machine.execDcmp st d k v s
  | .engSt st d e j => Sys2Proof.Machine.execEngSt st d e j s
  | .fabCall st d k v => Sys2Proof.Machine.execFabCall st d k v s
  | .fabWait st d a => Sys2Proof.Machine.execFabWait st d a s
  | .grLoad st d k v => Sys2Proof.Machine.execGrLoad st d k v s
  | .trap st n => Sys2Proof.Machine.execTrap st n s
  | .tret st a b => Sys2Proof.Machine.execTret st a b s
  | .ckpt st => Sys2Proof.Machine.execCkpt st s
  | .halt st a => Sys2Proof.Machine.execHalt st a s
  | .frz st a => Sys2Proof.Machine.execFrz st a s
  | .scanrd st d a b => Sys2Proof.Machine.execScanrd st d a b s
  | .graft st d a b => Sys2Proof.Machine.execGraft st d a b s
  | .prune st d a b => Sys2Proof.Machine.execPrune st d a b s
  | .tlbInv st a b => Sys2Proof.Machine.execTlbInv st a b s
  | .capMint st d a b => Sys2Proof.Machine.execCapMint st d a b s
  | .sget st d im h => Sys2Proof.Machine.execSget st d im h s
  | .sset st g im h => Sys2Proof.Machine.execSset st g im h s
  | .feAdd d a b c im => Sys2Proof.Machine.execFeAdd d a b c im s
  | .feSub d a b c im => Sys2Proof.Machine.execFeSub d a b c im s
  | .feAnd d a b c im => Sys2Proof.Machine.execFeAnd d a b c im s
  | .feOr d a b c im => Sys2Proof.Machine.execFeOr d a b c im s
  | .feXor d a b c im => Sys2Proof.Machine.execFeXor d a b c im s
  | .feShl d a b c im => Sys2Proof.Machine.execFeShl d a b c im s
  | .feShr d a b c im => Sys2Proof.Machine.execFeShr d a b c im s
  | .feSra d a b c im => Sys2Proof.Machine.execFeSra d a b c im s
  | .feMul d a b c v im => Sys2Proof.Machine.execFeMul d a b c v im s
  | .feMin d a b c v im => Sys2Proof.Machine.execFeMin d a b c v im s
  | .feMax d a b c v im => Sys2Proof.Machine.execFeMax d a b c v im s
  | .feCmp d a b c v im => Sys2Proof.Machine.execFeCmp d a b c v im s
  | .feSel d a b im => Sys2Proof.Machine.execFeSel d a b im s
  | .feFadd d a b c v im => Sys2Proof.Machine.execFeFadd d a b c v im s
  | .feFmul d a b c im => Sys2Proof.Machine.execFeFmul d a b c im s
  | .feFma d a b c v im => Sys2Proof.Machine.execFeFma d a b c v im s
  | .feCvt d a b c v im => Sys2Proof.Machine.execFeCvt d a b c v im s
  | .feSteer d a b im => Sys2Proof.Machine.execFeSteer d a b im s
  | .feOmrg d a b im => Sys2Proof.Machine.execFeOmrg d a b im s
  | .feUmrg d a b c im => Sys2Proof.Machine.execFeUmrg d a b c im s
  | .feKmrg d a b c v im => Sys2Proof.Machine.execFeKmrg d a b c v im s
  | .feCarry d a b v im => Sys2Proof.Machine.execFeCarry d a b v im s
  | .feInv d a b im => Sys2Proof.Machine.execFeInv d a b im s
  | .fePermit d a b c im => Sys2Proof.Machine.execFePermit d a b c im s
  | .feGen d a b c v im => Sys2Proof.Machine.execFeGen d a b c v im s
  | .feLd d a b c v im => Sys2Proof.Machine.execFeLd d a b c v im s
  | .feSt d a b c v im => Sys2Proof.Machine.execFeSt d a b c v im s
  | .feTas d a b c im => Sys2Proof.Machine.execFeTas d a b c im s
  | .feOrdt d a b c im => Sys2Proof.Machine.execFeOrdt d a b c im s
  | .feIsect d a b c v im => Sys2Proof.Machine.execFeIsect d a b c v im s
  | .feCnt d a b c im => Sys2Proof.Machine.execFeCnt d a b c im s
  | .feXfer d a b c im => Sys2Proof.Machine.execFeXfer d a b c im s
  | .feSink d a b c v im => Sys2Proof.Machine.execFeSink d a b c v im s
  | .feNop d a b c im => Sys2Proof.Machine.execFeNop d a b c im s
  | .repetitionIssue core => Sys2Proof.Machine.execRepetitionIssue core s
  | .muCommandAccept core ctx cmd => Sys2Proof.Machine.execMuCommandAccept core ctx cmd s
  | .mma tile afmt km1 aoff astride => Sys2Proof.Machine.execMma tile afmt km1 aoff astride s
  | .mmat tile afmt km1 aoff astride => Sys2Proof.Machine.execMmat tile afmt km1 aoff astride s
  | .mmas tile afmt nm1 voff coff => Sys2Proof.Machine.execMmas tile afmt nm1 voff coff s
  | .azero tile => Sys2Proof.Machine.execAzero tile s
  | .aload tile sfmt off stride => Sys2Proof.Machine.execAload tile sfmt off stride s
  | .astore tile dfmt atype clr full off stride => Sys2Proof.Machine.execAstore tile dfmt atype clr full off stride s
  | .bsel bfmt boff => Sys2Proof.Machine.execBsel bfmt boff s
  | .bfill esz km1 soff doff => Sys2Proof.Machine.execBfill esz km1 soff doff s
  | .tblsel atbl btbl stbl => Sys2Proof.Machine.execTblsel atbl btbl stbl s
  | .mfence => Sys2Proof.Machine.execMfence s
  | .msig greg => Sys2Proof.Machine.execMsig greg s
  | .muCommandPerformed core => Sys2Proof.Machine.execMuCommandPerformed core s
  | .itemAccept q port => Sys2Proof.Machine.execItemAccept q port s
  | .acknowledgementArrival q port => Sys2Proof.Machine.execAcknowledgementArrival q port s
  | .waitEntryHolds q cons => Sys2Proof.Machine.execWaitEntryHolds q cons s
  | .outboxSend core => Sys2Proof.Machine.execOutboxSend core s
  | .activeMessageArrival core => Sys2Proof.Machine.execActiveMessageArrival core s
  | .handlerStart core => Sys2Proof.Machine.execHandlerStart core s
  | .messagePartTimeout core => Sys2Proof.Machine.execMessagePartTimeout core s
  | .barrierTimeout core ctx => Sys2Proof.Machine.execBarrierTimeout core ctx s
  | .hostSignalPoll core ctx => Sys2Proof.Machine.execHostSignalPoll core ctx s
  | .engineEntryBegin q => Sys2Proof.Machine.execEngineEntryBegin q s
  | .gatherRowReturn q row => Sys2Proof.Machine.execGatherRowReturn q row s
  | .engineEntryPerformed q => Sys2Proof.Machine.execEngineEntryPerformed q s
  | .engineMarker q => Sys2Proof.Machine.execEngineMarker q s
  | .flashReadComplete q ok data => Sys2Proof.Machine.execFlashReadComplete q ok data s
  | .callStart f => Sys2Proof.Machine.execCallStart f s
  | .exitToken f => Sys2Proof.Machine.execExitToken f s
  | .callEnd f => Sys2Proof.Machine.execCallEnd f s
  | .spliceComplete f => Sys2Proof.Machine.execSpliceComplete f s
  | .groveLoad f => Sys2Proof.Machine.execGroveLoad f s
  | .nodePairFire e => Sys2Proof.Machine.execNodePairFire e s
  | .elementContextSwitch e => Sys2Proof.Machine.execElementContextSwitch e s
  | .elementMarkerTake e => Sys2Proof.Machine.execElementMarkerTake e s
  | .fabricMarkerExit f => Sys2Proof.Machine.execFabricMarkerExit f s
  | .parkedTokenWake e => Sys2Proof.Machine.execParkedTokenWake e s
  | .clockGate part => Sys2Proof.Machine.execClockGate part s
  | .graftStage f => Sys2Proof.Machine.execGraftStage f s
  | .graftCommit f => Sys2Proof.Machine.execGraftCommit f s
  | .commitComplete f => Sys2Proof.Machine.execCommitComplete f s
  | .graftDiscard f => Sys2Proof.Machine.execGraftDiscard f s
  | .pruneFold f => Sys2Proof.Machine.execPruneFold f s
  | .pruneUnfold f => Sys2Proof.Machine.execPruneUnfold f s
  | .parityRegraft f => Sys2Proof.Machine.execParityRegraft f s
  | .actorFire quad => Sys2Proof.Machine.execActorFire quad s
  | .dispatch core => Sys2Proof.Machine.execDispatch core s
  | .taskDecrement core => Sys2Proof.Machine.execTaskDecrement core s
  | .pendingBufferPush core => Sys2Proof.Machine.execPendingBufferPush core s
  | .stealRequest core => Sys2Proof.Machine.execStealRequest core s
  | .stealRequestArrival core => Sys2Proof.Machine.execStealRequestArrival core s
  | .stealReplyArrival core => Sys2Proof.Machine.execStealReplyArrival core s
  | .stealBackoffEnd core => Sys2Proof.Machine.execStealBackoffEnd core s
  | .scoreboardStall core => Sys2Proof.Machine.execScoreboardStall core s
  | .contextSwitch core => Sys2Proof.Machine.execContextSwitch core s
  | .waitEnd core ctx => Sys2Proof.Machine.execWaitEnd core ctx s
  | .variableResultWrite core ctx n => Sys2Proof.Machine.execVariableResultWrite core ctx n s
  | .storePerformed core ctx => Sys2Proof.Machine.execStorePerformed core ctx s
  | .markerAlign quad actor => Sys2Proof.Machine.execMarkerAlign quad actor s
  | .quiesceStuck ref => Sys2Proof.Machine.execQuiesceStuck ref s
  | .pageWalk island vpage job => Sys2Proof.Machine.execPageWalk island vpage job s
  | .pgwakeWrite island x => Sys2Proof.Machine.execPgwakeWrite island x s
  | .faultRecordPush core ctx => Sys2Proof.Machine.execFaultRecordPush core ctx s
  | .answerResume t rid => Sys2Proof.Machine.execAnswerResume t rid s
  | .answerSkip t rid => Sys2Proof.Machine.execAnswerSkip t rid s
  | .answerAbort t rid => Sys2Proof.Machine.execAnswerAbort t rid s
  | .landingWrite w core ctx im x => Sys2Proof.Machine.execLandingWrite w core ctx im x s
  | .accRemoteWrite w core tile el x => Sys2Proof.Machine.execAccRemoteWrite w core tile el x s
  | .tableWindowWrite w core e x => Sys2Proof.Machine.execTableWindowWrite w core e x s
  | .windowWrite w pa => Sys2Proof.Machine.execWindowWrite w pa s
  | .privWindowWrite w pa x => Sys2Proof.Machine.execPrivWindowWrite w pa x s
  | .registerWrite w pa x => Sys2Proof.Machine.execRegisterWrite w pa x s
  | .qmcmdMap island slot block => Sys2Proof.Machine.execQmcmdMap island slot block s
  | .qmcmdUnmap island slot => Sys2Proof.Machine.execQmcmdUnmap island slot s
  | .qmCommandComplete island => Sys2Proof.Machine.execQmCommandComplete island s
  | .mapRequest q => Sys2Proof.Machine.execMapRequest q s
  | .notifyWrite part q x => Sys2Proof.Machine.execNotifyWrite part q x s
  | .notifyScan part n => Sys2Proof.Machine.execNotifyScan part n s
  | .deadlock part => Sys2Proof.Machine.execDeadlock part s
  | .tilectlTargetPreempt quad => Sys2Proof.Machine.execTilectlTargetPreempt quad s
  | .muDrainSave core => Sys2Proof.Machine.execMuDrainSave core s
  | .forcedSave quad => Sys2Proof.Machine.execForcedSave quad s
  | .tilectlTargetRun quad => Sys2Proof.Machine.execTilectlTargetRun quad s
  | .tileRelease t => Sys2Proof.Machine.execTileRelease t s
  | .submissionDoorbell ring tail => Sys2Proof.Machine.execSubmissionDoorbell ring tail s
  | .completionDoorbell ring head => Sys2Proof.Machine.execCompletionDoorbell ring head s
  | .identify h buf => Sys2Proof.Machine.execIdentify h buf s
  | .health h buf => Sys2Proof.Machine.execHealth h buf s
  | .jobnew h part root quota => Sys2Proof.Machine.execJobnew h part root quota s
  | .jobend h => Sys2Proof.Machine.execJobend h s
  | .tileload h target => Sys2Proof.Machine.execTileload h target s
  | .tilerel h t => Sys2Proof.Machine.execTilerel h t s
  | .qnew h lo hi => Sys2Proof.Machine.execQnew h lo hi s
  | .qfree h q => Sys2Proof.Machine.execQfree h q s
  | .qbind h q arg => Sys2Proof.Machine.execQbind h q arg s
  | .copy h src dst len dir => Sys2Proof.Machine.execCopy h src dst len dir s
  | .flashmap h ns lba len va => Sys2Proof.Machine.execFlashmap h ns lba len va s
  | .stallctl h kind op => Sys2Proof.Machine.execStallctl h kind op s
  | .power h limit => Sys2Proof.Machine.execPower h limit s
  | .linkcfg h peer mask base len => Sys2Proof.Machine.execLinkcfg h peer mask base len s
  | .debug h op a b => Sys2Proof.Machine.execDebug h op a b s
  | .reset h part => Sys2Proof.Machine.execReset h part s
  | .hdmAccess op => Sys2Proof.Machine.execHdmAccess op s
  | .storageTimeout q => Sys2Proof.Machine.execStorageTimeout q s
  | .linkFlitReceive port f => Sys2Proof.Machine.execLinkFlitReceive port f s
  | .memoryRequest port f => Sys2Proof.Machine.execMemoryRequest port f s
  | .memoryResponse port f => Sys2Proof.Machine.execMemoryResponse port f s
  | .queueItem port f => Sys2Proof.Machine.execQueueItem port f s
  | .acknowledgement port f => Sys2Proof.Machine.execAcknowledgement port f s
  | .activeMessage port f => Sys2Proof.Machine.execActiveMessage port f s
  | .reductionBlock port f => Sys2Proof.Machine.execReductionBlock port f s
  | .control port f => Sys2Proof.Machine.execControl port f s
  | .linkdown port => Sys2Proof.Machine.execLinkdown port s
  | .linkRecovery q port => Sys2Proof.Machine.execLinkRecovery q port s
  | .stallCall part kind => Sys2Proof.Machine.execStallCall part kind s
  | .stallCommit part kind err r2 r3 => Sys2Proof.Machine.execStallCommit part kind err r2 r3 s
  | .stallRestart part kind => Sys2Proof.Machine.execStallRestart part kind s
  | .firmwareProgramLoad die stage quad obj => Sys2Proof.Machine.execFirmwareProgramLoad die stage quad obj s
  | .dieReset die cfg => Sys2Proof.Machine.execDieReset die cfg s
  | .verify die => Sys2Proof.Machine.execVerify die s
  | .extend die => Sys2Proof.Machine.execExtend die s
  | .sign die => Sys2Proof.Machine.execSign die s
  | .readmreg die => Sys2Proof.Machine.execReadmreg die s
  | .lmsstat die => Sys2Proof.Machine.execLmsstat die s
  | .scCommandComplete die => Sys2Proof.Machine.execScCommandComplete die s
  | .scbufWrite w die off x => Sys2Proof.Machine.execScbufWrite w die off x s
  | .getVersion => Sys2Proof.Machine.execGetVersion s
  | .getCapabilities => Sys2Proof.Machine.execGetCapabilities s
  | .negotiateAlgorithms asym hash => Sys2Proof.Machine.execNegotiateAlgorithms asym hash s
  | .getDigests => Sys2Proof.Machine.execGetDigests s
  | .getCertificate slot off len => Sys2Proof.Machine.execGetCertificate slot off len s
  | .challenge die nonce => Sys2Proof.Machine.execChallenge die nonce s
  | .getMeasurements die signed index nonce => Sys2Proof.Machine.execGetMeasurements die signed index nonce s
  | .pathSweep island ok => Sys2Proof.Machine.execPathSweep island ok s
  | .replan die short => Sys2Proof.Machine.execReplan die short s
  | .powerSample watts island => Sys2Proof.Machine.execPowerSample watts island s
  | .binRaise island => Sys2Proof.Machine.execBinRaise island s
  | .thermalThrottle die => Sys2Proof.Machine.execThermalThrottle die s
  | .thermalShutdown die => Sys2Proof.Machine.execThermalShutdown die s
  | .machineCheck island => Sys2Proof.Machine.execMachineCheck island s
  | .backInvalidateResponse line data => Sys2Proof.Machine.execBackInvalidateResponse line data s
  | .softError hit => Sys2Proof.Machine.execSoftError hit s
  | .hostPortTraining width rate => Sys2Proof.Machine.execHostPortTraining width rate s

end Sys2Proof.Machine
end

