-- ==== Sys2Proof/Machine/Turns.lean ====
section
/-! DEFINITION. Whose turn it is (log entry 1): issue of a core's running context, firing of an element, steps of other agents; the order
taken where `sched` names none; clock gates (R353, R354); where a bare instruction stands for `withFetchWord`. -/
namespace Sys2Proof.Machine

/-- The state that an outcome leaves, or the state before. -/
def after (f : State → Host.Outcome State Fault Refusal) (s : State) : State :=
  match f s with
  | .next s' => s'
  | _ => s

/-! Issue. -/

/-- A cycle in which a core issues nothing. -/
def State.idle (s : State) (c : Nat) : State := s.modCore c (fun k => { k with clock := k.clock + 1 })

/-- A core that may issue now: it is not halted, its clock runs, its running context is ready and has met no stall event since the last switch
(R55, R56, R353, R354). -/
def State.issuable (s : State) (c : Nat) : Bool :=
  let k := s.core c
  !k.halted && s.clocked c && !k.left && (k.ctxs.get k.running).ready

/-- The address that a cause of a fetch names (R369). -/
def fetchAddr (c : Cause) (pc : VAddr) : Dword := if c = .illegal then 0 else pc.setWidth 64

/-- The word that the current core's running context has fetched last, kept for a skip (R373). -/
def State.keepWord (s : State) (w : Option (BitVec 32)) : State := s.modMy (fun y => { y with word := w })

/-- The running context of the current core fetches, decodes and runs one word (R137, R141). -/
def State.issueWord (s : State) : Host.Outcome State Fault Refusal :=
  let y := s.my
  match (s.keepWord none).fetchAt s.cur s.me y.pc.toNat with
  | .fault s1 c => .next (s1.atIssue.raise c (fetchAddr c y.pc))
  | .miss s1 => .next (s1.atIssue.hold .miss (y.since.getD s.issueCycle))
  | .word s0 w =>
    let s1 := s0.keepWord (some (BitVec.ofNat 32 w))
    match wordCause (s1.privOf s1.cur) w with
    | some c => .next (s1.atIssue.raise c 0)
    | none =>
      match decodeCore w with
      | .ok i => Sys2Proof.Machine.exec i s1
      | .reject _ => .next (s1.atIssue.raise .illegal 0)

/-- A core's turn: its running context issues, or the cycle passes; a gated clock stands still. -/
def State.issueTurn (s : State) (c : Fin 4096) : Host.Outcome State Fault Refusal :=
  let s1 := { s with cur := c }
  if s1.issuable c then s1.issueWord else .next (if s1.clocked c then s1.idle c else s1)

/-! Elements. -/

/-- Whether the clock of a fabric island's die runs. -/
def State.dieClocked (s : State) (d : Nat) : Bool := !(s.die d).frozen

/-- An element's turn: a status token that is due leaves, or its running context fires, or it stalls. -/
def State.elementTurn (s : State) (e : Fin 458752) : Host.Outcome State Fault Refusal :=
  let s1 := { s with curEl := e }
  if !s1.dieClocked (elIsland e / 32) then .next s1
  else .next ((s1.anyStatus e).getD (s1.ctxOut e (s1.element e).running).state)

/-! Events. -/

/-- Where an event takes place that a gated clock holds up (R354): a core, or a die outside its arbor quads. -/
inductive Place where
  | core (c : Nat)
  | die (d : Nat)
  | anywhere
  deriving DecidableEq, Repr

/-- The place of a queue's manager. -/
def State.placeOfQueue (s : State) (q : Nat) : Place :=
  match s.queue? q with
  | some x => .die (dieOfIsland x.homeIsland)
  | none => .anywhere

/-- The place of a tile. -/
def placeOfTile : TileRef → Place
  | .quad q => .core (4 * q)
  | .fabric f => .die (f / 2 ^ 14)

/-- The place of an engine queue. -/
def placeOfEngine (q : Nat) : Place := .die (dieOfIsland (engineIsland q))

/-- The place of a fabric tile. -/
def placeOfFab (f : Nat) : Place := .die (f / 2 ^ 14)

/-- The place of an element. -/
def placeOfElement (e : Nat) : Place := .die (elIsland e / 32)

/-- Where an event takes place. -/
def State.placeOf (s : State) : Instr → Place
  | .repetitionIssue c | .muCommandAccept c _ _ | .muCommandPerformed c | .outboxSend c | .activeMessageArrival c | .handlerStart c
  | .messagePartTimeout c | .barrierTimeout c _ | .hostSignalPoll c _ | .dispatch c | .taskDecrement c | .pendingBufferPush c
  | .stealRequest c | .stealRequestArrival c | .stealReplyArrival c | .stealBackoffEnd c | .scoreboardStall c | .contextSwitch c
  | .waitEnd c _ | .variableResultWrite c _ _ | .storePerformed c _ | .faultRecordPush c _ | .landingWrite _ c _ _ _
  | .accRemoteWrite _ c _ _ _ | .tableWindowWrite _ c _ _ | .muDrainSave c => .core c.1
  | .mma .. | .mmat .. | .mmas .. | .azero .. | .aload .. | .astore .. | .bsel .. | .bfill .. | .tblsel .. | .mfence | .msig .. => .core s.cur.1
  | .actorFire q | .markerAlign q _ | .tilectlTargetPreempt q | .tilectlTargetRun q | .forcedSave q => .core (4 * q.1)
  | .itemAccept q _ | .acknowledgementArrival q _ | .mapRequest q => s.placeOfQueue q
  | .waitEntryHolds q _ => if isEngineId q then placeOfEngine q else s.placeOfQueue q
  | .engineEntryBegin q | .gatherRowReturn q _ | .engineEntryPerformed q | .engineMarker q | .flashReadComplete q _ _
  | .storageTimeout q => placeOfEngine q
  | .callStart f | .exitToken f | .callEnd f | .spliceComplete f | .groveLoad f | .fabricMarkerExit f | .graftStage f | .graftCommit f
  | .commitComplete f | .graftDiscard f | .pruneFold f | .pruneUnfold f | .parityRegraft f => placeOfFab f
  | .nodePairFire e | .elementContextSwitch e | .elementMarkerTake e | .parkedTokenWake e => placeOfElement e
  | .quiesceStuck (.actor q _ _) => .core (4 * q)
  | .quiesceStuck (.element e) => placeOfElement e
  | .pageWalk p _ _ | .pgwakeWrite p _ | .qmcmdMap p _ _ | .qmcmdUnmap p _ | .qmCommandComplete p => .die (dieOfIsland p)
  | .answerResume t _ | .answerSkip t _ | .answerAbort t _ | .tileRelease t => placeOfTile t
  | _ => .anywhere

/-- Whether a place's clock runs. -/
def State.placeClocked (s : State) : Place → Bool
  | .core c => s.clocked c
  | .die d => s.dieClocked d
  | .anywhere => true

/-- Whether a wait holds an instruction up that is to issue. -/
def Wait.holdsUp : Wait → Bool
  | .none => false
  | .fault _ => false
  | .trap => false
  | _ => true

/-- What issuing the instruction of a waiting context again would come to. -/
def State.tryAgain (s : State) (c : Nat) (x : Fin 4) : State :=
  after State.issueWord ((({ s with cur := Fin.ofNat 4096 c } : State).modCore c (fun k => { k with running := x })).modCtx c x
    (fun y => { y with wait := .none }))

/-- WAIT_END in its turn (R15, R56): a wait for room or for earlier work ends where the instruction would wait no more. Where it would, what its
trying has set going, such as a request for an unmapped queue, stays, and the context waits on. -/
def State.waitTurn (s : State) (c : Fin 4096) (x : Fin 4) : Host.Outcome State Fault Refusal :=
  let y := s.ctx c x
  if y.wait = .resource ∨ y.wait = .call then
    let t := s.tryAgain c x
    let w := (t.ctx c x).wait
    if !w.holdsUp then execWaitEnd c x s
    else .next ((({ t with cur := s.cur } : State).modCore c (fun k => { k with running := (s.core c).running, clock := (s.core c).clock })).modCtx c x
      (fun z => { z with since := y.since, waited := y.waited }))
  else execWaitEnd c x s

/-- An event's turn: where its clock is gated it does not take place yet. -/
def State.eventTurn (s : State) (i : Instr) : Host.Outcome State Fault Refusal :=
  if s.placeClocked (s.placeOf i) then
    (match i with
      | .waitEnd c x => s.waitTurn c x
      | _ => Sys2Proof.Machine.exec i s)
  else .next s

/-- One turn. -/
def State.runTurn (s : State) : Turn → Host.Outcome State Fault Refusal
  | .issue c => s.issueTurn c
  | .element e => s.elementTurn e
  | .tile f => .next (if s.placeClocked (placeOfFab f) then s.nextCycle f else s)
  | .event i => s.eventTurn i

/-! The order where `sched` names no turn. -/

/-- The numbers of a core, quad, island or element as the events take them. -/
def coreNo (c : Nat) : Fin 4096 := Fin.ofNat 4096 c

/-- The head command of a core's matrix unit begins (R208). -/
def State.muStart (s : State) (c : Nat) : State :=
  match (s.core c).mu.queue with
  | e :: _ =>
    match parseMu e.words with
    | some cmd => { ({ s with cur := coreNo c } : State).muBegin cmd with cur := s.cur }
    | none => s
  | [] => s

/-- What can take place at a core without an instruction of its own. -/
def State.coreSteps (s : State) (c : Nat) : List (State → State) :=
  let n := coreNo c
  let k := s.core c
  if !s.clocked c then []
  else
    (List.finRange 4).flatMap (fun x =>
      [after (execStorePerformed n x), after (execFaultRecordPush n x), after (execBarrierTimeout n x)]
        ++ (List.range (k.ctxs.get x).vars.length).map (fun i => after (execVariableResultWrite n x i)))
    ++ [fun st => st.muStart c, after (execMuCommandPerformed n), after (execRepetitionIssue n), after (execHandlerStart n), after (execOutboxSend n),
        after (execActiveMessageArrival n), after (execTaskDecrement n), after (execPendingBufferPush n), after (execDispatch n),
        after (execScoreboardStall n), after (execContextSwitch n), after (execMuDrainSave n)]

/-- The answer at the head of a tile's answer queue taken (R371). -/
def State.answerSteps (s : State) (t : TileRef) : List (State → State) :=
  match s.answerHead t with
  | some (_, _, _, _, rid, _) => [after (execAnswerResume t rid.toFin), after (execAnswerSkip t rid.toFin), after (execAnswerAbort t rid.toFin)]
  | none => []

/-- What can take place at a quad's firing unit. -/
def State.quadSteps (s : State) (q : Nat) : List (State → State) :=
  if !s.clocked (4 * q) then []
  else
    [after (execActorFire (Fin.ofNat 1024 q)), after (execTileRelease (.quad q)), after (execForcedSave (Fin.ofNat 1024 q))] ++ s.answerSteps (.quad q)
      ++ (if (s.quad q).ctlState = 3 then [after (execTilectlTargetRun (Fin.ofNat 1024 q))] else [])
      ++ (match (s.quad q).heldTarget with
        | some true => [after (execTilectlTargetPreempt (Fin.ofNat 1024 q))]
        | some false => [after (execTilectlTargetRun (Fin.ofNat 1024 q))]
        | none => [])
      ++ (match (s.quad q).tile with
        | some t => (List.range t.actors.length).flatMap (fun a => after (execMarkerAlign (Fin.ofNat 1024 q) (Fin.ofNat 64 a))
            :: (List.range ((t.actors[a]?).elim 0 (·.decl.ins.length))).map (fun i => after (execQuiesceStuck (.actor q a i))))
        | none => [])

/-- What can take place at a queue's manager. -/
def queueSteps (q : Nat) (x : Queue) : List (State → State) :=
  (List.range x.prods.length ++ if x.inflight.any (·.port == gonePort) then [gonePort] else []).flatMap (fun p => [after (execItemAccept q p), after (execAcknowledgementArrival q p)])
    ++ (List.range x.cons.length).map (fun c => after (execWaitEntryHolds q c)) ++ [after (execMapRequest q)]

/-- What can take place at an island. -/
def islandSteps (p : Nat) (i : Island) : List (State → State) :=
  i.misses.map (fun m => after (execPageWalk (Fin.ofNat 256 p) m.vpage m.job)) ++ [after (execQmCommandComplete (Fin.ofNat 256 p))]

/-- What can take place at an engine queue. -/
def engineSteps (q : Nat) (e : EngQueue) : List (State → State) :=
  [after (execEngineEntryBegin q), after (execEngineEntryPerformed q), after (execEngineMarker q), after (execWaitEntryHolds q 0)]
    ++ (match e.busy with
      | some b => (List.range b.indices.length).map (fun m => after (execGatherRowReturn q m))
      | none => [])

/-- What can take place at a fabric tile. -/
def fabricSteps (f : Nat) : List (State → State) :=
  let n : Fin 65536 := Fin.ofNat 65536 f
  [after (execExitToken n), after (execFabricMarkerExit n), after (execCallEnd n), after (execSpliceComplete n), after (execCommitComplete n),
   after (execParityRegraft n), after (execPruneFold n), after (execPruneUnfold n), after (execGroveLoad n), after (execGraftStage n),
   after (execGraftCommit n), after (execGraftDiscard n), after (execCallStart n), after (execTileRelease (.fabric f)), fun st => st.nextCycle f]

/-- What can take place at an element. -/
def elementSteps (e : Nat) : List (State → State) :=
  let n : Fin 458752 := Fin.ofNat 458752 e
  [fun st => after (fun u => u.elementTurn n) st |> fun u => { u with curEl := st.curEl }, after (execElementMarkerTake n),
   after (execElementContextSwitch n), after (execParkedTokenWake n), after (execQuiesceStuck (.element e))]

/-- What can take place at a die's security controller: the command in progress, and its completion. -/
def State.dieSteps (s : State) (d : Fin 4) : List (State → State) :=
  if (s.die d).sec.busy && s.placeClocked (.die d) then
    [after (execVerify d), after (execExtend d), after (execSign d), after (execReadmreg d), after (execLmsstat d), after (execScCommandComplete d)]
  else []

/-- Steps of all places, in the order cores, quads, queues, islands, engines, fabric tiles, elements, dies. -/
def State.internalSteps (s : State) : List (State → State) :=
  s.cores.flatMap (fun e => s.coreSteps e.1) ++ s.quads.flatMap (fun e => s.quadSteps e.1)
    ++ s.queues.flatMap (fun e => if s.placeClocked (s.placeOfQueue e.1) then queueSteps e.1 e.2 else [])
    ++ s.islands.flatMap (fun e => if s.dieClocked (dieOfIsland e.1) then islandSteps e.1 e.2 else [])
    ++ s.engines.flatMap (fun e => if s.placeClocked (placeOfEngine e.1) then engineSteps e.1 e.2 else [])
    ++ s.fabrics.flatMap (fun e => if s.placeClocked (placeOfFab e.1) then fabricSteps e.1 ++ s.answerSteps (.fabric e.1) else [])
    ++ s.elements.flatMap (fun e => if s.placeClocked (placeOfElement e.1) then elementSteps e.1 else [])
    ++ (List.finRange 4).flatMap s.dieSteps

/-- Waits of a core tried again, and its steals. -/
def lateSteps (c : Nat) : List (State → State) :=
  let n := coreNo c
  (List.finRange 4).map (fun x => after (fun s => s.waitTurn n x))
    ++ [after (execStealRequestArrival n), after (execStealReplyArrival n), after (execStealRequest n), after (execStealBackoffEnd n)]

/-- A list read from its entry `n` on, round to the entry before. -/
def rotated {α : Type} (n : Nat) (l : List α) : List α := l.drop (n % l.length) ++ l.take (n % l.length)

/-- The first of some steps, from number `n` on and round, that changes anything, with its number. -/
def State.firstChange (s : State) (n : Nat) (l : List (State → State)) : Option (State × Nat) :=
  (rotated n l.zipIdx).findSome? (fun p =>
    let t := p.1 s
    if t = s then none else some (t, p.2))

/-- The core whose clock runs and is least, the first listed of those. -/
def State.leastCore (s : State) : Option Nat :=
  ((s.cores.filter (fun e => s.clocked e.1)).foldl (fun (b : Option (Nat × Nat)) e =>
    match b with
    | some (_, t) => if e.2.clock < t then some (e.1, e.2.clock) else b
    | none => some (e.1, e.2.clock)) none).map (·.1)

/-- A cycle of the module: the core that is furthest behind issues; else it switches to a ready context; else one of its waits is tried again or it
steals; else its cycle passes. -/
def State.cycleTurn (s : State) : Host.Outcome State Fault Refusal :=
  match s.leastCore with
  | none => .next s
  | some c =>
    if s.issuable c then s.issueTurn (coreNo c)
    else if s.switch c ≠ s then .next (s.switch c)
    else .next (((s.firstChange (s.core c).clock (lateSteps c)).map (·.1)).getD (s.idle c))

/-- The turn where `sched` names none (log entry 1): the other agents and the cores take turns, every step of another agent and every
core in its order. -/
def State.defaultTurn (s : State) : Host.Outcome State Fault Refusal :=
  let s1 := { s with turns := s.turns + 1 }
  if s.turns % 2 = 0 then
    match s1.firstChange s.nextStep s1.internalSteps with
    | some (t, i) => .next { t with nextStep := i + 1 }
    | none => s1.cycleTurn
  else s1.cycleTurn

/-! One step. -/

/-- A freeze that is due (R354): the clocks of that partition stop first. -/
def State.gateDue (s : State) : Option (Fin 4) :=
  ([0, 1, 2, 3] : List (Fin 4)).find? (fun p => [0, 1, 2, 3].any (fun d =>
    (s.die d).part == p && (s.die d).freezeAt.any (fun x => decide (x.2 ≤ (s.core x.1).clock))))

/-- Whether a turn is a die's reset, which brings the supply back (R424). -/
def Turn.isReset : Turn → Bool
  | .event (.dieReset _ _) => true
  | _ => false

/-- One step of the module: without supply only a die's reset happens; a freeze that is due comes first; then the turn that `sched`
names, or the default one. -/
def State.turn (s : State) : Host.Outcome State Fault Refusal :=
  match s.sched with
  | t :: r =>
    if s.powered ∨ t.isReset then
      (match s.gateDue with
        | some p => .next (s.gateClocks p)
        | none => ({ s with sched := r } : State).runTurn t)
    else .fault .powerOff
  | [] =>
    if s.powered then
      (match s.gateDue with
        | some p => .next (s.gateClocks p)
        | none => s.defaultTurn)
    else .fault .powerOff

/-! Placing one instruction. -/

/-- The address at which `withFetchWord` puts an instruction. -/
def probePc : Nat := 0x400000

/-- The physical page that holds it: the first of the die's first stack. -/
def probePa (c : Nat) : Nat := 2 * (c / 1024) * 2 ^ 36

/-- A translation of the page at `probePc` for job 0. -/
def probeXlat (c : Nat) : Xlat := ⟨0, probePc, 4096, probePa c, false, false, 0⟩

/-- A tile made to run job 0 at firmware privilege with a code capability over that page. -/
def probeTile (t : Tile) : Tile := { t with job := 0, priv := 2, code := mkCap (permX + 128) probePc 4096 3 probePc }

/-- A core word placed where the current core's running context fetches next: a tile on its quad with a code capability over the page, a
translation of it, a firing, the pc, the bytes (log entry 13). -/
def State.placeCore (s : State) (w : Nat) : State :=
  let c := s.cur
  let s1 := s.modQuad (c.1 / 4) (fun q => { q with tile := some (probeTile (q.tile.getD irfinTile)), icache := [] })
  let s2 := s1.modCore c (fun k => { k with tlb := [probeXlat c], halted := false, left := false })
  let s3 := s2.modMy (fun y => { y with pc := BitVec.ofNat 56 probePc, run := .firing 0, wait := .none, trapped := false, stopped := false, since := none })
  { s3.poke (probePa c) (leBytes 4 w) with sched := [.issue c], powered := true, dies := s3.dies.map (fun d => { d with frozen := false, freezeAt := none }) }

/-- An element word placed in the first word of the running context of the current element, whose turn is next. -/
def State.placeElement (s : State) (w : Nat) : State :=
  let e := s.curEl
  let s1 := s.modElement e (fun y =>
    let x := y.ctxs.get y.running
    { y with ctxs := vset y.ctxs y.running { x with
        words := vset x.words 0 (BitVec.ofNat 32 w), ctlw := 1, node0 := noNode, node1 := noNode, wpc := 0, armed := true, parked := false, statuses := [] } })
  { s1 with sched := [.element e], powered := true, dies := s1.dies.map (fun d => { d with frozen := false, freezeAt := none }) }

/-- Whether a word is an element's and not a core's (R148). -/
def isElementWord (w : Nat) : Bool := (coreOnly w).isNone && (elWord (BitVec.ofNat 32 w)).ok

/-- An instruction placed where the next step fetches it. -/
def State.placeWord (s : State) (w : Nat) : State := if isElementWord w then s.placeElement w else s.placeCore w

end Sys2Proof.Machine
end

