-- ==== Sys2Proof/Machine/Step.lean ====
section
/-! DEFINITION. One step of the machine, and an instruction placed where it fetches next. -/
namespace Sys2Proof.Machine

/-- One step: a turn of one agent. -/
def step (s : State) : Host.Outcome State Fault Refusal := s.turn

/-- The state with one instruction of `nbits` bits `w` placed where `step` fetches its next one. -/
def State.withFetchWord (s : State) (nbits w : Nat) : State := s.placeWord (w % 2 ^ nbits)

end Sys2Proof.Machine
end

