-- ==== Sys2Proof/Safety.lean ====
section
/-! DEFINITION. The terms in which claims about single instructions are made: when a core's word issues unhindered, what a word that is
done leaves unchanged, and how a register comes by its value. -/
namespace Sys2Proof.Machine

/-- A core's word that reads `rd` and writes `wr` with latency `lat` (0 where it is variable) issues and is neither stopped nor held up
(R142 to R145, R203): no stall count is broken, no repetition sequence of its own context runs where it names a v or m register, and
no register that it names has a result pending. -/
def State.canIssue (s : State) (rd wr : List RegId) (lat : Nat) : Bool :=
  !s.atIssue.my.short rd wr lat (s.my.since.getD s.issueCycle) && !s.atIssue.repWaits (rd ++ wr) && (s.atIssue.my.blocker rd wr).isNone

/-- The cycle of the issuing core. -/
def State.now (s : State) : Nat := (s.core s.cur).clock

/-- A byte of physical memory. -/
def State.byteAt (s : State) (a : Nat) : Byte := s.mem.read a

/-- Everything outside the issuing context is the same in `t` as in `u`, but the clock of its core: memory with its tags, bits and
poison, every queue, engine, element, tile, island, die and service, every other core, and on this core the other contexts, the
matrix unit, the deque and the rest. -/
structure SameOutside (u t : State) : Prop where
  others : t = { u with cores := t.cores }
  cores : ∀ c, c ≠ u.cur.1 → t.core c = u.core c
  core : t.core u.cur.1 = { u.core u.cur.1 with ctxs := (t.core u.cur.1).ctxs, clock := (t.core u.cur.1).clock }
  ctxs : ∀ x, x ≠ u.me → t.ctx u.cur.1 x = u.ctx u.cur.1 x
  memory : ∀ a, t.byteAt a = u.byteAt a

/-- In the issuing context nothing but the registers `ws`, the pc and the issue bookkeeping differs: every other g, v, m and k register,
the q registers, FPMODE, LANDCTL, STALLCHK, the trap registers, the store buffer, the items held and the work in progress are the same (what a
failed walk or a place at a full/empty line has left for the instruction is gone), no other result that was on its way is lost and none but for `ws` is new. FPFLAGS and results for it may differ only where `fp` is set. -/
structure SameContext (x y : Ctx) (ws : List RegId) (fp : Bool) : Prop where
  g : ∀ r, .g r ∉ ws → y.g.get r = x.g.get r
  v : ∀ r, .v r ∉ ws → y.v.get r = x.v.get r
  m : ∀ r, .m r ∉ ws → y.m.get r = x.m.get r
  k : ∀ r, .k r ∉ ws → y.k.get r = x.k.get r
  rest : y = { x with g := y.g, v := y.v, m := y.m, k := y.k, pc := y.pc, fpflags := y.fpflags, readyAt := y.readyAt,
                      since := y.since, waited := y.waited, fixed := y.fixed, vars := y.vars, missCause := y.missCause, feWait := y.feWait }
  flags : fp = false → y.fpflags = x.fpflags
  fixedKept : ∀ p ∈ x.fixed, (∀ r ∈ ws, p.write.reg ≠ some r) → p ∈ y.fixed
  fixedNew : ∀ p ∈ y.fixed, p ∈ x.fixed ∨ (∃ r ∈ ws, p.write.reg = some r) ∨ (fp = true ∧ p.write.reg = none)
  varsKept : ∀ p ∈ x.vars, p ∈ y.vars
  varsNew : ∀ p ∈ y.vars, p ∈ x.vars ∨ p.reg ∈ ws

/-- A word with stall count `st` is done (R142, R143): `u` is the state in which it took its operands, with its effect outside the
registers; in `t` its core is a cycle further, the pc has moved on or gone to `npc`, the next word of the context issues not before its
stall count allows, and no register but `ws` has another value. -/
structure Done (u t : State) (st : Fin 8) (npc : Option VAddr) (ws : List RegId) (fp : Bool := false) : Prop where
  outside : SameOutside u t
  context : SameContext u.my t.my ws fp
  pc : t.my.pc = npc.getD (u.my.pc + 4)
  clock : (t.core t.cur).clock = u.now + 1
  next : t.my.readyAt = u.now + 1 + st.1 + (if npc.isSome then 1 else 0)

/-- A result is in its register: g0 and k0 read as 0 and as the null capability whatever is written; FPFLAGS bits are set. -/
def Ctx.reads (y : Ctx) : RegWrite → Prop
  | .g r x => y.rg r = if r.1 = 0 then 0 else x
  | .v r x => y.rv r = x
  | .vlo r x => (y.rv r).extractLsb' 0 512 = x
  | .m r x => y.rm r = x
  | .k r c => y.rk r = if r.1 = 0 then {} else c
  | .flags f => y.fpflags &&& f = f

/-- A result of latency `lat` of a word that took its operands in cycle `n` (R143): in its register where the latency is 1, so that the
next word reads it; on its way otherwise, due in cycle `n + lat`. -/
def Ctx.has (y : Ctx) (n lat : Nat) (w : RegWrite) : Prop :=
  if lat ≤ 1 then y.reads w else ∃ p ∈ y.fixed, p.write = w ∧ p.due = n + lat

/-- A register has a result of variable latency on its way, and `w` is what will be written (R145); g0 and k0 have none. -/
def Ctx.pends (y : Ctx) (r : RegId) (w : RegWrite) : Prop := r.real = true → ⟨r, some w⟩ ∈ y.vars

/-- A register waits for a status word or item that comes later (R145, R146). -/
def Ctx.awaits (y : Ctx) (r : RegId) : Prop := r.real = true → ⟨r, none⟩ ∈ y.vars

/-- An instruction whose own effect is one register result of latency `lat` (R143): it answers a next state, in which nothing but that
register, the pc and the cycle has changed, and the register has or gets the value. -/
def State.gives (s : State) (i : Instr) (st : Fin 8) (lat : Nat) (r : RegId) (w : RegWrite) : Prop :=
  ∃ t, exec i s = .next t ∧ Done s.atIssue t st none [r] ∧ t.my.has s.atIssue.now lat w

/-- The same for a result of variable latency; `u` is the state in which the word took its operands, with its effect outside the
registers. -/
def State.givesLater (s u : State) (i : Instr) (st : Fin 8) (r : RegId) (w : RegWrite) : Prop :=
  ∃ t, exec i s = .next t ∧ Done u t st none [r] ∧ t.my.pends r w

/-- An instruction without a register result: it answers a next state, in which nothing has changed beside its effect `u` but the pc and
the cycle. -/
def State.does (s u : State) (i : Instr) (st : Fin 8) (npc : Option VAddr) : Prop :=
  ∃ t, exec i s = .next t ∧ Done u t st npc []

/-- An instruction that takes an exception (R14, R369): it answers the state that taking it leaves. -/
def State.traps (s : State) (i : Instr) (c : Cause) (addr : Dword) : Prop := exec i s = .next (s.atIssue.raise c addr)

/-- The same where the checks have already changed something that stays: `u` is the state in which the exception is taken (R363, R367). -/
def State.trapsIn (s u : State) (i : Instr) (c : Cause) (addr : Dword) : Prop := exec i s = .next (u.raise c addr)

/-- A conditional branch (R165, R60): where it is not taken the pc moves on; where it is taken the pc goes to the target, with one cycle
in which the context issues nothing; in a handler a target outside its words raises ILLEGAL at the branch. -/
structure State.BranchesOn (s : State) (i : Instr) (st : Fin 8) (o : Fin 2048) (p : Prop) : Prop where
  notTaken : ¬p → s.does s.atIssue i st none
  taken : p → s.atIssue.my.mayGo (s.atIssue.my.pc + BitVec.ofInt 56 (4 * signedOf 11 o.1)) = true →
    s.does s.atIssue i st (some (s.atIssue.my.pc + BitVec.ofInt 56 (4 * signedOf 11 o.1)))
  barred : p → s.atIssue.my.mayGo (s.atIssue.my.pc + BitVec.ofInt 56 (4 * signedOf 11 o.1)) = false → s.traps i .illegal 0

/-- A jump with link (R166): the link in its register, the pc at the target, nothing else changed. -/
def State.jumps (s : State) (i : Instr) (st : Fin 8) (r : Fin 32) (target : VAddr) : Prop :=
  ∃ t, exec i s = .next t ∧ Done s.atIssue t st (some target) [.g r] ∧
    t.my.has s.atIssue.now 1 (.g r (s.atIssue.my.pc.setWidth 64 + 4))

/-- A load of `n` bytes through a memory operand (R171 to R173): where the checks pass and the target gives bytes `bs`, they reach the
register as `w bs`, and nothing else changes (a translation used, an effectful read's drained store buffer apart, which `v` holds); where
a check fails, that exception is taken with the address; a miss, a drain and a link that is down are waited for. -/
structure State.Loads (s : State) (i : Instr) (st : Fin 8) (m : MemOp) (r : RegId) (n need : Nat) (w : List Byte → RegWrite) : Prop where
  given : ∀ u pa eff v bs, s.atIssue.checked s.atIssue.myAccess (m.cap s.atIssue.my) (m.addr s.atIssue.my n) n n need 0 = .ok u pa eff →
    u.readAt pa n eff = .bytes v bs → s.givesLater v i st r (w bs)
  refused : ∀ u c a, s.atIssue.checked s.atIssue.myAccess (m.cap s.atIssue.my) (m.addr s.atIssue.my n) n n need 0 = .fault u c a →
    s.trapsIn u i c (BitVec.ofNat 64 a)
  barred : ∀ u pa eff c, s.atIssue.checked s.atIssue.myAccess (m.cap s.atIssue.my) (m.addr s.atIssue.my n) n n need 0 = .ok u pa eff →
    u.readAt pa n eff = .fault c → s.trapsIn u i c (BitVec.ofNat 64 (m.addr s.atIssue.my n))
  held : ∀ u pa eff v, s.atIssue.checked s.atIssue.myAccess (m.cap s.atIssue.my) (m.addr s.atIssue.my n) n n need 0 = .ok u pa eff →
    u.readAt pa n eff = .wait v → exec i s = .next (v.hold .resource (s.my.since.getD s.issueCycle))
  missed : ∀ u, s.atIssue.checked s.atIssue.myAccess (m.cap s.atIssue.my) (m.addr s.atIssue.my n) n n need 0 = .miss u →
    exec i s = .next (u.hold .miss (s.my.since.getD s.issueCycle))

/-- A store of bytes through a memory operand (R127, R171, R172): where the checks and the target's rules pass, it enters the store
buffer of the context behind every earlier store and nothing else changes, no byte of memory among it; otherwise that exception is taken.
`rel` is the scope of a release store. -/
structure State.Stores (s : State) (i : Instr) (st : Fin 8) (m : MemOp) (need : Nat) (tag : Bool) (rel : Option Nat) (bs : List Byte) : Prop where
  done : ∀ u pa eff, s.atIssue.checked s.atIssue.myAccess (m.cap s.atIssue.my) (m.addr s.atIssue.my bs.length) bs.length bs.length need 1
      = .ok u pa eff → u.writeBarred pa bs.length = none →
    s.does (u.modMy (fun x => { x with stores := x.stores ++
      [⟨pa, bs, fullMask bs.length, tag, BitVec.ofNat 56 (m.addr s.atIssue.my bs.length), x.pc, rel⟩] })) i st none
  refused : ∀ u c a, s.atIssue.checked s.atIssue.myAccess (m.cap s.atIssue.my) (m.addr s.atIssue.my bs.length) bs.length bs.length need 1
      = .fault u c a → s.trapsIn u i c (BitVec.ofNat 64 a)
  barred : ∀ u pa eff c, s.atIssue.checked s.atIssue.myAccess (m.cap s.atIssue.my) (m.addr s.atIssue.my bs.length) bs.length bs.length
      need 1 = .ok u pa eff → u.writeBarred pa bs.length = some c →
    s.trapsIn u i c (BitVec.ofNat 64 (m.addr s.atIssue.my bs.length))

/-- A vector instruction with a v result lane by lane (R182, R183): where no repetition sequence of the core runs, each active lane k
holds the low bits of `f k` and each other lane keeps its value; `srcs` are its sources, with the mask and the destination added where
MASK is not 0. -/
def State.LaneResult (s : State) (i : Instr) (st : Fin 8) (d : Fin 32) (m : Fin 8) (b lat : Nat) (srcs : List RegId) (f : Nat → Nat) : Prop :=
  s.canIssue (srcs ++ maskReads m (.v d)) [.v d] lat = true → s.atIssue.vectorHeld = false →
    ∃ r : VReg, s.gives i st lat (.v d) (.v d r) ∧
      ∀ k, k < 1024 / b → laneOf b r k = if s.atIssue.my.active m b k then f k % 2 ^ b else laneOf b (s.atIssue.my.rv d) k

/-- The same for a floating-point instruction (R186, R97, R98): latency 4, and the FPFLAGS bits set are those that an active lane
raises. -/
def State.FloatResult (s : State) (i : Instr) (st : Fin 8) (d : Fin 32) (m : Fin 8) (b : Nat) (srcs : List RegId) (f : Nat → FRes) : Prop :=
  s.canIssue (srcs ++ maskReads m (.v d)) [.v d] 4 = true → s.atIssue.vectorHeld = false →
    ∃ (r : VReg) (fl : BitVec 5) (t : State), exec i s = .next t ∧ Done s.atIssue t st none [.v d] true ∧
      t.my.has s.atIssue.now 4 (.v d r) ∧ t.my.has s.atIssue.now 4 (.flags fl) ∧
      (∀ k, k < 1024 / b → laneOf b r k = if s.atIssue.my.active m b k then (f k).bits % 2 ^ b else laneOf b (s.atIssue.my.rv d) k) ∧
      ∀ j : Nat, fl.getLsbD j = true ↔ ∃ k, k < 1024 / b ∧ s.atIssue.my.active m b k = true ∧ (f k).flags.getLsbD j = true

/-- An instruction that waits (R13, R15): it takes no effect and is issued again later; `u` differs from the state in which it took its
operands only by what the wait itself brings about. -/
def State.waits (s u : State) (i : Instr) (w : Wait) : Prop := exec i s = .next (u.hold w (s.my.since.getD s.issueCycle))

/-- An instruction with several results of variable latency; `u` is the state with its effect outside the registers. -/
def State.givesAll (s u : State) (i : Instr) (st : Fin 8) (ws : List RegWrite) : Prop :=
  ∃ t, exec i s = .next t ∧ Done u t st none (ws.filterMap RegWrite.reg) ∧ ∀ w ∈ ws, ∀ r, w.reg = some r → t.my.pends r w

/-- Context `cx` of element `e` has made the firing `h` (R279) in `s`: T holds the last value it sent, WPC stands at the next word or where the
word branches, no access is parked there; memory, cores and queues are the same. -/
structure Fired (s t : State) (e : Nat) (cx : Fin 4) (n : Nat) (h : Shot) : Prop where
  shot : s.shoot e cx n h = .fired t
  next : ((t.element e).ctxs.get cx).wpc = h.jump.getD
    (if ((s.element e).ctxs.get cx).wpc + 1 < ((s.element e).ctxs.get cx).len then ((s.element e).ctxs.get cx).wpc + 1 else 0)
  value : ((t.element e).ctxs.get cx).t = h.sends.foldl (fun v p => loopback v p.2.1 p.2.2) ((s.element e).ctxs.get cx).t
  parked : ((t.element e).ctxs.get cx).parked = false
  rest : t.mem = s.mem ∧ t.cores = s.cores ∧ t.queues = s.queues

/-- The running context of the current element makes the firing `h` in `u`, the state that its word's checks leave: where its tokens are free
to be taken and every destination accepts (R272, R279, R134) the instruction answers the state in which it has fired, and else it stalls. -/
structure State.firesIn (s u : State) (i : Instr) (n : Fin 4096) (h : Shot) : Prop where
  done : u.clear s.curEl (s.element s.curEl).running h = true →
    ∃ t, exec i s = .next t ∧ Fired u t s.curEl (s.element s.curEl).running n h
  held : u.clear s.curEl (s.element s.curEl).running h = false → exec i s = .next u

/-- The running context of the current element makes the firing `h` (R279), or stalls where a destination does not accept. -/
def State.fires (s : State) (i : Instr) (n : Fin 4096) (h : Shot) : Prop := s.firesIn s i n h

/-- The element stalls: nothing changes (R282). -/
def State.stands (s : State) (i : Instr) : Prop := exec i s = .next s

/-- CTL lets the word fire (R280), with its control token taken or without. -/
def State.ctlGoes (s : State) (c : Fin 4) (took : Bool) : Prop :=
  s.mayFire s.curEl (s.element s.curEl).running = true ∧
    (((c = 0 ∨ c = 3) ∧ took = false) ∨
      ((c = 1 ∧ (s.seen s.curEl).ctlHead = some true ∨ c = 2 ∧ (s.seen s.curEl).ctlHead = some false) ∧ took = true))

/-- CTL 1 and 2 (R280): a word without its control token stalls, and one whose token says otherwise is skipped, the token alone taken. -/
structure State.ByCtl (s : State) (i : Instr) (c : Fin 4) (n : Fin 4096) : Prop where
  held : s.mayFire s.curEl (s.element s.curEl).running = false → s.stands i
  waits : c = 1 ∨ c = 2 → (s.seen s.curEl).ctlHead = none → s.stands i
  skipped : s.mayFire s.curEl (s.element s.curEl).running = true →
    (c = 1 ∧ (s.seen s.curEl).ctlHead = some false ∨ c = 2 ∧ (s.seen s.curEl).ctlHead = some true) → s.fires i n { ctl := true }

/-- A word whose sources join (R281): a missing head or a marker stalls it, an error, done or equal stop passes on, unequal kinds become
an error of TOKALIGN, and on data it makes the firing `h`, its sources taken. -/
structure State.Joins (s : State) (i : Instr) (d a b : Fin 8) (c : Fin 4) (n : Fin 4096) (h : Shot) : Prop where
  ctl : s.ByCtl i c n
  stalls : ∀ took, s.ctlGoes c took → joinKinds ((fifoPorts a.1 b.1).map (s.seen s.curEl).head) = .stalls → s.stands i
  passes : ∀ took k x, s.ctlGoes c took → joinKinds ((fifoPorts a.1 b.1).map (s.seen s.curEl).head) = .pass k x →
    s.fires i n { takes := fifoPorts a.1 b.1, ctl := took, sends := [(d.1, k, x)], lat := h.lat }
  bad : ∀ took, s.ctlGoes c took → joinKinds ((fifoPorts a.1 b.1).map (s.seen s.curEl).head) = .bad →
    s.fires i n { takes := fifoPorts a.1 b.1, ctl := took, lat := h.lat
                  sends := [(d.1, kError, s.errorData s.curEl (s.element s.curEl).running .tokalign)] }
  data : ∀ took, s.ctlGoes c took → joinKinds ((fifoPorts a.1 b.1).map (s.seen s.curEl).head) = .data →
    s.fires i n { h with takes := fifoPorts a.1 b.1, ctl := took }

/-- A command that a ring holds begun as entry `e` (R401): its completion has room and no reserved bit of C0 is set. -/
structure State.Begun (s : State) (h : HostHdr) (opc : Nat) (ops : List Dword) (e : List Dword) : Prop where
  entry : s.entryOf h opc ops = some e
  room : (s.ring h.ring).cqRoom = true
  legal : e.getD 0 0 &&& 0xFEF0 = 0

/-- A command is performed with effect `u` and completes with ERR and RESULT. -/
def State.completes (s u : State) (i : Instr) (h : HostHdr) (e : List Dword) (err : Option Cause) (r : Dword) : Prop :=
  exec i s = .next (u.complete h e err r)

end Sys2Proof.Machine
end

