-- ==== Sys2Proof/Certificates/Slice0/Obligations.lean ====
section
/-! DEFINITION. The statements for the provers, each from numbered rules of the spec. The terms they are made in stand in Safety. -/

open Sys2Proof Sys2Proof.Machine

/-- R159, Table 7-2: the register operations of major 0x00 with latency 1, each with its result, the pc one word on and everything else
unchanged, whichever registers are named: a result aimed at g0 is discarded.

R159, R160, Tables 7-2 and 7-3: counts, byte order, extension, `sel` and the immediate operations. `sel` and `bins` read their
destination; the amount of an extension is 8, 16 or 32 bits.

Table 7-2, Table 6-3: products of latency 3: the low half of the product, and the high half of the signed and unsigned ones. -/
def Obligations.ScalarResults : Prop :=
  (∀ (s : State) (st : Fin 8) (d a b : Fin 32), s.canIssue [.g a, .g b] [.g d] 1 = true →
    let x := s.atIssue.my
    s.gives (.add st d a b) st 1 (.g d) (.g d (x.rg a + x.rg b)) ∧
    s.gives (.sub st d a b) st 1 (.g d) (.g d (x.rg a - x.rg b)) ∧
    s.gives (.and st d a b) st 1 (.g d) (.g d (x.rg a &&& x.rg b)) ∧
    s.gives (.or st d a b) st 1 (.g d) (.g d (x.rg a ||| x.rg b)) ∧
    s.gives (.xor st d a b) st 1 (.g d) (.g d (x.rg a ^^^ x.rg b)) ∧
    s.gives (.andn st d a b) st 1 (.g d) (.g d (x.rg a &&& ~~~x.rg b)) ∧
    s.gives (.shl st d a b) st 1 (.g d) (.g d (x.rg a <<< ((x.rg b).toNat % 64))) ∧
    s.gives (.shr st d a b) st 1 (.g d) (.g d (x.rg a >>> ((x.rg b).toNat % 64))) ∧
    s.gives (.sra st d a b) st 1 (.g d) (.g d ((x.rg a).sshiftRight ((x.rg b).toNat % 64))) ∧
    s.gives (.rol st d a b) st 1 (.g d) (.g d ((x.rg a).rotateLeft ((x.rg b).toNat % 64))) ∧
    s.gives (.slt st d a b) st 1 (.g d) (.g d (if (x.rg a).toInt < (x.rg b).toInt then 1 else 0)) ∧
    s.gives (.sltu st d a b) st 1 (.g d) (.g d (if (x.rg a).toNat < (x.rg b).toNat then 1 else 0)) ∧
    s.gives (.min st d a b) st 1 (.g d) (.g d (if (x.rg a).toInt < (x.rg b).toInt then x.rg a else x.rg b)) ∧
    s.gives (.max st d a b) st 1 (.g d) (.g d (if (x.rg a).toInt < (x.rg b).toInt then x.rg b else x.rg a)) ∧
    s.gives (.minu st d a b) st 1 (.g d) (.g d (if (x.rg a).toNat < (x.rg b).toNat then x.rg a else x.rg b)) ∧
    s.gives (.maxu st d a b) st 1 (.g d) (.g d (if (x.rg a).toNat < (x.rg b).toNat then x.rg b else x.rg a))) ∧
  (∀ (s : State) (st : Fin 8) (d a : Fin 32),
    let x := s.atIssue.my
    (s.canIssue [.g a] [.g d] 1 = true →
      s.gives (.clz st d a) st 1 (.g d) (.g d (BitVec.ofNat 64 (clzN 64 (x.rg a).toNat))) ∧
      s.gives (.ctz st d a) st 1 (.g d) (.g d (BitVec.ofNat 64 (ctzN 64 (x.rg a).toNat))) ∧
      s.gives (.popc st d a) st 1 (.g d) (.g d (BitVec.ofNat 64 (popcN 64 (x.rg a).toNat))) ∧
      s.gives (.bswap st d a) st 1 (.g d) (.g d (BitVec.ofNat 64 (leNat (leBytes 8 (x.rg a).toNat).reverse))) ∧
      (∀ w : Fin 32, w.1 ≤ 2 →
        s.gives (.sext st d a w) st 1 (.g d) (.g d (BitVec.ofInt 64 (signedOf (8 * 2 ^ w.1) (x.rg a).toNat))) ∧
        s.gives (.zext st d a w) st 1 (.g d) (.g d (BitVec.ofNat 64 ((x.rg a).toNat % 2 ^ (8 * 2 ^ w.1))))) ∧
      (∀ i : Fin 8192,
        let imm : Dword := BitVec.ofInt 64 (signedOf 13 i.1)
        s.gives (.addi st d a i) st 1 (.g d) (.g d (x.rg a + imm)) ∧
        s.gives (.andi st d a i) st 1 (.g d) (.g d (x.rg a &&& imm)) ∧
        s.gives (.ori st d a i) st 1 (.g d) (.g d (x.rg a ||| imm)) ∧
        s.gives (.xori st d a i) st 1 (.g d) (.g d (x.rg a ^^^ imm)) ∧
        s.gives (.slti st d a i) st 1 (.g d) (.g d (if (x.rg a).toInt < imm.toInt then 1 else 0)) ∧
        s.gives (.sltui st d a i) st 1 (.g d) (.g d (if (x.rg a).toNat < imm.toNat then 1 else 0))) ∧
      (∀ h : Fin 64,
        s.gives (.shli st d a h) st 1 (.g d) (.g d (x.rg a <<< h.1)) ∧
        s.gives (.shri st d a h) st 1 (.g d) (.g d (x.rg a >>> h.1)) ∧
        s.gives (.srai st d a h) st 1 (.g d) (.g d ((x.rg a).sshiftRight h.1))) ∧
      (∀ p l : Fin 64, p.1 + l.1 + 1 ≤ 64 →
        s.gives (.bext st d a p l) st 1 (.g d) (.g d (BitVec.ofNat 64 ((x.rg a).toNat / 2 ^ p.1 % 2 ^ (l.1 + 1)))))) ∧
    (∀ b : Fin 32, s.canIssue [.g a, .g b, .g d] [.g d] 1 = true →
      s.gives (.sel st d a b) st 1 (.g d) (.g d (if x.rg d = 0 then x.rg b else x.rg a))) ∧
    (∀ p l : Fin 64, p.1 + l.1 + 1 ≤ 64 → s.canIssue [.g a, .g d] [.g d] 1 = true →
      s.gives (.bins st d a p l) st 1 (.g d) (.g d (BitVec.ofNat 64 (putBits (x.rg d).toNat p.1 (l.1 + 1) (x.rg a).toNat)))) ∧
    (∀ i : Fin 262144, s.canIssue [] [.g d] 1 = true →
      s.gives (.lui st d i) st 1 (.g d) (.g d (BitVec.ofInt 64 (signedOf 18 i.1) <<< 13)) ∧
      s.gives (.addpc st d i) st 1 (.g d) (.g d (x.pc.setWidth 64 + (BitVec.ofInt 64 (signedOf 18 i.1) <<< 13))))) ∧
  (∀ (s : State) (st : Fin 8) (d a b : Fin 32), s.canIssue [.g a, .g b] [.g d] 3 = true →
    let x := s.atIssue.my
    s.gives (.mul st d a b) st 3 (.g d) (.g d (BitVec.ofNat 64 ((x.rg a).toNat * (x.rg b).toNat))) ∧
    s.gives (.mulh st d a b) st 3 (.g d) (.g d (BitVec.ofInt 64 ((x.rg a).toInt * (x.rg b).toInt / 2 ^ 64))) ∧
    s.gives (.mulhu st d a b) st 3 (.g d) (.g d (BitVec.ofNat 64 ((x.rg a).toNat * (x.rg b).toNat / 2 ^ 64))))

/-- R161: division truncates toward zero, a remainder takes the sign of the dividend; by zero the quotient is all ones and the
remainder the dividend; the signed overflow −2^63 / −1 gives −2^63 and 0. No fault: a result of variable latency. -/
def Obligations.Division : Prop :=
  ∀ (s : State) (st : Fin 8) (d a b : Fin 32), s.canIssue [.g a, .g b] [.g d] 0 = true →
    let x := s.atIssue.my.rg a
    let y := s.atIssue.my.rg b
    s.givesLater s.atIssue (.div st d a b) st (.g d) (.g d (
      if y = 0 then 0xFFFFFFFFFFFFFFFF else if x.toInt = -2 ^ 63 ∧ y.toInt = -1 then x else BitVec.ofInt 64 (Int.tdiv x.toInt y.toInt))) ∧
    s.givesLater s.atIssue (.rem st d a b) st (.g d) (.g d (
      if y = 0 then x else if x.toInt = -2 ^ 63 ∧ y.toInt = -1 then 0 else BitVec.ofInt 64 (Int.tmod x.toInt y.toInt))) ∧
    s.givesLater s.atIssue (.divu st d a b) st (.g d) (.g d (
      if y = 0 then 0xFFFFFFFFFFFFFFFF else BitVec.ofNat 64 (x.toNat / y.toNat))) ∧
    s.givesLater s.atIssue (.remu st d a b) st (.g d) (.g d (if y = 0 then x else BitVec.ofNat 64 (x.toNat % y.toNat)))

/-- R165, Table 7-4: the conditional branches, taken, not taken and barred in a handler.

R166: `jal` links through g31; `jalr` takes its target from the old value of the register that it may write, and raises ALIGN,
with the target as its address, where the target is no multiple of 4; in a handler a target outside its words raises ILLEGAL (R60). -/
def Obligations.BranchesAndJumps : Prop :=
  (∀ (s : State) (st : Fin 8) (a b : Fin 32) (o : Fin 2048), s.canIssue [.g a, .g b] [] 1 = true →
    let x := s.atIssue.my.rg a
    let y := s.atIssue.my.rg b
    s.BranchesOn (.beq st a b o) st o (x = y) ∧
    s.BranchesOn (.bne st a b o) st o (x ≠ y) ∧
    s.BranchesOn (.blt st a b o) st o (x.toInt < y.toInt) ∧
    s.BranchesOn (.bge st a b o) st o (y.toInt ≤ x.toInt) ∧
    s.BranchesOn (.bltu st a b o) st o (x.toNat < y.toNat) ∧
    s.BranchesOn (.bgeu st a b o) st o (y.toNat ≤ x.toNat)) ∧
  (∀ (s : State) (st : Fin 8),
    let x := s.atIssue.my
    (∀ o : Fin 8388608, s.canIssue [] [.g 31] 1 = true →
      let target := x.pc + BitVec.ofInt 56 (4 * signedOf 23 o.1)
      (x.mayGo target = true → s.jumps (.jal st o) st 31 target) ∧ (x.mayGo target = false → s.traps (.jal st o) .illegal 0)) ∧
    (∀ (d a : Fin 32) (i : Fin 8192), s.canIssue [.g a] [.g d] 1 = true →
      let target : VAddr := BitVec.ofInt 56 ((x.rg a).toInt + signedOf 13 i.1)
      (target.toNat % 4 = 0 → x.mayGo target = true → s.jumps (.jalr st d a i) st d target) ∧
      (target.toNat % 4 ≠ 0 → s.traps (.jalr st d a i) .align (target.setWidth 64)) ∧
      (target.toNat % 4 = 0 → x.mayGo target = false → s.traps (.jalr st d a i) .illegal 0)))

/-- R168 to R170, Table 7-5: the capability instructions, latency 1; a result for k0 is discarded. `cap.get` reads the selected field,
tagged or not.

R121, R169: no capability instruction gives a tagged capability with more authority than the one it came from, and a well-formed
capability stays well formed (R118): bounds only shrink, permissions only drop, and `cap.bnd` either gives exactly the bytes asked for
or clears the tag and leaves the 128 bits. -/
def Obligations.CapabilityInstructions : Prop :=
  (∀ (s : State) (st : Fin 8) (d a : Fin 16) (b : Fin 32),
    let x := s.atIssue.my
    (s.canIssue [.k a, .g b] [.k d] 1 = true →
      s.gives (.capBnd st d a b) st 1 (.k d) (.k d ((x.rk a).bound (x.rg b).toNat)) ∧
      s.gives (.capPrm st d a b) st 1 (.k d) (.k d
        ⟨(x.rk a).bits &&& (((x.rg b).setWidth 8 ++ BitVec.allOnes 120 : BitVec 128)), (x.rk a).tag⟩) ∧
      s.gives (.capSet st d a b) st 1 (.k d) (.k d ((x.rk a).withCursor ((x.rg b).setWidth 56))) ∧
      s.gives (.capAdd st d a b) st 1 (.k d) (.k d ((x.rk a).withCursor ((x.rk a).cursor + (x.rg b).setWidth 56)))) ∧
    (∀ i : Fin 8192, s.canIssue [.k a] [.k d] 1 = true →
      s.gives (.capAddImm st d a i) st 1 (.k d) (.k d ((x.rk a).withCursor ((x.rk a).cursor + BitVec.ofInt 56 (signedOf 13 i.1))))) ∧
    (∀ (g c : Fin 32), c.1 ≤ 5 → s.canIssue [.k a] [.g g] 1 = true →
      s.gives (.capGet st g a c) st 1 (.g g) (.g g (
        if c.1 = 0 then (x.rk a).cursor.setWidth 64
        else if c.1 = 1 then BitVec.ofNat 64 (x.rk a).base
        else if c.1 = 2 then BitVec.ofNat 64 (x.rk a).len
        else if c.1 = 3 then BitVec.ofNat 64 (x.rk a).perms
        else if c.1 = 4 then (if (x.rk a).tag then 1 else 0)
        else (x.rk a).cursor.setWidth 64 - BitVec.ofNat 64 (x.rk a).base)))) ∧
  (∀ (k : Cap) (n : Nat) (c : VAddr) (m : BitVec 8), k.wellFormed = true →
    let within := fun (j : Cap) => j.tag = true → k.tag = true ∧ k.base ≤ j.base ∧ j.base + j.len ≤ k.base + k.len ∧
      j.perms &&& k.perms = j.perms ∧ j.wellFormed = true
    within (k.bound n) ∧ within (k.withCursor c) ∧ within ⟨k.bits &&& (m ++ BitVec.allOnes 120 : BitVec 128), k.tag⟩ ∧
    ((k.bound n).tag = true → (k.bound n).base = k.cursor.toNat ∧ (k.bound n).len = n ∧ (k.bound n).cursor = k.cursor) ∧
    ((k.bound n).tag = false → (k.bound n).bits = k.bits) ∧
    (k.withCursor c).cursor = c ∧ (k.withCursor c).base = k.base ∧ (k.withCursor c).len = k.len ∧ (k.withCursor c).perms = k.perms)

/-- R171, R173, Table 7-7: the loads of major 0x18 in both modes: sign or zero extension to 64 bits, `ld.x` into the lower half of a v
register with the upper half kept.

R174: an acquire load gives what the load of its width gives; in this model its read is performed when it issues, so that every later
access of the context comes after it (log entry 15: the model's choice). -/
def Obligations.Loads : Prop :=
  (∀ (s : State) (st : Fin 8) (d : Fin 32) (k : Fin 16),
    (∀ i : Fin 1024, s.canIssue [.k k] [.g d] 0 = true →
      s.Loads (.ldB st d k i) st (.disp k i) (.g d) 1 permR (fun bs => .g d (BitVec.ofInt 64 (signedOf 8 (leNat bs)))) ∧
      s.Loads (.ldBu st d k i) st (.disp k i) (.g d) 1 permR (fun bs => .g d (BitVec.ofNat 64 (leNat bs))) ∧
      s.Loads (.ldH st d k i) st (.disp k i) (.g d) 2 permR (fun bs => .g d (BitVec.ofInt 64 (signedOf 16 (leNat bs)))) ∧
      s.Loads (.ldHu st d k i) st (.disp k i) (.g d) 2 permR (fun bs => .g d (BitVec.ofNat 64 (leNat bs))) ∧
      s.Loads (.ldW st d k i) st (.disp k i) (.g d) 4 permR (fun bs => .g d (BitVec.ofInt 64 (signedOf 32 (leNat bs)))) ∧
      s.Loads (.ldWu st d k i) st (.disp k i) (.g d) 4 permR (fun bs => .g d (BitVec.ofNat 64 (leNat bs))) ∧
      s.Loads (.ldD st d k i) st (.disp k i) (.g d) 8 permR (fun bs => .g d (BitVec.ofInt 64 (signedOf 64 (leNat bs))))) ∧
    (∀ (x : Fin 32) (c : Fin 4), s.canIssue [.k k, .g x] [.g d] 0 = true →
      s.Loads (.ldBIdx st d k x c) st (.idx k x c) (.g d) 1 permR (fun bs => .g d (BitVec.ofInt 64 (signedOf 8 (leNat bs)))) ∧
      s.Loads (.ldBuIdx st d k x c) st (.idx k x c) (.g d) 1 permR (fun bs => .g d (BitVec.ofNat 64 (leNat bs))) ∧
      s.Loads (.ldHIdx st d k x c) st (.idx k x c) (.g d) 2 permR (fun bs => .g d (BitVec.ofInt 64 (signedOf 16 (leNat bs)))) ∧
      s.Loads (.ldHuIdx st d k x c) st (.idx k x c) (.g d) 2 permR (fun bs => .g d (BitVec.ofNat 64 (leNat bs))) ∧
      s.Loads (.ldWIdx st d k x c) st (.idx k x c) (.g d) 4 permR (fun bs => .g d (BitVec.ofInt 64 (signedOf 32 (leNat bs)))) ∧
      s.Loads (.ldWuIdx st d k x c) st (.idx k x c) (.g d) 4 permR (fun bs => .g d (BitVec.ofNat 64 (leNat bs))) ∧
      s.Loads (.ldDIdx st d k x c) st (.idx k x c) (.g d) 8 permR (fun bs => .g d (BitVec.ofInt 64 (signedOf 64 (leNat bs))))) ∧
    (∀ i : Fin 1024, s.canIssue [.k k] [.v d] 0 = true →
      s.Loads (.ldX st d k i) st (.disp k i) (.v d) 64 permR (fun bs => .vlo d (BitVec.ofNat 512 (leNat bs)))) ∧
    (∀ (x : Fin 32) (c : Fin 4), s.canIssue [.k k, .g x] [.v d] 0 = true →
      s.Loads (.ldXIdx st d k x c) st (.idx k x c) (.v d) 64 permR (fun bs => .vlo d (BitVec.ofNat 512 (leNat bs))))) ∧
  (∀ (s : State) (st : Fin 8) (d : Fin 32) (k : Fin 16) (x : Fin 32) (c : Fin 4) (p : Fin 8), s.canIssue [.k k, .g x] [.g d] 0 = true →
    s.Loads (.ldBAcq st d k x c p) st (.idx k x c) (.g d) 1 permR (fun bs => .g d (BitVec.ofInt 64 (signedOf 8 (leNat bs)))) ∧
    s.Loads (.ldBuAcq st d k x c p) st (.idx k x c) (.g d) 1 permR (fun bs => .g d (BitVec.ofNat 64 (leNat bs))) ∧
    s.Loads (.ldHAcq st d k x c p) st (.idx k x c) (.g d) 2 permR (fun bs => .g d (BitVec.ofInt 64 (signedOf 16 (leNat bs)))) ∧
    s.Loads (.ldHuAcq st d k x c p) st (.idx k x c) (.g d) 2 permR (fun bs => .g d (BitVec.ofNat 64 (leNat bs))) ∧
    s.Loads (.ldWAcq st d k x c p) st (.idx k x c) (.g d) 4 permR (fun bs => .g d (BitVec.ofInt 64 (signedOf 32 (leNat bs)))) ∧
    s.Loads (.ldWuAcq st d k x c p) st (.idx k x c) (.g d) 4 permR (fun bs => .g d (BitVec.ofNat 64 (leNat bs))) ∧
    s.Loads (.ldDAcq st d k x c p) st (.idx k x c) (.g d) 8 permR (fun bs => .g d (BitVec.ofInt 64 (signedOf 64 (leNat bs)))))

/-- R171 to R174, Table 7-7: the stores of majors 0x19 and 0x1B: the low bytes of the register, little-endian, into the store buffer. A
release store carries its scope.

R127, R172: a store that leaves its buffer for plain memory of the module writes its bytes, all of them, and no other byte; it goes when
no host cache may hold a line of it (R396); a tagged one sets its granule's tag.

R127: a context reads its own buffered stores, the newest first, before memory, byte by byte.

R4, R120, R374: a write of bytes changes exactly them: each reads as written, every other byte as before; the tags of the granules it
touches are cleared and no other; a poisoned byte of a protection unit whose poisoned bytes are all overwritten is poisoned no more, and
every other stays poisoned (which bytes form a unit is the implementation's: log entry 90). Memory stays in its canonical form.

R113, R116, R120: the operations through which memory is written keep its canonical form (addresses strictly rising, no entry that equals
what an unlisted address reads as), from whatever state. -/
def Obligations.StoresReachMemory : Prop :=
  (∀ (s : State) (st : Fin 8) (d : Fin 32) (k : Fin 16),
    let b := fun n => leBytes n (s.atIssue.my.rg d).toNat
    (∀ i : Fin 1024, s.canIssue [.g d, .k k] [] 1 = true →
      s.Stores (.stB st d k i) st (.disp k i) permW false none (b 1) ∧
      s.Stores (.stH st d k i) st (.disp k i) permW false none (b 2) ∧
      s.Stores (.stW st d k i) st (.disp k i) permW false none (b 4) ∧
      s.Stores (.stD st d k i) st (.disp k i) permW false none (b 8)) ∧
    (∀ (x : Fin 32) (c : Fin 4), s.canIssue [.g d, .k k, .g x] [] 1 = true →
      s.Stores (.stBIdx st d k x c) st (.idx k x c) permW false none (b 1) ∧
      s.Stores (.stHIdx st d k x c) st (.idx k x c) permW false none (b 2) ∧
      s.Stores (.stWIdx st d k x c) st (.idx k x c) permW false none (b 4) ∧
      s.Stores (.stDIdx st d k x c) st (.idx k x c) permW false none (b 8) ∧
      (∀ p : Fin 8,
        s.Stores (.stBRel st d k x c p) st (.idx k x c) permW false (some p.1) (b 1) ∧
        s.Stores (.stHRel st d k x c p) st (.idx k x c) permW false (some p.1) (b 2) ∧
        s.Stores (.stWRel st d k x c p) st (.idx k x c) permW false (some p.1) (b 4) ∧
        s.Stores (.stDRel st d k x c p) st (.idx k x c) permW false (some p.1) (b 8)))) ∧
  (∀ (s : State) (c : Fin 4096) (x : Fin 4) (e : StoreEntry) (r : List StoreEntry), (s.ctx c.1 x).stores = e :: r →
    isPlain e.pa = true → regionOf e.pa < 0x20 → s.snoop e.pa e.bytes.length = none → e.mask = fullMask e.bytes.length →
    s.notifyAt e.pa e.bytes.length = [] →
    ∃ t, exec (.storePerformed c x) s = .next t ∧ (t.ctx c.1 x).stores = r ∧
      (∀ a, t.byteAt a = if e.pa ≤ a ∧ a < e.pa + e.bytes.length then e.bytes.getD (a - e.pa) 0 else s.byteAt a) ∧
      (e.tag = true → t.tagAt e.pa = true) ∧
      t = { s with mem := t.mem, tags := t.tags, poison := t.poison, cores := t.cores }) ∧
  (∀ (s : State) (pa n i : Nat), isPlain pa = true → i < n →
    (s.viewAt pa n)[i]? = some ((bufferedByte (pa + i) s.my.stores).getD (s.byteAt (pa + i))) ∧ (s.viewAt pa n).length = n) ∧
  (∀ (s : State) (pa : Nat) (bs : List Byte),
    (s.mem.wf = true → (s.poke pa bs).mem.wf = true) ∧
    (∀ a, (s.poke pa bs).byteAt a = if pa ≤ a ∧ a < pa + bs.length then bs.getD (a - pa) 0 else s.byteAt a) ∧
    (s.poke pa bs).peek pa bs.length = bs ∧
    (∀ a, bs ≠ [] → ((s.poke pa bs).tagAt a = true ↔ s.tagAt a = true ∧ (a / 16 < pa / 16 ∨ (pa + bs.length - 1) / 16 < a / 16))) ∧
    (∀ a, a ∈ (s.poke pa bs).poison ↔ a ∈ s.poison ∧
      ∃ p ∈ s.poison, (p < pa ∨ pa + bs.length ≤ p) ∧ (p = a ∨ pa ≤ a ∧ a < pa + bs.length ∧ Config.protUnit p = Config.protUnit a)) ∧
    (∀ n, (s.mem.wf = true → (s.zero pa n).mem.wf = true) ∧ ∀ a, (s.zero pa n).byteAt a = if pa ≤ a ∧ a < pa + n then 0 else s.byteAt a)) ∧
  (∀ (s : State) (pa n id p : Nat) (bs : List Byte) (q : Queue) (k : Option FiringKey) (urg : Bool) (it : Item) (t : TileRef) (r : FaultRec)
    (c : Cause) (x : Dword) (l : BitVec 32),
    s.mem.wf = true →
    (s.poke pa bs).mem.wf = true ∧ (s.zero pa n).mem.wf = true ∧ (s.writePlain pa bs).mem.wf = true ∧ (s.ringWrite q pa bs).mem.wf = true ∧
    (s.accept id p urg it).mem.wf = true ∧ (s.push id p k urg it).mem.wf = true ∧ (s.pushDevice id urg it).mem.wf = true ∧
    (s.report t r).mem.wf = true ∧ (s.raise c x).mem.wf = true ∧ (s.take id p urg l).mem.wf = true ∧
    (s.hostHalf id).mem.wf = true)

/-- R119, R122, R171, R172: the address of each operand form, and the order of an access's checks: alignment, tag, permissions, bounds,
flash, translation, region and reach; an access that passes has passed them all, and one that fails behind its translation keeps what the
translation has done (`u`, R363).

R113, R119, R16, R22, R31, R345, R122: where an access may go once it is translated: regions 0x03 and 0x04 raise PRIV at tile privilege, an
address that holds nothing, a record of an element that its island lacks, or a place on a die that no bridges of the partition lead to
raises BUSERR, and one beyond the agent's die raises PERM without G; what lies beyond the module is reached with G, but that a peer that lets this module not in
answers PERM (R404; which offsets it refuses is a free value, log entry 92); HBM and canopy of the own die are reached, and in region 0x02 only
the firewall refuses what is left (log entries 66 and 67 for the model's readings). -/
def Obligations.AccessChecks : Prop :=
  ((∀ (x : Ctx) (k : Fin 16) (i : Fin 1024) (r : Fin 32) (c : Fin 4) (n : Nat),
    (MemOp.disp k i).addr x n = (((x.rk k).cursor.toNat : Int) + signedOf 10 i.1 * n) % 2 ^ 56 ∧
    (MemOp.idx k r c).addr x n = ((x.rk k).cursor.toNat + (x.rg r).toNat * 2 ^ c.1) % 2 ^ 56 ∧
    (MemOp.off k r).addr x n = ((x.rk k).cursor.toNat + (x.rg r).toNat) % 2 ^ 56) ∧
  (∀ (s : State) (a : Access) (k : Cap) (va n al need : Nat) (kind : Fin 4),
    let got := s.checked a k va n al need kind
    (va % al ≠ 0 → got = .fault s .align va) ∧
    (va % al = 0 →
      (k.tag = false → got = .fault s .perm va) ∧
      (k.tag = true →
        (k.perms &&& need ≠ need → got = .fault s .perm va) ∧
        (k.perms &&& need = need →
          (¬(k.base ≤ va ∧ va + n ≤ k.base + k.len) → got = .fault s .bounds va) ∧
          (k.base ≤ va → va + n ≤ k.base + k.len → s.outsideBody a va n = false →
            (s.inFlash a.job va = true → got = .fault s .perm va) ∧
            (s.inFlash a.job va = false →
              (∀ u c, s.look a va kind = .fail u c → got = .fault u c va) ∧
              (∀ u, s.look a va kind = .miss u → got = .miss u) ∧
              (∀ u pa eff, s.look a va kind = .hit u pa eff →
                (∀ c, u.route a k.hasG pa = some c → got = .fault u c va) ∧
                (u.route a k.hasG pa = none → got = .ok u pa (eff || k.hasF)))))))))) ∧
  (∀ (s : State) (a : Access) (g : Bool) (pa : Nat), regionOf pa ≠ 256 →
    let led := s.reaches (dieOfIsland a.island) (dieOfPa pa)
    ((regionOf pa = 3 ∨ regionOf pa = 4) → a.priv = 0 → ¬(regionOf pa = 3 ∧ subOf pa = 2) → s.route a g pa = some .priv) ∧
    (a.priv ≠ 0 → populated pa = false → s.route a g pa = some .buserr) ∧
    (a.priv ≠ 0 → s.fusedRecord pa = true → s.route a g pa = some .buserr) ∧
    (regionOf pa ≤ 2 → populated pa = true → led = false → s.route a g pa = some .buserr) ∧
    (regionOf pa ≤ 2 → populated pa = true → led = true → dieOfPa pa ≠ dieOfIsland a.island → s.route a false pa = some .perm) ∧
    (16 ≤ regionOf pa → populated pa = true → s.route a false pa = some .perm ∧
      (isPeerRegion (regionOf pa) = false → s.route a true pa = none) ∧
      (isPeerRegion (regionOf pa) = true →
        s.route a true pa = if Config.peerRefuses s.turns (regionOf pa - 0x20) (pa % 2 ^ 44) then some .perm else none)) ∧
    (regionOf pa ≤ 1 → populated pa = true → led = true → (g = true ∨ dieOfPa pa = dieOfIsland a.island) → s.route a g pa = none) ∧
    (regionOf pa = 2 → populated pa = true → led = true → (g = true ∨ dieOfPa pa = dieOfIsland a.island) →
      s.route a g pa = if s.firewalled a pa then some .perm else none))

/-- R80, R81, R175: `ld.fe` on a full line reads 8 bytes and leaves it empty, `st.fe` on an empty line writes 8 bytes and leaves it full, both
with their store buffer drained first (`u`); the line is a scratchpad's. Accesses that wait for one state of a line are performed in the
order in which they arrived: one that is not the first of them waits.

R176, R120: capability transfers. `ld.cap` gives the granule's 128 bits with its tag, once the context's own stores are performed (`v`);
`st.cap` stores the 128 bits with the register's tag, needing W and S where it is tagged and W otherwise; both raise PERM outside regions
0x00 to 0x02. -/
def Obligations.FullEmptyAndCapabilityTransfers : Prop :=
  (∀ (s : State) (st : Fin 8) (d : Fin 32) (m : MemOp) (ld se : Instr),
    (∃ k, (∃ i, m = .disp k i ∧ ld = .ldFe st d k i ∧ se = .stFe st d k i) ∨
      ∃ x c, m = .idx k x c ∧ ld = .ldFeIdx st d k x c ∧ se = .stFeIdx st d k x c) →
    let x := s.atIssue.my
    let va := m.addr x 8
    (s.canIssue m.regs [.g d] 0 = true →
      (∀ u pa, s.atIssue.fullEmptyAt (m.cap x) va permR 0 true = .ok u pa →
        isScratch pa = true ∧ u.isFull pa = true ∧ u.feBefore (pa / 128) true (u.placeAt (pa / 128) true) = false ∧
        s.givesLater (u.setFull pa false) ld st (.g d) (.g d (u.peekD pa)) ∧
        ∀ a, (u.setFull pa false).isFull a = (if a / 128 = pa / 128 then false else u.isFull a)) ∧
      (∀ u c, s.atIssue.fullEmptyAt (m.cap x) va permR 0 true = .fault u c → s.trapsIn u ld c (BitVec.ofNat 64 va)) ∧
      (∀ w u, s.atIssue.fullEmptyAt (m.cap x) va permR 0 true = .wait w u → exec ld s = .next (u.hold w (s.my.since.getD s.issueCycle)))) ∧
    (s.canIssue (.g d :: m.regs) [] 1 = true →
      (∀ u pa, s.atIssue.fullEmptyAt (m.cap x) va permW 1 false = .ok u pa →
        isScratch pa = true ∧ u.isFull pa = false ∧ u.feBefore (pa / 128) false (u.placeAt (pa / 128) false) = false ∧
        s.does ((u.pokeD pa (x.rg d)).setFull pa true) se st none ∧
        ∀ a, ((u.pokeD pa (x.rg d)).setFull pa true).isFull a = (if a / 128 = pa / 128 then true else u.isFull a)) ∧
      (∀ u c, s.atIssue.fullEmptyAt (m.cap x) va permW 1 false = .fault u c → s.trapsIn u se c (BitVec.ofNat 64 va)) ∧
      (∀ w u, s.atIssue.fullEmptyAt (m.cap x) va permW 1 false = .wait w u → exec se s = .next (u.hold w (s.my.since.getD s.issueCycle))))) ∧
  (∀ (s : State) (st : Fin 8) (d : Fin 16) (m : MemOp) (ld se : Instr),
    (∃ k, (∃ i, m = .disp k i ∧ ld = .ldCap st d k i ∧ se = .stCap st d k i) ∨
      ∃ x c, m = .idx k x c ∧ ld = .ldCapIdx st d k x c ∧ se = .stCapIdx st d k x c) →
    let x := s.atIssue.my
    let va := m.addr x 16
    (s.canIssue m.regs [.k d] 0 = true →
      (∀ u c a, s.atIssue.checked s.atIssue.myAccess (m.cap x) va 16 16 (permR + permL) 0 = .fault u c a →
        s.trapsIn u ld c (BitVec.ofNat 64 a)) ∧
      ∀ u pa eff, s.atIssue.checked s.atIssue.myAccess (m.cap x) va 16 16 (permR + permL) 0 = .ok u pa eff →
        (2 < regionOf pa → s.trapsIn u ld .perm (BitVec.ofNat 64 va)) ∧
        (∀ v, isPlain pa = true → regionOf pa ≤ 2 → u.ringBarred pa = false → u.drainMine = (v, true) → v.readBarred pa 16 = none →
          s.givesLater v ld st (.k d) (.k d ⟨BitVec.ofNat 128 (leNat (v.viewAt pa 16)), v.tagAt pa⟩))) ∧
    (s.canIssue (.k d :: m.regs) [] 1 = true →
      let need := if (x.rk d).tag then permW + permS else permW
      (∀ u pa eff v pb eg, s.atIssue.checked s.atIssue.myAccess (m.cap x) va 16 16 need 1 = .ok u pa eff → regionOf pa ≤ 2 →
        u.checked u.myAccess (m.cap x) va 16 16 need 1 = .ok v pb eg → v.writeBarred pb 16 = none →
        s.does (v.modMy (fun y => { y with stores := y.stores ++
          [⟨pb, leBytes 16 (x.rk d).bits.toNat, fullMask 16, (x.rk d).tag, BitVec.ofNat 56 va, y.pc, none⟩] })) se st none) ∧
      (∀ u pa eff, s.atIssue.checked s.atIssue.myAccess (m.cap x) va 16 16 need 1 = .ok u pa eff → 2 < regionOf pa →
        s.trapsIn u se .perm (BitVec.ofNat 64 va)) ∧
      (∀ u c a, s.atIssue.checked s.atIssue.myAccess (m.cap x) va 16 16 need 1 = .fault u c a → s.trapsIn u se c (BitVec.ofNat 64 a))))

/-- R177, R178, Table 7-8, R250: the atomics, `sig.set` (a swap) and `sig.add` (an add) among them. Once the checks pass and the store buffer is empty (`u`), the dword at the address becomes F(old, b)
and the register gets the old dword (for `amo.tas` the old bit); `amo.cas` writes only where the old dword equals the destination
register; a failed check is taken as an exception with the address. A line that a host cache may hold is snooped first (R396).

R129, R179, R180: a prefetch completes at issue and changes nothing a program sees, whatever its operand; a fence of kind `acq` goes on,
and one of another kind goes on once the context's stores are performed (`u`) and waits while one is not. -/
def Obligations.AtomicsAndFence : Prop :=
  (∀ (s : State) (st : Fin 8) (d a b : Fin 32) (k : Fin 16),
    let x := s.atIssue.my
    let va := x.memOff k a
    let ok := fun (host : Bool) (i : Instr) (f : Dword → Dword → Dword × Dword) =>
      (∀ u pa, s.atIssue.atomicAt (x.rk k) va host = .ok u pa → u.snoop pa 8 = none →
        s.givesLater (u.writePlain pa (dwordBytes (f (u.peekD pa) (x.rg b)).1)) i st (.g d) (.g d (f (u.peekD pa) (x.rg b)).2)) ∧
      (∀ u c, s.atIssue.atomicAt (x.rk k) va host = .fault u c → s.trapsIn u i c (BitVec.ofNat 64 va)) ∧
      (∀ w u, s.atIssue.atomicAt (x.rk k) va host = .wait w u → exec i s = .next (u.hold w (s.my.since.getD s.issueCycle)))
    (s.canIssue [.k k, .g a, .g b] [.g d] 0 = true →
      ok true (.amoAdd st d a b k) (fun old b => (old + b, old)) ∧
      ok false (.amoAnd st d a b k) (fun old b => (old &&& b, old)) ∧
      ok false (.amoOr st d a b k) (fun old b => (old ||| b, old)) ∧
      ok false (.amoXor st d a b k) (fun old b => (old ^^^ b, old)) ∧
      ok false (.amoMin st d a b k) (fun old b => (if old.toInt ≤ b.toInt then old else b, old)) ∧
      ok false (.amoMax st d a b k) (fun old b => (if old.toInt ≤ b.toInt then b else old, old)) ∧
      ok false (.amoMinu st d a b k) (fun old b => (if old.toNat ≤ b.toNat then old else b, old)) ∧
      ok false (.amoMaxu st d a b k) (fun old b => (if old.toNat ≤ b.toNat then b else old, old)) ∧
      ok true (.amoSwap st d a b k) (fun old b => (b, old)) ∧
      ok true (.sigSet st d a b k) (fun old b => (b, old)) ∧
      ok true (.sigAdd st d a b k) (fun old b => (old + b, old)) ∧
      ok false (.amoTas st d a b k) (fun old b => (old ||| BitVec.ofNat 64 (2 ^ (b.toNat % 64)), if old.getLsbD (b.toNat % 64) then 1 else 0))) ∧
    (s.canIssue [.k k, .g a, .g b, .g d] [.g d] 0 = true →
      ∀ u pa, s.atIssue.atomicAt (x.rk k) va true = .ok u pa →
        (u.peekD pa = x.rg d → u.snoop pa 8 = none →
          s.givesLater (u.writePlain pa (dwordBytes (x.rg b))) (.amoCas st d a b k) st (.g d) (.g d (u.peekD pa))) ∧
        (u.peekD pa ≠ x.rg d → s.givesLater u (.amoCas st d a b k) st (.g d) (.g d (u.peekD pa))))) ∧
  (∀ (s : State) (st : Fin 8) (k : Fin 16),
    (∀ i : Fin 1024, s.canIssue [.k k] [] 1 = true → s.does s.atIssue (.pf st k i) st none) ∧
    (∀ (x : Fin 32) (c : Fin 4), s.canIssue [.k k, .g x] [] 1 = true → s.does s.atIssue (.pfIdx st k x c) st none) ∧
    (∀ f p : Fin 8, s.canIssue [] [] 1 = true →
      (f.1 = 1 → s.does s.atIssue (.fence st f p) st none) ∧
      (f.1 ≠ 1 →
        (∀ u, s.atIssue.drainMine = (u, true) → u.my.stores = [] ∧ s.does u (.fence st f p) st none) ∧
        (∀ u, s.atIssue.drainMine = (u, false) → exec (.fence st f p) s = .next (u.hold .resource (s.my.since.getD s.issueCycle))))))

/-- R182 to R184, Table 8-3: the integer instructions, lane by lane at each width n of W: wrapping, saturating, signed and unsigned, shift
counts modulo the width. Inactive lanes keep their values.

R185: comparisons write all the mask bits of each active lane and keep those of the others; `vsel` writes every lane and does not read
its destination.

R200, Table 8-10: the mask instructions, latency 2. -/
def Obligations.VectorIntegerCompareAndMask : Prop :=
  (∀ (s : State) (st : Fin 8) (d va vb : Fin 32) (w : Fin 4) (m : Fin 8),
    let n := laneBits w
    let a := fun k => laneOf n (s.atIssue.my.rv va) k
    let b := fun k => laneOf n (s.atIssue.my.rv vb) k
    s.LaneResult (.vadd st d va vb w m) st d m n 2 [.v va, .v vb] (fun k => (a k + b k) % 2 ^ n) ∧
    s.LaneResult (.vsub st d va vb w m) st d m n 2 [.v va, .v vb] (fun k => (a k + 2 ^ n - b k) % 2 ^ n) ∧
    s.LaneResult (.vmul st d va vb w m) st d m n 2 [.v va, .v vb] (fun k => a k * b k % 2 ^ n) ∧
    s.LaneResult (.vmulh st d va vb w m) st d m n 2 [.v va, .v vb] (fun k => patternOf n (signedOf n (a k) * signedOf n (b k) / (2 ^ n : Nat))) ∧
    s.LaneResult (.vadds st d va vb w m) st d m n 2 [.v va, .v vb] (fun k => patternOf n (max (-(2 ^ (n - 1) : Nat)) (min (signedOf n (a k) + signedOf n (b k)) ((2 ^ (n - 1) : Nat) - 1)))) ∧
    s.LaneResult (.vsubs st d va vb w m) st d m n 2 [.v va, .v vb] (fun k => patternOf n (max (-(2 ^ (n - 1) : Nat)) (min (signedOf n (a k) - signedOf n (b k)) ((2 ^ (n - 1) : Nat) - 1)))) ∧
    s.LaneResult (.vmin st d va vb w m) st d m n 2 [.v va, .v vb] (fun k => if signedOf n (b k) < signedOf n (a k) then b k else a k) ∧
    s.LaneResult (.vmax st d va vb w m) st d m n 2 [.v va, .v vb] (fun k => if signedOf n (a k) < signedOf n (b k) then b k else a k) ∧
    s.LaneResult (.vminu st d va vb w m) st d m n 2 [.v va, .v vb] (fun k => min (a k) (b k)) ∧
    s.LaneResult (.vmaxu st d va vb w m) st d m n 2 [.v va, .v vb] (fun k => max (a k) (b k)) ∧
    s.LaneResult (.vand st d va vb w m) st d m n 2 [.v va, .v vb] (fun k => a k &&& b k) ∧
    s.LaneResult (.vor st d va vb w m) st d m n 2 [.v va, .v vb] (fun k => a k ||| b k) ∧
    s.LaneResult (.vxor st d va vb w m) st d m n 2 [.v va, .v vb] (fun k => a k ^^^ b k) ∧
    s.LaneResult (.vshl st d va vb w m) st d m n 2 [.v va, .v vb] (fun k => a k * 2 ^ (b k % n) % 2 ^ n) ∧
    s.LaneResult (.vshr st d va vb w m) st d m n 2 [.v va, .v vb] (fun k => a k / 2 ^ (b k % n)) ∧
    s.LaneResult (.vsra st d va vb w m) st d m n 2 [.v va, .v vb] (fun k => patternOf n (signedOf n (a k) / (2 ^ (b k % n) : Nat))) ∧
    s.LaneResult (.vabs st d va w m) st d m n 2 [.v va] (fun k => patternOf n (signedOf n (a k)).natAbs) ∧
    s.LaneResult (.vclz st d va w m) st d m n 2 [.v va] (fun k => clzN n (a k)) ∧
    s.LaneResult (.vpopc st d va w m) st d m n 2 [.v va] (fun k => popcN n (a k))) ∧
  (∀ (s : State) (st : Fin 8) (va vb : Fin 32) (w : Fin 4) (m : Fin 8), s.atIssue.vectorHeld = false →
    let n := laneBits w
    let x := s.atIssue.my
    let a := fun k => laneOf n (x.rv va) k
    let b := fun k => laneOf n (x.rv vb) k
    let mask := fun (i : Instr) (md : Fin 8) (hit : Nat → Bool) => ∃ r : Mask, s.gives i st 2 (.m md) (.m md r) ∧
      ∀ j, j < 128 → r.getLsbD j = if x.active m n (j / (n / 8)) then hit (j / (n / 8)) else (x.rm md).getLsbD j
    (∀ md : Fin 8, s.canIssue ([.v va, .v vb] ++ maskReads m (.m md)) [.m md] 2 = true →
      mask (.vcmp st 0 md va vb w m) md (fun k => a k == b k) ∧
      mask (.vcmp st 1 md va vb w m) md (fun k => a k != b k) ∧
      mask (.vcmp st 2 md va vb w m) md (fun k => decide (signedOf n (a k) < signedOf n (b k))) ∧
      mask (.vcmp st 3 md va vb w m) md (fun k => decide (signedOf n (b k) ≤ signedOf n (a k))) ∧
      mask (.vcmpUnsigned st 0 md va vb w m) md (fun k => decide (a k < b k)) ∧
      mask (.vcmpUnsigned st 1 md va vb w m) md (fun k => decide (b k ≤ a k))) ∧
    (∀ d : Fin 32, s.canIssue ([.v va, .v vb] ++ (if m.1 = 0 then [] else [.m m])) [.v d] 2 = true →
      ∃ r : VReg, s.gives (.vsel st d va vb w m) st 2 (.v d) (.v d r) ∧
        ∀ k, k < 1024 / n → laneOf n r k = if x.active m n k then a k else b k)) ∧
  (∀ (s : State) (st d a b : Fin 8) (r : Fin 32) (w : Fin 4), s.atIssue.vectorHeld = false →
    let x := s.atIssue.my
    let set := (List.range (1024 / (8 * 2 ^ w.1))).filter (fun k => (x.rm a).getLsbD (k * 2 ^ w.1))
    (s.canIssue [.m a, .m b] [.m d] 2 = true →
      s.gives (.mand st d a b) st 2 (.m d) (.m d (x.rm a &&& x.rm b)) ∧
      s.gives (.mor st d a b) st 2 (.m d) (.m d (x.rm a ||| x.rm b)) ∧
      s.gives (.mxor st d a b) st 2 (.m d) (.m d (x.rm a ^^^ x.rm b))) ∧
    (s.canIssue [.m a] [.m d] 2 = true → s.gives (.mnot st d a) st 2 (.m d) (.m d (~~~(x.rm a)))) ∧
    (s.canIssue [.m a] [.g r] 2 = true →
      s.gives (.mpop st r a w) st 2 (.g r) (.g r (BitVec.ofNat 64 set.length)) ∧
      s.gives (.mfirst st r a w) st 2 (.g r) (.g r (BitVec.ofNat 64 (set.headD (1024 / (8 * 2 ^ w.1)))))))

/-- R186 to R188, R97, R98, Table 8-4: the floating-point instructions, lane by lane in the format that W names under FPMODE.RM, with the
flags of the active lanes; `vfma` and `vfms` read their destination on every lane.

R187: what the comparisons and the lesser and greater of two patterns are: a NaN operand makes eq, lt and le false and un true; lt
and le raise NV for any NaN and the others for a signalling one; of two operands with one NaN the other is taken.

R97, R93: rounding a value that the format holds gives its own pattern, in every rounding mode and without a flag; a NaN becomes the
canonical NaN. -/
def Obligations.VectorFloat : Prop :=
  (∀ (s : State) (st : Fin 8) (d va vb : Fin 32) (w : Fin 4) (m : Fin 8),
    let t := laneFmt w
    let x := s.atIssue.my
    let rm := x.rmode
    let a := fun k => laneOf t.width (x.rv va) k
    let b := fun k => laneOf t.width (x.rv vb) k
    let c := fun k => laneOf t.width (x.rv d) k
    s.FloatResult (.vfadd st d va vb w m) st d m t.width [.v va, .v vb] (fun k => t.add rm (a k) (b k)) ∧
    s.FloatResult (.vfsub st d va vb w m) st d m t.width [.v va, .v vb] (fun k => t.sub rm (a k) (b k)) ∧
    s.FloatResult (.vfmul st d va vb w m) st d m t.width [.v va, .v vb] (fun k => t.mul rm (a k) (b k)) ∧
    s.FloatResult (.vfmin st d va vb w m) st d m t.width [.v va, .v vb] (fun k => t.pick false (a k) (b k)) ∧
    s.FloatResult (.vfmax st d va vb w m) st d m t.width [.v va, .v vb] (fun k => t.pick true (a k) (b k)) ∧
    s.FloatResult (.vfma st d va vb w m) st d m t.width [.v va, .v vb, .v d] (fun k => t.fma rm (a k) (b k) (c k)) ∧
    s.FloatResult (.vfms st d va vb w m) st d m t.width [.v va, .v vb, .v d] (fun k => t.fms rm (a k) (b k) (c k)) ∧
    s.FloatResult (.vfabs st d va w m) st d m t.width [.v va] (fun k => ⟨a k % 2 ^ (t.width - 1), 0⟩) ∧
    s.FloatResult (.vfneg st d va w m) st d m t.width [.v va] (fun k => ⟨a k ^^^ 2 ^ (t.width - 1), 0⟩) ∧
    s.FloatResult (.vfrcpe st d va w m) st d m t.width [.v va] (fun k => t.recipEst rm (a k)) ∧
    s.FloatResult (.vfrsqe st d va w m) st d m t.width [.v va] (fun k => t.rsqrtEst rm (a k)) ∧
    (∀ (c : Fin 4) (md : Fin 8), s.atIssue.vectorHeld = false → s.canIssue ([.v va, .v vb] ++ maskReads m (.m md)) [.m md] 4 = true →
      ∃ (r : Mask) (fl : BitVec 5) (u : State), exec (.vfcmp st c md va vb w m) s = .next u ∧ Done s.atIssue u st none [.m md] true ∧
        u.my.has s.atIssue.now 4 (.m md r) ∧ u.my.has s.atIssue.now 4 (.flags fl) ∧
        (∀ j, j < 128 → r.getLsbD j = if x.active m t.width (j / (t.width / 8)) then
          (t.compare c.1 (a (j / (t.width / 8))) (b (j / (t.width / 8)))).1 else (x.rm md).getLsbD j) ∧
        ∀ j : Nat, fl.getLsbD j = true ↔
          ∃ k, k < 1024 / t.width ∧ x.active m t.width k = true ∧ (t.compare c.1 (a k) (b k)).2.getLsbD j = true)) ∧
  (∀ (t : Fmt) (a b : Nat),
    let nan := (t.value a).isNan || (t.value b).isNan
    let snan := (t.value a).signalling || (t.value b).signalling
    (nan = true → (t.compare 0 a b).1 = false ∧ (t.compare 1 a b).1 = false ∧ (t.compare 2 a b).1 = false ∧ (t.compare 3 a b).1 = true ∧
      (t.compare 1 a b).2 = flagNV ∧ (t.compare 2 a b).2 = flagNV ∧
      (t.compare 0 a b).2 = (if snan then flagNV else 0) ∧ (t.compare 3 a b).2 = (if snan then flagNV else 0)) ∧
    (nan = false → ∀ c, (t.compare c a b).2 = 0) ∧
    (nan = false → (t.compare 3 a b).1 = false ∧ ((t.compare 2 a b).1 = ((t.compare 1 a b).1 || (t.compare 0 a b).1)) ∧
      (t.compare 1 b a).1 = !(t.compare 2 a b).1) ∧
    (∀ g, ((t.value a).isNan = true → (t.value b).isNan = true → (t.pick g a b).bits = t.nan) ∧
      ((t.value a).isNan = true → (t.value b).isNan = false → (t.pick g a b).bits = b) ∧
      ((t.value a).isNan = false → (t.value b).isNan = true → (t.pick g a b).bits = a) ∧
      (t.pick g a b).flags = if snan then flagNV else 0)) ∧
  (∀ (t : Fmt) (mode x : Nat), t ∈ [binary64, binary32, binary16, bfloat16, e8m10] → x < 2 ^ t.width →
    ((t.value x).isNan = false → t.of mode (t.value x) = ⟨x, 0⟩) ∧
    ((t.value x).isNan = true → t.of mode (t.value x) = ⟨t.nan, if (t.value x).signalling then flagNV else 0⟩))

/-- R189, R190, R192, Tables 4-2 and 8-5: conversions between formats (widening from, narrowing into the part that P names), decoding
and encoding through a table, and the butterfly, lane by lane with their flags; `venc` through a table of class NONE raises TABLE.

R191, R111: block reduction writes the block and the scale, six cycles after issue; a table of class NONE raises TABLE and nothing
is written. -/
def Obligations.VectorConversions : Prop :=
  (∀ (s : State) (st : Fin 8) (d va vb : Fin 32), s.atIssue.vectorHeld = false →
    let x := s.atIssue.my
    let rm := x.fpmode.toNat
    let float := fun (i : Instr) (b n : Nat) (keep : Nat → Option FRes) (raise : Nat → Option FRes) =>
      ∃ (r : VReg) (fl : BitVec 5) (t : State), exec i s = .next t ∧ Done s.atIssue t st none [.v d] true ∧
        t.my.has s.atIssue.now 4 (.v d r) ∧ t.my.has s.atIssue.now 4 (.flags fl) ∧
        (∀ k, k < 1024 / b → laneOf b r k = ((keep k).map (·.bits)).getD (laneOf b (x.rv d) k) % 2 ^ b) ∧
        ∀ j : Nat, fl.getLsbD j = true ↔ ∃ k y, k < n ∧ raise k = some y ∧ y.flags.getLsbD j = true
    (∀ (t f : Fin 16) (p : Fin 4),
      let ws := fmtBits f.1
      let wd := fmtBits t.1
      (ws ≤ wd → s.canIssue [.v va] [.v d] 4 = true →
        let g := fun k => some (cvtLane rm t.1 f.1 (laneOf ws (x.rv va) (p.1 * (1024 / wd) + k)))
        float (.vcvt st d va t f p) wd (1024 / wd) g g) ∧
      (wd < ws → s.canIssue [.v va, .v d] [.v d] 4 = true →
        let n := 1024 / ws
        let g := fun k => cvtLane rm t.1 f.1 (laneOf ws (x.rv va) k)
        float (.vcvt st d va t f p) wd n (fun k => if p.1 * n ≤ k ∧ k < p.1 * n + n then some (g (k - p.1 * n)) else none) (fun k => some (g k)))) ∧
    (∀ (t f p : Fin 4) (m : Fin 8),
      let tb := (s.atIssue.core s.cur).mu.table t.1
      let (fm, w) := codeFmt f
      let n := 1024 / w
      (s.canIssue ([.v va] ++ maskReads m (.v d)) [.v d] 4 = true →
        let g := fun k => if x.active m w k then
          some (let c := laneOf 8 (x.rv va) (p.1 * n + k)
                if f.1 = 3 then ⟨tb.val c, 0⟩ else fm.of rm (tb.decode c)) else none
        float (.vdec st d va t f p m) w n g g) ∧
      (s.canIssue ([.v va, .v d] ++ (if m.1 = 0 then [] else [.m m])) [.v d] 4 = true →
        (tb.cls = .none → s.traps (.venc st d va t f p m) .table 0) ∧
        (tb.cls ≠ .none →
          let g := fun k => if x.active m w k then some (tb.encode (fm.value (laneOf w (x.rv va) k % 2 ^ fm.width))) else none
          float (.venc st d va t f p m) 8 n (fun k => if p.1 * n ≤ k ∧ k < p.1 * n + n then g (k - p.1 * n) else none) g))) ∧
    (∀ (w : Fin 4) (g : Fin 8), s.canIssue [.v va, .v vb] [.v d] 4 = true →
      let t := laneFmt w
      let h := 2 ^ g.1
      let a := fun k => t.value (laneOf t.width (x.rv va) k)
      let b := fun k => t.value (laneOf t.width (x.rv vb) k)
      let f := fun k => if k / h % 2 = 0 then some (t.fmaV rm (a (k + h)) (b (k + h)) (a k)) else some (t.fmaV rm (a k).flip (b k) (a (k - h)))
      float (.vbfly st d va vb w g) t.width (1024 / t.width) f f)) ∧
  (∀ (s : State) (st : Fin 8) (d va vb : Fin 32) (t : Fin 4), s.atIssue.vectorHeld = false →
    s.canIssue [.v va, .v vb, .g d] [.v d, .g d] 6 = true →
    let x := s.atIssue.my
    let tb := (s.atIssue.core s.cur).mu.table t.1
    let codes := fun (v : VReg) => (List.range 128).map (fun k => laneOf 8 v k)
    let z := tb.reduce (codes (x.rv va)) (codes (x.rv vb)) (bitsOf (x.rg d).toNat 0 16) (bitsOf (x.rg d).toNat 16 16)
    (tb.cls = .none → s.traps (.vbaq st d va vb t) .table 0) ∧
    (tb.cls ≠ .none → ∃ (r : VReg) (u : State), exec (.vbaq st d va vb t) s = .next u ∧ Done s.atIssue u st none [.v d, .g d] ∧
      u.my.has s.atIssue.now 6 (.v d r) ∧ u.my.has s.atIssue.now 6 (.g d (BitVec.ofNat 64 z.2)) ∧
      ∀ k, k < 128 → laneOf 8 r k = (z.1.getD k 0) % 256))

/-- R197, Table 8-8: movement: broadcast, permutation by lane numbers modulo N, slide with zeros in, compression (every lane written) and
expansion.

R198, Table 8-9: a reduction combines the lanes, inactive ones at the identity, pairwise as a tree into a g register, with the flags
of a floating-point one; each operation has its combination, identity and extension. -/
def Obligations.VectorMovementAndReduction : Prop :=
  (∀ (s : State) (st : Fin 8) (d va vb : Fin 32) (w : Fin 4) (m : Fin 8),
    let n := laneBits w
    let x := s.atIssue.my
    let a := fun k => laneOf n (x.rv va) k
    s.LaneResult (.vbcast st d va w m) st d m n 2 [.g va] (fun _ => (x.rg va).toNat) ∧
    s.LaneResult (.vperm st d va vb w m) st d m n 2 [.v va, .v vb] (fun k => a (laneOf n (x.rv vb) k % (1024 / n))) ∧
    s.LaneResult (.vslide st d va vb w m) st d m n 2 [.v va, .g vb] (fun k =>
      if 0 ≤ (k : Int) + (x.rg vb).toInt ∧ (k : Int) + (x.rg vb).toInt < (1024 / n : Nat) then a ((k : Int) + (x.rg vb).toInt).toNat else 0) ∧
    s.LaneResult (.vexpd st d va w m) st d m n 2 [.v va] (fun k => a ((x.activeList m n).idxOf k)) ∧
    (s.atIssue.vectorHeld = false → s.canIssue ([.v va] ++ (if m.1 = 0 then [] else [.m m])) [.v d] 2 = true →
      ∃ r : VReg, s.gives (.vcomp st d va w m) st 2 (.v d) (.v d r) ∧ ∀ k, k < 1024 / n →
        laneOf n r k = (((x.activeList m n)[k]?).map a).getD 0)) ∧
  ((∀ (s : State) (st : Fin 8) (d va o : Fin 32) (w : Fin 4) (m : Fin 8), s.atIssue.vectorHeld = false →
    s.canIssue (.v va :: (if m.1 = 0 then [] else [.m m])) [.g d] (if o.1 ≤ 7 then 2 else 4) = true →
    let x := s.atIssue.my
    let op := redOp o.1 w x.fpmode.toNat
    let y := treeReduce (fun p q => ⟨(op.2.1 p.bits q.bits).bits, p.flags ||| q.flags ||| (op.2.1 p.bits q.bits).flags⟩) 7
      ((List.range (1024 / op.1)).map (fun k => ⟨if x.active m op.1 k then laneOf op.1 (x.rv va) k else op.2.2.1, 0⟩))
    let lat := if o.1 ≤ 7 then 2 else 4
    ∃ t, exec (.vred st d va o w m) s = .next t ∧ Done s.atIssue t st none [.g d] true ∧
      t.my.has s.atIssue.now lat (.g d (if op.2.2.2 then BitVec.ofInt 64 (signedOf op.1 y.bits) else BitVec.ofNat 64 y.bits)) ∧
      t.my.has s.atIssue.now lat (.flags y.flags)) ∧
  (∀ (w : Fin 4) (mode a b : Nat),
    let n := 8 * 2 ^ w.1
    let f := laneFmt w
    let row := fun (o r id : Nat) (sg : Bool) => (redOp o w mode).1 = n ∧ ((redOp o w mode).2.1 a b) = ⟨r, 0⟩ ∧
      (redOp o w mode).2.2 = (id, sg)
    row 0 ((a + b) % 2 ^ n) 0 false ∧ row 1 (if signedOf n b < signedOf n a then b else a) (2 ^ (n - 1) - 1) true ∧
    row 2 (if signedOf n a < signedOf n b then b else a) (2 ^ (n - 1)) true ∧ row 3 (min a b) (2 ^ n - 1) false ∧ row 4 (max a b) 0 false ∧
    row 5 (a &&& b) (2 ^ n - 1) false ∧ row 6 (a ||| b) 0 false ∧ row 7 (a ^^^ b) 0 false ∧
    redOp 8 w mode = (f.width, f.add mode, 2 ^ (f.ebits + f.fbits), false) ∧
    redOp 9 w mode = (f.width, f.pick false, f.emax * 2 ^ f.fbits, false) ∧
    redOp 10 w mode = (f.width, f.pick true, 2 ^ (f.ebits + f.fbits) + f.emax * 2 ^ f.fbits, false)))

/-- R199: merging two registers into a pair, an element of the first ahead of an equal one of the second, and the stable sort of one
register, into any register: what they write, element by element.

R199: the sort is a sort and is stable, and a merge loses nothing: for any elements, the sorted list has the same elements in
ascending order of keys, those of one key in the order in which they stood; a merge of two lists has their elements, and of lists with
ascending keys, signed or unsigned, of single lanes or of pairs (`key` reads an element's key), its keys ascend. -/
def Obligations.VectorMergeAndSort : Prop :=
  (∀ (s : State) (st : Fin 8) (d va vb : Fin 32) (w : Fin 4) (g v : Fin 2), s.atIssue.vectorHeld = false →
    let x := s.atIssue.my
    let kb := 8 * 2 ^ w.1
    let merged := fun (t : State) (eb : Nat) =>
      let n := 1024 / eb
      let out := mergeKeys (keyLe (g == 1) kb) (2 * n) (elems eb kb (x.rv va)) (elems eb kb (x.rv vb))
      Done s.atIssue t st none [.v d, .v (d + 1)] ∧ ∃ p q : VReg,
        t.my.has s.atIssue.now 4 (.v d p) ∧ t.my.has s.atIssue.now 4 (.v (d + 1) q) ∧
        (∀ k, k < n → laneOf eb p k = out.getD k 0 % 2 ^ eb) ∧ ∀ k, k < n → laneOf eb q k = out.getD (n + k) 0 % 2 ^ eb
    (d.1 % 2 = 0 → s.canIssue [.v va, .v vb] [.v d, .v (d + 1)] 4 = true →
      (∃ t, exec (.vmrg st d va vb w g) s = .next t ∧ merged t kb) ∧
      (∃ t, exec (.vmrgp st d va vb w g) s = .next t ∧ merged t (2 * kb))) ∧
    (s.canIssue [.v va] [.v d] 4 = true →
      let eb := if v = 1 then 2 * kb else kb
      ∃ t, exec (.vsrt st d va w v g) s = .next t ∧ Done s.atIssue t st none [.v d] ∧ ∃ r : VReg, t.my.has s.atIssue.now 4 (.v d r) ∧
        ∀ k, k < 1024 / eb → laneOf eb r k =
          ((((elems eb kb (x.rv va)).foldl (fun acc e => insertKey (keyLe (g == 1) kb) e acc) []).map (·.2)).getD k 0) % 2 ^ eb)) ∧
  (∀ (sg : Bool) (kb : Nat) (l p q : List (Nat × Nat)),
    let le := keyLe sg kb
    let sorted := l.foldl (fun acc e => insertKey le e acc) []
    sorted.Perm l ∧ sorted.Pairwise (fun a b => le a.1 b.1 = true) ∧
    (∀ k, sorted.filter (fun e => e.1 == k) = l.filter (fun e => e.1 == k)) ∧
    (mergeKeys le (p.length + q.length) p q).Perm (p.map (·.2) ++ q.map (·.2)) ∧
    (∀ (n : Nat) (key : Nat → Nat), p.Pairwise (fun a b => le a.1 b.1 = true) → q.Pairwise (fun a b => le a.1 b.1 = true) →
      (∀ e ∈ p, e.1 = key e.2) → (∀ e ∈ q, e.1 = key e.2) →
      (mergeKeys le n p q).Pairwise (fun a b => le (key a) (key b) = true)) ∧
    (∀ (eb : Nat) (x : VReg), ∀ e ∈ elems eb kb x, e.1 = e.2 % 2 ^ kb))

/-- R193 to R196: the vector loads. Where every active part or element passes its checks, the active bytes come from where each lies
and every other byte of the register is kept; a part in a peer to which no port is up waits (log entry 27); `vld` needs an address that is a multiple of 8; a part that fails raises its cause, with no
register and no memory changed.

R194, R195: the parts of `vld` and `vst`: part p is one of 8 bytes at the address plus 8 p where a byte lane of it is active, with
the active ones in its mask; a piece that passed the checks is aligned, within the capability and not barred, and a gather through F or
from an effectful page raises PERM.

R193 to R196: the vector stores: the active parts or elements enter the store buffer in lane order, each with its active bytes, and
nothing else changes; the checks of all come first. -/
def Obligations.VectorMemory : Prop :=
  (∀ (s : State) (st : Fin 8) (d g : Fin 32) (k : Fin 16) (w : Fin 4) (m : Fin 8), s.atIssue.vectorHeld = false →
    let u := s.atIssue
    let x := u.my
    let load := fun (i : Instr) (rd : List RegId) (gather : Bool) (ps : List Piece) => s.canIssue (rd ++ maskReads m (.v d)) [.v d] 0 = true →
      (∀ v pl, u.place (x.rk k) false gather ps [] = .ok v pl → (∀ q ∈ pl, v.linkDown q.2.1 = false) → (∀ q ∈ pl, isPlain q.2.1 = true ∧ q.2.2 = false) →
        s.givesLater v i st (.v d) (.v d (BitVec.ofNat 1024
          (pl.foldl (fun r q => putPiece r q.1 (v.viewAt q.2.1 q.1.n)) (v.my.rv d).toNat)))) ∧
      (∀ v pl t, u.place (x.rk k) false gather ps [] = .ok v pl → (∀ q ∈ pl, v.linkDown q.2.1 = false) → (∃ q ∈ pl, ¬(isPlain q.2.1 = true ∧ q.2.2 = false)) →
        v.drainMine = (t, true) → s.givesLater t.tick i st (.v d) (.v d (BitVec.ofNat 1024
          (pl.foldl (fun r q => putPiece r q.1 (t.viewAt q.2.1 q.1.n)) (t.my.rv d).toNat)))) ∧
      (∀ v pl, u.place (x.rk k) false gather ps [] = .ok v pl → (∃ q ∈ pl, v.linkDown q.2.1 = true) → s.waits v i .resource) ∧
      (∀ v c a, u.place (x.rk k) false gather ps [] = .fault v c a → s.trapsIn v i c (BitVec.ofNat 64 a))
    (∀ j : Fin 1024, m = 0 →
      (x.memDisp k j 128 % 8 = 0 → load (.vld st d k j) [.k k] false (x.parts 0 (x.memDisp k j 128))) ∧
      (x.memDisp k j 128 % 8 ≠ 0 → s.canIssue [.k k] [.v d] 0 = true → s.traps (.vld st d k j) .align (BitVec.ofNat 64 (x.memDisp k j 128)))) ∧
    (∀ c : Fin 4,
      (x.memIdx k g c % 8 = 0 → load (.vldIdx st d k g c m) [.k k, .g g] false (x.parts m (x.memIdx k g c))) ∧
      (x.memIdx k g c % 8 ≠ 0 → s.canIssue ([.k k, .g g] ++ maskReads m (.v d)) [.v d] 0 = true →
        s.traps (.vldIdx st d k g c m) .align (BitVec.ofNat 64 (x.memIdx k g c)))) ∧
    load (.vlds st d k g w m) [.k k, .g g] false
      (x.elements m w (fun i => (x.rk k).cursor + BitVec.ofInt 56 (i * (x.rg g).toInt))) ∧
    load (.vgath st d k g w m) [.k k, .v g] true
      (x.elements m w (fun i => (x.rk k).cursor + BitVec.ofNat 56 (laneOf (laneBits w) (x.rv g) i * (laneBits w / 8))))) ∧
  ((∀ (x : Ctx) (m : Fin 8) (a : Nat) (q : Piece), q ∈ x.parts m a ↔ ∃ p, p < 16 ∧ (∃ k, k < 8 ∧ x.active m 8 (8 * p + k) = true) ∧
    q.lane = 8 * p ∧ q.va = (a + 8 * p) % 2 ^ 56 ∧ q.n = 8 ∧ q.mask < 256 ∧ ∀ k, k < 8 → q.mask.testBit k = x.active m 8 (8 * p + k)) ∧
  (∀ (s : State) (k : Cap) (write gather : Bool) (ps : List Piece) (u : State) (pl : List (Piece × Nat × Bool)),
    s.place k write gather ps [] = .ok u pl → pl.map (·.1) = ps ∧
      ∀ q ∈ ps, q.va % q.n = 0 ∧ k.tag = true ∧ k.base ≤ q.va ∧ q.va + q.n ≤ k.base + k.len ∧ (gather = true → k.hasF = false))) ∧
  (∀ (s : State) (st : Fin 8) (d g : Fin 32) (k : Fin 16) (w : Fin 4) (m : Fin 8), s.atIssue.vectorHeld = false →
    let u := s.atIssue
    let x := u.my
    let only : List RegId := if m.1 = 0 then [] else [.m m]
    let store := fun (i : Instr) (rd : List RegId) (ps : List Piece) => s.canIssue (.v d :: rd ++ only) [] 0 = true →
      (∀ v pl, u.place (x.rk k) true false ps [] = .ok v pl →
        s.does (v.modMy (fun y => { y with stores := y.stores ++ pl.map (fun q =>
          ⟨q.2.1, leBytes q.1.n ((y.rv d).toNat / 2 ^ (8 * q.1.lane)), q.1.mask, false, BitVec.ofNat 56 q.1.va, y.pc, none⟩) })) i st none) ∧
      (∀ v c a, u.place (x.rk k) true false ps [] = .fault v c a → s.trapsIn v i c (BitVec.ofNat 64 a))
    (∀ j : Fin 1024, m = 0 →
      (x.memDisp k j 128 % 8 = 0 → store (.vst st d k j) [.k k] (x.parts 0 (x.memDisp k j 128))) ∧
      (x.memDisp k j 128 % 8 ≠ 0 → s.canIssue [.v d, .k k] [] 0 = true → s.traps (.vst st d k j) .align (BitVec.ofNat 64 (x.memDisp k j 128)))) ∧
    (∀ c : Fin 4,
      (x.memIdx k g c % 8 = 0 → store (.vstIdx st d k g c m) [.k k, .g g] (x.parts m (x.memIdx k g c))) ∧
      (x.memIdx k g c % 8 ≠ 0 → s.canIssue ([.v d, .k k, .g g] ++ only) [] 0 = true →
        s.traps (.vstIdx st d k g c m) .align (BitVec.ofNat 64 (x.memIdx k g c)))) ∧
    store (.vsts st d k g w m) [.k k, .g g] (x.elements m w (fun i => (x.rk k).cursor + BitVec.ofInt 56 (i * (x.rg g).toInt))) ∧
    store (.vscat st d k g w m) [.k k, .v g]
      (x.elements m w (fun i => (x.rk k).cursor + BitVec.ofNat 56 (laneOf (laneBits w) (x.rv g) i * (laneBits w / 8)))))

/-- R201, R203: `vrep` captures the next n + 1 words, starts their sequence with the count in bits [15:0] of its register, and its context
goes on behind them; with count 0 nothing starts; while a sequence runs on the core it waits, and words that may not be captured or do not
decode raise ILLEGAL at it.

R202 to R204: a sequence that runs issues its captured instructions in order, on the registers that its window names in this
repetition, and ends once its count is reached and its results are written; one that is stopped or that a pre-emption has saved, one of a
halted core (R353), or where none runs, changes nothing. A
register inside the window stays inside it and one outside is unchanged. -/
def Obligations.Repetition : Prop :=
  (∀ (s : State) (st : Fin 8) (b a l : Fin 32) (n t : Fin 16), s.canIssue [.g a] [] 1 = true →
    let i : Instr := .vrep st b a l n t
    let u := s.atIssue
    (u.vectorHeld = true → exec i s = .next (u.hold .resource (s.my.since.getD s.issueCycle))) ∧
    (u.vectorHeld = false →
      (∀ v ws, u.capture (n.1 + 1) (u.my.pc + 4) [] = .ok v ws →
        let count := (v.my.rg a).toNat % 65536
        let on := fun (y : Ctx) => { y with pc := y.pc + BitVec.ofNat 56 (4 * (n.1 + 1)) }
        (count = 0 → s.does (v.modMy on) i st none) ∧
        (count ≠ 0 → s.does ((v.modCore v.cur (fun k => { k with
          rep := some { ctx := v.me, pc := v.my.pc, words := ws, count := count, base := b.1, len := l.1 + 1, stride := t.1 } })).modMy on) i st none)) ∧
      (∀ v c va, u.capture (n.1 + 1) (u.my.pc + 4) [] = .fault v c va → s.trapsIn v i c (BitVec.ofNat 64 va)) ∧
      (∀ v, u.capture (n.1 + 1) (u.my.pc + 4) [] = .miss v → exec i s = .next (v.hold .miss (s.my.since.getD s.issueCycle))))) ∧
  ((∀ (s : State) (c : Fin 4096),
    (((s.core c.1).rep = none ∨ (s.core c.1).halted = true ∨ ∃ r, (s.core c.1).rep = some r ∧ (r.stopped = true ∨ r.saved = true)) → exec (.repetitionIssue c) s = .next s) ∧
    (∀ r, (s.core c.1).rep = some r → r.stopped = false → r.saved = false → (s.core c.1).halted = false → r.count ≤ r.rep →
      ∃ t, exec (.repetitionIssue c) s = .next t ∧ (t.core c.1).rep = none ∧ ((t.ctx c.1 r.ctx).fixed = [])) ∧
    (∀ r v ws, (s.core c.1).rep = some r → r.stopped = false → r.saved = false → (s.core c.1).halted = false → r.rep < r.count → r.body = some v →
      let n := max (s.core c.1).clock r.readyAt
      let u := ((s.focus c r.ctx).modCore c.1 (fun k => { k with clock := n })).modMy (fun x => x.land n)
      u.my.short v.reads v.writes v.lat n = false → u.my.blocker v.reads v.writes = none → v.act u = .ok ws →
      ∃ t, exec (.repetitionIssue c) s = .next t ∧
        (t.core c.1).rep = some { r.next with readyAt := n + 1 + r.words.getD r.idx 0 / 2 ^ 29 } ∧
        t.ctx c.1 r.ctx = ws.foldl (Ctx.result v.lat n) u.my ∧ (∀ x, x ≠ r.ctx → t.ctx c.1 x = s.ctx c.1 x) ∧ t.mem = s.mem)) ∧
  (∀ (r : RepSeq) (x : Fin 32), r.base + r.len ≤ 32 →
    (¬(r.base ≤ x.1 ∧ x.1 < r.base + r.len) → r.rename x = x) ∧
    (r.base ≤ x.1 → x.1 < r.base + r.len → (r.rename x).1 = r.base + (x.1 - r.base + r.rep * r.stride) % r.len)))

/-- R206, R207, R223: command stores and `mseq`. Once its checks have passed and its store buffer is drained (`v`), the command is offered to
the queue: accepted, or MUCMD or TABLE at the instruction with nothing accepted, or a wait for room or for the register of an MSIG. `st.x`
anywhere else is a store of 64 bytes. `mseq` offers the n commands it read, all or none, and answers n; 0 answers 0, more than 32 raise
MUCMD.

R206, R207, R209, R219: acceptance: a command whose words parse and pass the check takes the next sequence number behind the queue,
NEXTSEQ goes on by one, a selection counts for the checks of later commands, MSIG makes its register wait; one that fails, in a list, has
none of the list accepted. Of command stores of several contexts that are ready at once, the lowest context's goes first (`muYields`). A
command that a context offers does the same. -/
def Obligations.MatrixCommands : Prop :=
  (∀ (s : State) (st : Fin 8),
    (∀ (d : Fin 32) (m : MemOp) (i : Instr), (∃ k, (∃ j, m = .disp k j ∧ i = .stX st d k j) ∨ ∃ x c, m = .idx k x c ∧ i = .stXIdx st d k x c) →
      s.canIssue (.v d :: m.regs) [] 1 = true →
      let x := s.atIssue.my
      let va := m.addr x 64
      let bs := leBytes 64 (x.rv d).toNat
      (∀ u c a, s.atIssue.checked s.atIssue.myAccess (m.cap x) va 64 64 permW 1 = .fault u c a → s.trapsIn u i c (BitVec.ofNat 64 a)) ∧
      (∀ u pa e, s.atIssue.checked s.atIssue.myAccess (m.cap x) va 64 64 permW 1 = .ok u pa e →
        (u.ownCommandPage pa = true →
          (∀ v, u.drainMine = (v, false) → exec i s = .next (v.hold .resource (s.my.since.getD s.issueCycle))) ∧
          (∀ v, u.drainMine = (v, true) →
            (∀ t, v.offer v.cur v.me [dwordsOf 8 bs] = .ok t → s.does t i st none) ∧
            (∀ c, v.offer v.cur v.me [dwordsOf 8 bs] = .fault c → s.trapsIn v i c 0) ∧
            (∀ t, v.offer v.cur v.me [dwordsOf 8 bs] = .wait t → exec i s = .next (t.hold .resource (s.my.since.getD s.issueCycle))))) ∧
        (∀ v pb eg, u.ownCommandPage pa = false → u.checked u.myAccess (m.cap x) va 64 64 permW 1 = .ok v pb eg → v.writeBarred pb 64 = none →
          s.does (v.modMy (fun y => { y with stores := y.stores ++ [⟨pb, bs, fullMask 64, false, BitVec.ofNat 56 va, y.pc, none⟩] })) i st none))) ∧
    (∀ (d a b : Fin 32) (k : Fin 16), s.canIssue [.k k, .g a, .g b] [.g d] 0 = true →
      let i : Instr := .mseq st d a b k
      let x := s.atIssue.my
      let n := (x.rg b).toNat
      let va := x.memOff k a
      (n = 0 → s.givesLater s.atIssue i st (.g d) (.g d 0)) ∧
      (32 < n → s.traps i .mucmd 0) ∧
      (0 < n → n ≤ 32 → va % 64 ≠ 0 → s.traps i .align (BitVec.ofNat 64 va)) ∧
      (∀ u ps, 0 < n → n ≤ 32 → va % 64 = 0 → s.atIssue.readRange (x.rk k) va (64 * n) = .ok u ps true → s.trapsIn u i .perm (BitVec.ofNat 64 va)) ∧
      (∀ u ps v, 0 < n → n ≤ 32 → va % 64 = 0 → s.atIssue.readRange (x.rk k) va (64 * n) = .ok u ps false → u.drainMine = (v, true) →
        (∀ t, v.offer v.cur v.me (commandsOf n (v.rangeBytes ps)) = .ok t → s.givesLater t i st (.g d) (.g d (BitVec.ofNat 64 n))) ∧
        (∀ c, v.offer v.cur v.me (commandsOf n (v.rangeBytes ps)) = .fault c → s.trapsIn v i c 0)))) ∧
  (∀ (s : State) (c : Fin 4096) (x : Fin 4) (ws : List Dword),
    let m := (s.core c.1).mu
    (∀ cmd, parseMu ws = some cmd → m.queue.length < 32 → (s.ctx c.1 x).msigBlocked ws = false → s.muYields c.1 x = false →
      m.check (s.ringOf c.1) ws = none →
      ∃ t, s.offer c.1 x [ws] = .ok t ∧
        (t.core c.1).mu = { m with queue := m.queue ++ [⟨m.nextSeq, ws, x, false⟩], nextSeq := m.nextSeq + 1, accepted := m.accepted.after cmd } ∧
        t.ctx c.1 x = (match cmd with
          | .msig r => (s.ctx c.1 x).await (.g (Fin.ofNat 32 r))
          | _ => s.ctx c.1 x) ∧
        t = { s with cores := t.cores } ∧
        ((s.ctx c.1 x).stores = [] → exec (.muCommandAccept c x ws) s = .next t)) ∧
    (parseMu ws = none → m.check (s.ringOf c.1) ws = some .mucmd) ∧
    (∀ e, m.queue.length < 32 → (s.ctx c.1 x).msigBlocked ws = false → s.muYields c.1 x = false → m.check (s.ringOf c.1) ws = some e →
      s.offer c.1 x [ws] = .fault e) ∧
    (32 ≤ m.queue.length ∨ (s.ctx c.1 x).msigBlocked ws = true ∨ s.muYields c.1 x = true → s.offer c.1 x [ws] = .wait s) ∧
    (s.muYields c.1 x = true ↔ ∃ z : Fin 4, z < x ∧ (s.ctx c.1 z).since.isSome = true ∧ (s.ctx c.1 z).stopped = false ∧
      ((s.ctx c.1 z).wait = .resource ∨ (s.ctx c.1 z).wait = .none) ∧
      ∃ w cmd, (s.ctx c.1 z).word = some w ∧ (s.ctx c.1 z).storeCommand w = some cmd ∧ (s.ctx c.1 z).msigBlocked cmd = false))

/-- R220 to R222, R117: `mtbl`, `mrd` and `mwr`: what they read and write of the unit, and what each waits for.

R99, R101, R220, R222: the unit's parts read as written: an accumulator element, a table entry, a whole table word by word; every
other element and entry keeps its value. -/
def Obligations.MatrixRegisters : Prop :=
  (∀ (s : State) (st : Fin 8) (d a b : Fin 32),
    let u := s.atIssue
    let x := u.my
    let m := (u.core u.cur).mu
    let t := bitsOf (x.rg a).toNat 8 3
    let e := bitsOf (x.rg a).toNat 0 8
    let held := fun (i : Instr) => exec i s = .next (u.hold .resource (s.my.since.getD s.issueCycle))
    (s.canIssue [.g a] [.g d] 0 = true →
      (m.busyTile t = false → s.givesLater u (.mrdAcc st d a) st (.g d) (.g d (m.el t e))) ∧
      (m.busyTile t = true → held (.mrdAcc st d a)) ∧
      s.givesLater u (.mrdTbl st d a) st (.g d) (.g d ((mapGet 0 m.tbl (bitsOf (x.rg a).toNat 0 10)).setWidth 64))) ∧
    (s.canIssue [] [.g d] 0 = true → s.givesLater u (.mrdStat st d) st (.g d) (.g d m.stat)) ∧
    (s.canIssue [.g a, .g b] [] 1 = true →
      (m.busyTile t = false → s.does (u.setMu u.cur (m.setEl t e (x.rg b))) (.mwrAcc st a b) st none) ∧
      (m.busyTile t = true → held (.mwrAcc st a b)) ∧
      (m.queue = [] → s.does (u.setMu u.cur (m.setEntry (bitsOf (x.rg a).toNat 0 10 / 256) (bitsOf (x.rg a).toNat 0 10 % 256) ((x.rg b).setWidth 20)))
        (.mwrTbl st a b) st none) ∧
      (m.queue ≠ [] → held (.mwrTbl st a b))) ∧
    (s.canIssue [.g b] [] 1 = true →
      ((∀ j, j < 8 → m.busyTile j = false) → s.does (u.setMu u.cur { m with ovf := (x.rg b).setWidth 8 }) (.mwrOvf st b) st none) ∧
      ((∃ j, j < 8 ∧ m.busyTile j = true) → held (.mwrOvf st b))) ∧
    (∀ (o : MemOp) (tb : Fin 4) (i : Instr), (∃ k, (∃ j, o = .disp k j ∧ i = .mtbl st k tb j) ∨ ∃ y c, o = .idx k y c ∧ i = .mtblIdx st k y c tb) →
      s.canIssue o.regs [] 1 = true →
      let va := o.addr x 1024
      (va % 128 ≠ 0 → s.traps i .align (BitVec.ofNat 64 va)) ∧
      (∀ v c f, va % 128 = 0 → u.readRange (o.cap x) va 1024 = .fault v c f → s.trapsIn v i c (BitVec.ofNat 64 f)) ∧
      (∀ v ps, va % 128 = 0 → u.readRange (o.cap x) va 1024 = .ok v ps true → s.trapsIn v i .perm (BitVec.ofNat 64 va)) ∧
      (∀ v ps, va % 128 = 0 → u.readRange (o.cap x) va 1024 = .ok v ps false →
        ((v.core v.cur).mu.queue = [] → s.does (v.setMu v.cur ((v.core v.cur).mu.loadTable tb.1 (v.rangeBytes ps))) i st none) ∧
        ((v.core v.cur).mu.queue ≠ [] → exec i s = .next (v.hold .resource (s.my.since.getD s.issueCycle)))))) ∧
  (∀ (m : Mu) (t k t2 k2 : Nat), k < 256 → k2 < 256 →
    (∀ x, (m.setEl t k x).el t2 k2 = (if t2 = t ∧ k2 = k then x else m.el t2 k2) ∧ (m.setEl t k x).tbl = m.tbl) ∧
    (∀ x, ((m.setEntry t k x).table t2)[k2]? = some (if t2 = t ∧ k2 = k then x else mapGet 0 m.tbl (256 * t2 + k2)) ∧
      (m.setEntry t k x).acc = m.acc) ∧
    (∀ bs, ((m.loadTable t bs).table t2)[k2]? =
      some (if t2 = t then BitVec.ofNat 20 (leNat ((bs.drop (4 * k2)).take 4)) else mapGet 0 m.tbl (256 * t2 + k2))) ∧
    (m.zero t).el t2 k2 = (if t2 = t then 0 else m.el t2 k2))

/-- R216, R208, R433: BSEL sets BFMT and BOFF; TBLSEL sets ATBL, BTBL and STBL; each occupies the unit for one cycle; neither touches
memory or anything else. -/
def Obligations.SelectionCommands : Prop :=
  ∀ (s : State) (e : MuEntry) (r : List MuEntry), (s.core s.cur.1).mu.queue = e :: r → e.begun = false →
    let m := (s.core s.cur.1).mu
    let free := (s.core s.cur.1).clock + 1
    (∀ (f : Fin 8) (o : Fin 131072), parseMu e.words = some (.bsel f.1 o.1) →
      exec (.bsel f o) s = .next (s.modCore s.cur.1 (fun k => { k with mu := { m with
        queue := { e with begun := true } :: r, sel := { m.sel with bfmt := f, boff := o.1 }, busyTo := free } }))) ∧
    (∀ a b c : Fin 4, parseMu e.words = some (.tblsel a.1 b.1 c.1) →
      exec (.tblsel a b c) s = .next (s.modCore s.cur.1 (fun k => { k with mu := { m with
        queue := { e with begun := true } :: r, sel := { m.sel with atbl := a, btbl := b, stbl := c }, busyTo := free } })))

/-- R214, R433: AZERO sets every bit of its tile to 0 and clears the tile's OVF; ALOAD sets each element from its place in the scratchpad,
as SFMT converts it, and clears OVF; every other tile and memory are unchanged; they occupy the unit for 1 and 16 cycles. -/
def Obligations.TileZeroAndLoad : Prop :=
  ∀ (s : State) (e : MuEntry) (r : List MuEntry) (tile : Fin 8), (s.core s.cur.1).mu.queue = e :: r → e.begun = false →
    let m := (s.core s.cur.1).mu
    let after := fun (t : State) (cycles : Nat) (new : Nat → Nat → Dword) =>
      (t.core s.cur.1).mu.queue = { e with begun := true } :: r ∧ (t.core s.cur.1).mu.busyTo = (s.core s.cur.1).clock + cycles ∧
      (∀ i j, i < 16 → j < 16 → (t.core s.cur.1).mu.el tile.1 (16 * i + j) = new i j) ∧
      (∀ u k, u ≠ tile.1 → k < 256 → (t.core s.cur.1).mu.el u k = m.el u k) ∧
      (∀ u, u < 8 → (t.core s.cur.1).mu.ovf.getLsbD u = (m.ovf.getLsbD u && u != tile.1)) ∧
      (t.core s.cur.1).mu.tbl = m.tbl ∧ t.mem = s.mem
    (parseMu e.words = some (.azero tile.1) → ∃ t, exec (.azero tile) s = .next t ∧ after t 1 (fun _ _ => 0)) ∧
    (∀ (f : Fin 8) (off str : Fin 1048576), parseMu e.words = some (.aload tile.1 f.1 off.1 str.1) →
      ∃ t, exec (.aload tile f off str) s = .next t ∧ after t 16 (fun i j =>
        let x := s.scratch s.cur.1 (off.1 + i * str.1 + j * outSize f.1) (outSize f.1)
        if f.1 = 0 then BitVec.ofNat 64 x else if f.1 = 1 then BitVec.ofInt 64 (signedOf 32 x)
        else BitVec.ofNat 64 (binary64.of 0 (binary32.value x)).bits))

/-- R105 to R108, R211 to R213, R433: MMA, MMAT and MMAS, element by element: an element of the tile is the result of its steps in increasing
order, each adding four exact products (one for MMAS, in its row) as an integer modulo 2^64 or as a window sum rounded once; OVF of the tile
is set where the true sum of an integer step of one of its elements lies outside int64 and otherwise kept; other tiles and memory are
unchanged; the command occupies the unit for one cycle per step. An MMAS coordinate whose row of B lies beyond the slab stops the command: the steps before it stay,
ERR holds MUCMD if it was 0, and a record marked imprecise names the nonzero in AUX and the sequence number in WHERE (where it stands
there is log entry 88, the model's choice).

R215, R217 to R219, R208, R213, R433: ASTORE writes each converted element to its place (where its rows overlap, the later row's: log entry
99, the model's choice) and, with CLR, zeroes the tile and its OVF, and with FULL sets the bits of the lines it wrote and no other; one to code8
whose table has become NONE writes nothing, zeroes nothing and posts TABLE with ERR if that was 0; BFILL spreads rows over the slab's slices; MFENCE has no effect of its own; MSIG sends DONE, ERR and its sequence number and
clears them; a command that has run leaves the queue once its cycles of Table 9-7 are over and not before; a command that is not the one
at the head, or has begun, changes nothing. -/
def Obligations.MatrixSteps : Prop :=
  (∀ (s : State) (e : MuEntry) (r : List MuEntry) (tile f : Fin 8) (n : Fin 4096) (off str : Fin 1048576),
    (s.core s.cur.1).mu.queue = e :: r → e.begun = false →
    let c := s.cur.1
    let m := (s.core c).mu
    let b := m.sel.bfmt.1
    let ints := fun (p : List Nat × List Nat) => List.zipWith (fun x y => intIn f.1 x * intIn b y) p.1 p.2
    let step := fun (acc : Dword) (p : List Nat × List Nat) =>
      if f.1 ≤ 1 then BitVec.ofInt 64 (acc.toInt + (ints p).sum)
      else floatStep acc (List.zipWith (fun x y =>
        (mulV (floatIn (m.table m.sel.atbl.1) f.1 x) (floatIn (m.table m.sel.btbl.1) b y)).1) p.1 p.2)
    let tooFar := fun (acc : Dword) (p : List Nat × List Nat) =>
      f.1 ≤ 1 ∧ (acc.toInt + (ints p).sum < -(2 ^ 63 : Nat) ∨ (2 ^ 63 : Nat) ≤ acc.toInt + (ints p).sum)
    let B := fun k j => leNat (s.peek (slabBase c j + m.sel.boff + k * inSize b) (inSize b))
    let stepped := fun (u : Mu) (ops : Nat → Nat → List (List Nat × List Nat)) =>
      u.tbl = m.tbl ∧
      (∀ i j, i < 16 → j < 16 → u.el tile.1 (16 * i + j) = (ops i j).foldl step (m.el tile.1 (16 * i + j))) ∧
      (∀ y k, y ≠ tile.1 → k < 256 → u.el y k = m.el y k) ∧
      (∀ y, y < 8 → (u.ovf.getLsbD y = true ↔ m.ovf.getLsbD y = true ∨ y = tile.1 ∧ ∃ i j, i < 16 ∧ j < 16 ∧
        ∃ pre p post, ops i j = pre ++ p :: post ∧ tooFar (pre.foldl step (m.el tile.1 (16 * i + j))) p))
    let after := fun (t : State) (ops : Nat → Nat → List (List Nat × List Nat)) =>
      (t.core c).mu.queue = { e with begun := true } :: r ∧ (t.core c).mu.busyTo = (s.core c).clock + (n.1 + 1) ∧
      t.mem = s.mem ∧ stepped (t.core c).mu ops
    (parseMu e.words = some (.mma tile.1 f.1 n.1 off.1 str.1) → ∃ t, exec (.mma tile f n off str) s = .next t ∧ after t (fun i j =>
      (List.range (n.1 + 1)).map (fun q =>
        ((List.range 4).map (fun k => s.scratch c (off.1 + i * str.1 + (4 * q + k) * inSize f.1) (inSize f.1)),
         (List.range 4).map (fun k => B (4 * q + k) j))))) ∧
    (parseMu e.words = some (.mmat tile.1 f.1 n.1 off.1 str.1) → ∃ t, exec (.mmat tile f n off str) s = .next t ∧ after t (fun i j =>
      (List.range (n.1 + 1)).map (fun q =>
        ((List.range 4).map (fun k => s.scratch c (off.1 + (4 * q + k) * str.1 + i * inSize f.1) (inSize f.1)),
         (List.range 4).map (fun k => B (4 * q + k) j))))) ∧
    (parseMu e.words = some (.mmas tile.1 f.1 n.1 off.1 str.1) →
      let co := fun q => s.scratch c (str.1 + 2 * q) 2
      let fits := fun q => m.sel.boff + (co q % 4096 + 1) * inSize b ≤ 0x20000
      let ops := fun (count : Nat) (i j : Nat) => (List.range count).filterMap (fun q =>
        if co q / 4096 = i then some ([s.scratch c (off.1 + q * inSize f.1) (inSize f.1)], [B (co q % 4096) j]) else none)
      ((∀ q, q ≤ n.1 → fits q) → ∃ t, exec (.mmas tile f n off str) s = .next t ∧ after t (ops (n.1 + 1))) ∧
      (∀ q, q ≤ n.1 → (∀ p, p < q → fits p) → ¬fits q →
        ∃ u : State, exec (.mmas tile f n off str) s = .next ((u.report (.quad (c / 4))
            { cause := .mucmd, src := 4, aux := q, imp := true, place := BitVec.ofNat 64 (c + e.seq.toNat * 2 ^ 16) }).modCore c (fun k =>
              { k with mu := { k.mu with queue := { e with begun := true } :: r, busyTo := (s.core c).clock + (n.1 + 1) } })) ∧
          u = s.modCore c (fun k => { k with mu := (u.core c).mu }) ∧ stepped (u.core c).mu (ops q) ∧
          (u.core c).mu.err = if m.err = 0 then code8 .mucmd else m.err))) ∧
  (∀ (s : State) (e : MuEntry) (r : List MuEntry), (s.core s.cur.1).mu.queue = e :: r →
    let c := s.cur.1
    let m := (s.core c).mu
    let now := (s.core c).clock
    let begun := fun (t : State) (cycles : Nat) => (t.core c).mu.queue = { e with begun := true } :: r ∧ (t.core c).mu.busyTo = now + cycles
    (e.begun = false →
      (∀ (tile f : Fin 8) (ty clr full : Bool) (off str : Fin 1048576), parseMu e.words = some (.astore tile.1 f.1 ty clr full off.1 str.1) →
        let w := outSize f.1
        let row := fun i => scratchBase (c / 4) + off.1 + i * str.1
        (f.1 = 5 → (m.table m.sel.stbl.1).cls = .none → exec (.astore tile f ty clr full off str) s = .next (((s.modCore c (fun k =>
          { k with mu := { m with err := (if m.err = 0 then code8 .table else m.err) } })).report (.quad (c / 4))
            { cause := .table, src := 4, aux := e.seq.toNat, imp := true, place := BitVec.ofNat 64 c }).modCore c (fun k =>
              { k with mu := { k.mu with queue := { e with begun := true } :: r, busyTo := now + 16 } }))) ∧
        ((f.1 = 5 → (m.table m.sel.stbl.1).cls ≠ .none) →
        ∃ t, exec (.astore tile f ty clr full off str) s = .next t ∧ begun t 16 ∧
          (∀ i k, i < 16 → k < 16 * w → (∀ i', i < i' → i' < 16 → ¬(row i' ≤ row i + k ∧ row i + k < row i' + 16 * w)) →
            t.byteAt (row i + k) = BitVec.ofNat 8 (muOut (m.table m.sel.stbl.1) ty f.1 (m.el tile.1 (16 * i + k / w)) / 256 ^ (k % w))) ∧
          (∀ a, (∀ i, i < 16 → ¬(row i ≤ a ∧ a < row i + 16 * w)) → t.byteAt a = s.byteAt a) ∧
          (∀ a, t.isFull a = true ↔ (full = true ∧ ∃ i k, i < 16 ∧ k < 16 * w ∧ (row i + k) / 128 = a / 128) ∨ s.isFull a = true) ∧
          (t.core c).mu.acc = (if clr then (m.zero tile.1).acc else m.acc) ∧
          (∀ y, y < 8 → (t.core c).mu.ovf.getLsbD y = (m.ovf.getLsbD y && !(clr && decide (y = tile.1)))) ∧
          (t.core c).mu.tbl = m.tbl ∧ (t.core c).mu.err = m.err)) ∧
      (∀ (es : Bool) (n : Fin 4096) (so : Fin 1048576) (dof : Fin 131072), parseMu e.words = some (.bfill es n.1 so.1 dof.1) →
        let z := if es then 2 else 1
        dof.1 + (n.1 + 1) * z ≤ 0x20000 →
        ∃ t, exec (.bfill es n so dof) s = .next t ∧ begun t (n.1 + 1) ∧
          (∀ k j b, k ≤ n.1 → j < 16 → b < z → t.byteAt (slabBase c j + dof.1 + k * z + b) = s.byteAt (scratchBase (c / 4) + so.1 + (16 * k + j) * z + b)) ∧
          (∀ a, (∀ j, j < 16 → ¬(slabBase c j + dof.1 ≤ a ∧ a < slabBase c j + dof.1 + (n.1 + 1) * z)) → t.byteAt a = s.byteAt a)) ∧
      (parseMu e.words = some .mfence → exec .mfence s
        = .next (s.modCore c (fun k => { k with mu := { m with queue := { e with begun := true } :: r, busyTo := now } }))) ∧
      (∀ g : Fin 32, parseMu e.words = some (.msig g.1) → ∃ t, exec (.msig g) s = .next t ∧
        (t.core c).mu = { m with queue := { e with begun := true } :: r, err := 0, done := 0, busyTo := now + 1 } ∧
        (g.1 ≠ 0 → (t.ctx c e.ctx).vars = fillVar (.g g) (.g g (BitVec.ofNat 64
          (min m.done (2 ^ 40 - 1) * 2 ^ 24 + m.err.toNat * 2 ^ 16 + e.seq.toNat))) (s.ctx c e.ctx).vars) ∧
        (g.1 = 0 → t.ctx c e.ctx = s.ctx c e.ctx))) ∧
    (e.begun = true → now < m.busyTo → exec (.muCommandPerformed s.cur) s = .next s) ∧
    (e.begun = true → m.busyTo ≤ now → ∃ t, exec (.muCommandPerformed s.cur) s = .next t ∧ t = { s with cores := t.cores } ∧
      (t.core c).mu.queue = r ∧ (t.core c).mu.acc = m.acc ∧ (t.core c).mu.sel = m.sel ∧ (t.core c).mu.err = m.err ∧
      (((∃ g, parseMu e.words = some (.msig g)) ∧ (t.core c).mu.done = m.done) ∨
        ((∀ g, parseMu e.words ≠ some (.msig g)) ∧ (t.core c).mu.done = m.done + 1))) ∧
    (∀ cmd, e.begun = true ∨ parseMu e.words ≠ some cmd → s.muBegin cmd = s))

/-- R226, R228, R230, R231: `qpop` takes the candidate of the tile's port into a g register, a v register or a pair, once its type fits;
without a port it raises QPORT, with another type TYPE, and with no item, or none that a lower context of the quad does not take first
(R227), it waits as a stall event.

R232, Table 10-2: `qtry` and `qpeek` never wait: a status dword in the g register, and the item in the v register of the same number
where one is found; only `qtry` takes it.

R233, R234: items and slots in place. `qget.c` holds the candidate and gives its address, `qget.p` a free slot at the tail, behind the
port's earlier pushes; a second hold on the q register, or none to end, raises QPORT; `qdone.c` takes the held item, `qdone.p` publishes the
slot once the context's stores are performed and its pushes accepted (R77); while the queue is unmapped both wait (R379). -/
def Obligations.QueuePops : Prop :=
  (∀ (s : State) (st : Fin 8) (d : Fin 32) (q : Fin 16) (v : Fin 2) (ty : Fin 256),
    let i : Instr := .qpop st d q v ty
    let u := s.atIssue
    s.canIssue [] (if v = 1 then itemRegs d (s.itemSize q) else [.g d]) 0 = true →
    (u.myCons q = none → s.traps i .qport 0) ∧
    (∀ id x c, u.myCons q = some (id, x, c) →
      (v = 1 → s.itemSize q = 256 → d.1 % 2 = 1 → s.traps i .qport 0) ∧
      (¬(v = 1 ∧ s.itemSize q = 256 ∧ d.1 % 2 = 1) →
        ((∀ ur n, u.myCand x c = .item ur n → u.popYields u.cur.1 u.me id x ur n = true) →
          s.waits ((u.noteEmpty id c).want id) i .pop) ∧
        (∀ ur n, u.myCand x c = .item ur n → u.popYields u.cur.1 u.me id x ur n = false →
          (ty.1 ≠ 0 → u.itypeAt x ur n ≠ BitVec.ofNat 8 ty.1 → s.traps i .type 0) ∧
          (ty.1 = 0 ∨ u.itypeAt x ur n = BitVec.ofNat 8 ty.1 →
            let bs := u.itemAt x ur n
            (v ≠ 1 → s.givesLater (u.takeMine id x c ur n) i st (.g d) (.g d (BitVec.ofNat 64 (leNat (bs.take 8))))) ∧
            (v = 1 → s.itemSize q ≠ 256 →
              s.givesLater (u.takeMine id x c ur n) i st (.v d) (.v d (BitVec.ofNat 1024 (leNat (bs.take 128))))) ∧
            (v = 1 → s.itemSize q = 256 → s.givesAll (u.takeMine id x c ur n) i st
              [.v d (BitVec.ofNat 1024 (leNat (bs.take 128))), .v (d + 1) (BitVec.ofNat 1024 (leNat (bs.drop 128)))])))))) ∧
  (∀ (s : State) (st : Fin 8) (d : Fin 32) (q : Fin 16) (ty : Fin 256) (taking : Bool),
    let i : Instr := if taking then .qtry st d q ty else .qpeek st d q ty
    let u := s.atIssue
    s.canIssue [] (.g d :: itemRegs d (s.itemSize q)) 0 = true →
    (u.myCons q = none → s.traps i .qport 0) ∧
    (∀ id x c, u.myCons q = some (id, x, c) → ¬(s.itemSize q = 256 ∧ d.1 % 2 = 1) →
      (u.myCand x c = .none → s.givesAll ((u.noteEmpty id c).want id) i st [.g d 0]) ∧
      (u.myCand x c = .parked → s.givesAll u i st [.g d 3]) ∧
      (∀ m, u.myCand x c = .marker m → s.givesAll (u.noteEmpty id c) i st [.g d (BitVec.ofNat 64 (m.toNat * 2 ^ 32 + 2))]) ∧
      (∀ ur n, u.myCand x c = .item ur n →
        (ty.1 ≠ 0 → u.itypeAt x ur n ≠ BitVec.ofNat 8 ty.1 → s.traps i .type 0) ∧
        (ty.1 = 0 ∨ u.itypeAt x ur n = BitVec.ofNat 8 ty.1 →
          s.givesAll (if taking then u.takeMine id x c ur n else u) i st
            (.g d (BitVec.ofNat 64 ((u.itypeAt x ur n).toNat * 256 + (if ur then 8 else 0) + (if taking then 4 else 0) + 1))
              :: itemToV d (s.itemSize q) (u.itemAt x ur n)))))) ∧
  (∀ (s : State) (st : Fin 8) (d : Fin 32) (q : Fin 16) (ty : Fin 256),
    let u := s.atIssue
    (s.canIssue [] [.g d] 0 = true →
      (u.myCons q = none → s.traps (.qgetC st d q ty) .qport 0) ∧
      (u.myProd q = none → s.traps (.qgetP st d q ty) .qport 0) ∧
      (∀ id x c, u.myCons q = some (id, x, c) →
        ((u.my.held q false).isSome = true → s.traps (.qgetC st d q ty) .qport 0) ∧
        (u.my.held q false = none →
          ((∀ ur n, u.myCand x c = .item ur n → u.popYields u.cur.1 u.me id x ur n = true) →
            s.waits ((u.noteEmpty id c).want id) (.qgetC st d q ty) .pop) ∧
          (∀ ur n, u.myCand x c = .item ur n → u.popYields u.cur.1 u.me id x ur n = false → ty.1 = 0 ∨ u.itypeAt x ur n = BitVec.ofNat 8 ty.1 →
            s.givesLater ((u.setQueue id { x with heldItems := x.heldItems ++ [(c, ur, n)] }).modMy
              (fun y => { y with holds := y.holds ++ [⟨q, id, false, ur, n, BitVec.ofNat 8 ty.1⟩] }))
              (.qgetC st d q ty) st (.g d) (.g d (BitVec.ofNat 64 (x.dataVa ur n)))))) ∧
      (∀ id x p, u.myProd q = some (id, x, p) →
        ((u.my.held q true).isSome = true → s.traps (.qgetP st d q ty) .qport 0) ∧
        (u.my.held q true = none →
          (x.type ≠ 0 → x.type ≠ BitVec.ofNat 8 ty.1 → s.traps (.qgetP st d q ty) .type 0) ∧
          (x.type = 0 ∨ x.type = BitVec.ofNat 8 ty.1 →
            (x.hasRoom u.my.firing? p false 1 = false ∨ x.sending p = true → s.waits (u.want id) (.qgetP st d q ty) .resource) ∧
            (x.hasRoom u.my.firing? p false 1 = true → x.sending p = false →
              s.givesLater ((u.holdSlot id x p u.my.firing?).modMy
                (fun y => { y with holds := y.holds ++ [⟨q, id, true, false, x.tailN, BitVec.ofNat 8 ty.1⟩] }))
                (.qgetP st d q ty) st (.g d) (.g d (BitVec.ofNat 64 (x.dataVa false x.tailN)))))))) ∧
    (s.canIssue [] [] 1 = true →
      (∀ id x c h, u.myCons q = some (id, x, c) → u.my.held q false = some h →
        (x.mapped.isSome = true → s.does ((u.takeMine id x c h.urgent h.index).modMy (fun y => y.unhold q false)) (.qdoneC st q) st none) ∧
        (x.mapped = none → s.waits (u.want id) (.qdoneC st q) .resource)) ∧
      (u.my.held q false = none ∨ u.myCons q = none → s.traps (.qdoneC st q) .qport 0) ∧
      (∀ id x p h v, u.myProd q = some (id, x, p) → u.my.held q true = some h →
        (x.mapped = none → s.waits (u.want id) (.qdoneP st q) .resource) ∧
        (x.mapped.isSome = true → u.releaseMine none = (v, true) →
          s.does ((v.publish id h.index h.type).modMy (fun y => y.unhold q true)) (.qdoneP st q) st none) ∧
        (x.mapped.isSome = true → u.releaseMine none = (v, false) → s.waits v (.qdoneP st q) .resource)) ∧
      (u.my.held q true = none ∨ u.myProd q = none → s.traps (.qdoneP st q) .qport 0)))

/-- R226, R235, R236, R75, R77, R79: pushes. An item that fits waits for room on its port, then for the context's stores and earlier pushes, and
is pushed, in the urgent lane for `qpushu` where there is one; `qpush` to an engine queue raises QPORT, `qmark` to one enters a marker in it;
`qmark.a` gives a marker to an actor without inputs, and waits while an earlier one stands there (log entry 17: the model's reading of R236). -/
def Obligations.QueuePush : Prop :=
  ∀ (s : State) (st : Fin 8) (d : Fin 32) (q : Fin 16),
    let u := s.atIssue
    let n := u.my.qid q
    let k := u.my.firing?
    let pushes := fun (i : Instr) (urg : Bool) (kind : Nat) (type : BitVec 8) (it : State → Item) => isEngineId n = false →
      (u.myProd q = none → s.traps i .qport 0) ∧
      (∀ id x p, u.myProd q = some (id, x, p) →
        let lane := urg && decide (x.urgSlots ≠ 0)
        (kind = 0 → x.type ≠ 0 → type ≠ x.type → s.traps i .type 0) ∧
        (¬(kind = 0 ∧ x.type ≠ 0 ∧ type ≠ x.type) →
          (x.hasRoom k p lane (x.slotsFor kind) = false → s.waits (u.want id) i .resource) ∧
          (x.hasRoom k p lane (x.slotsFor kind) = true →
            (∀ v, u.releaseMine (some (id, p, lane)) = (v, true) → s.does (v.pushFrom (some (v.cur.1, v.me)) id p k lane (it v)) i st none) ∧
            (∀ v, u.releaseMine (some (id, p, lane)) = (v, false) → s.waits v i .resource))))
    (∀ (v : Fin 2) (ty : Fin 256), s.canIssue (if v = 1 then itemRegs d (s.itemSize q) else [.g d]) [] 1 = true →
      let it : State → Item := fun w => ⟨0, BitVec.ofNat 8 ty.1, 0, w.my.itemFrom d (v == 1) (s.itemSize q)⟩
      (v = 1 → s.itemSize q = 256 → d.1 % 2 = 1 → s.traps (.qpush st d q v ty) .qport 0 ∧ s.traps (.qpushu st d q v ty) .qport 0) ∧
      (¬(v = 1 ∧ s.itemSize q = 256 ∧ d.1 % 2 = 1) →
        pushes (.qpush st d q v ty) false 0 (BitVec.ofNat 8 ty.1) it ∧ pushes (.qpushu st d q v ty) true 0 (BitVec.ofNat 8 ty.1) it ∧
        (isEngineId n = true → s.traps (.qpush st d q v ty) .qport 0 ∧ s.traps (.qpushu st d q v ty) .qport 0))) ∧
    (s.canIssue [.g d] [] 1 = true →
      let m : BitVec 32 := (u.my.rg d).setWidth 32
      (∀ a, pushes (.qmark st d q a) false 1 0 (fun _ => ⟨1, 0, m, []⟩) ∧
        (isEngineId n = true →
          (u.enginePort (s.cur.1 / 4) n = false → s.traps (.qmark st d q a) .qport 0) ∧
          (u.enginePort (s.cur.1 / 4) n = true → (u.eng n).room k = false → s.waits u (.qmark st d q a) .resource) ∧
          (u.enginePort (s.cur.1 / 4) n = true → (u.eng n).room k = true → u.myProd q = none → ∀ v, u.releaseMine none = (v, true) →
            s.does (v.modEng n (fun x => (x.use k).append (.marker m))) (.qmark st d q a) st none))) ∧
      (∀ a : Fin 64,
        (u.actor? (s.cur.1 / 4) a.1 = none → s.traps (.qmarkA st d a) .qport 0) ∧
        (∀ x, u.actor? (s.cur.1 / 4) a.1 = some x →
          (x.decl.ins ≠ [] → s.traps (.qmarkA st d a) .qport 0) ∧
          (x.decl.ins = [] → x.direct.isSome = true → s.waits u (.qmarkA st d a) .resource) ∧
          (x.decl.ins = [] → x.direct = none →
            s.does (u.modActor (s.cur.1 / 4) a.1 (fun y => { y with direct := some m })) (.qmarkA st d a) st none))))

/-- R69 to R71, R76, R230, R231: what is pushed is what is popped: an item of the queue's size that a local port pushes into a queue which
holds nothing for a consumer port is that port's candidate, with its type and its bytes. -/
def Obligations.PushedItemIsTaken : Prop :=
  ∀ (s : State) (id p c : Nat) (x : Queue) (y : ConsPort) (it : Item), s.queue? id = some x → x.isLocal p = true →
    x.cons[c]? = some y → y.headN = x.tailN → y.headU = x.tailU → y.taken = [] → x.items = [] → x.heldItems = [] → x.heldSlots = [] →
    x.mapped.isSome = true → x.hostProducer = none → x.hostConsumer = none → it.kind = 0 → it.bytes.length = x.isz →
    (∀ a b, x.base ≤ a → a < x.base + x.footprint → x.base ≤ b → b < x.base + x.footprint → x.pa a = x.pa b → a = b) →
    ∃ z, (s.push id p none false it).queue? id = some z ∧ z.desc = x.desc ∧ z.tailN = x.tailN + 1 ∧
      (s.push id p none false it).candidate z c none = .item false x.tailN ∧
      (s.push id p none false it).itemAt z false x.tailN = it.bytes ∧ (s.push id p none false it).itypeAt z false x.tailN = it.type ∧
      ∀ a, (∀ b, x.base ≤ b → b < x.base + x.footprint → x.pa b ≠ a) → (s.push id p none false it).byteAt a = s.byteAt a

/-- R237 to R239, R84, R226: `qstat` gives the queue's word and changes nothing; `qwin` sets the window of a remote port where the windows then
fit the capacity, in the state block too while the queue is unmapped (R378), and gives the old one or 0; `qfence` and `qfence.sig` push a wait entry of tails or of a signal, behind the port, room and,
for a signal, address checks.

R75, R76, R85, R379: the queue managers' own steps. The home accepts the oldest item of a remote port while the queue is mapped and
its lane and ring have room, and admits what the host has announced; an acknowledgement gives the port of a mapped queue a slot back; a wait entry at a head of a mapped queue that holds is passed and one that does not stays; each of them without
its condition changes nothing. -/
def Obligations.QueueStatusAndManagers : Prop :=
  (∀ (s : State) (st : Fin 8) (d g v : Fin 32) (q k : Fin 16) (n : Fin 8),
    let u := s.atIssue
    let enters := fun (i : Instr) (w : State) (bytes : State → List Byte) =>
      (∀ id x p, w.myProd q = some (id, x, p) →
        (∀ t, w.releaseMine (some (id, p, false)) = (t, true) →
          s.does (t.pushFrom (some (t.cur.1, t.me)) id p w.my.firing? false ⟨2, 0, 0, bytes t⟩) i st none) ∧
        (∀ t, w.releaseMine (some (id, p, false)) = (t, false) → s.waits t i .resource)) ∧
      (w.myProd q = none →
        (∀ t, w.releaseMine none = (t, true) →
          s.does (t.modEng (w.my.qid q) (fun x => (x.use w.my.firing?).append (.wait (bytes t) (.quad (t.cur.1 / 4))))) i st none) ∧
        (∀ t, w.releaseMine none = (t, false) → s.waits t i .resource))
    let gate := u.pushGate q false 2 0 true
    let barred := fun (i : Instr) => (∀ c, gate = .raise c → s.traps i c 0) ∧ (∀ w, gate = .wait w → s.waits w i .resource)
    (s.canIssue [] [.g d] 0 = true →
      (u.queueExists (u.my.qid q) = true → s.givesLater u (.qstat st d q) st (.g d) (.g d (u.qstatWord (u.my.qid q)))) ∧
      (u.queueExists (u.my.qid q) = false → s.traps (.qstat st d q) .qport 0)) ∧
    (s.canIssue [.g g] [.g d] 0 = true →
      (u.myProd q = none → s.traps (.qwin st d q g) .qport 0) ∧
      (∀ id x p y, u.myProd q = some (id, x, p) → x.prods[p]? = some y →
        (y.remote = false → s.traps (.qwin st d q g) .qport 0) ∧
        (y.remote = true →
          let w := (u.my.rg g).toNat
          let others := ((x.prods.filter (·.remote)).map (·.window)).sum - y.window
          (1 ≤ w → w ≤ x.cap → others + w ≤ x.cap →
            s.givesLater (u.changeQueue id (fun r => { r with prods := listModify (fun z => { z with window := w }) p r.prods })) (.qwin st d q g) st
              (.g d) (.g d (BitVec.ofNat 64 y.window))) ∧
          (¬(1 ≤ w ∧ w ≤ x.cap ∧ others + w ≤ x.cap) → s.givesLater u (.qwin st d q g) st (.g d) (.g d 0))))) ∧
    (s.canIssue [.v v] [] 1 = true →
      let ids := (List.range (n.1 + 1)).map (fun j => laneOf 16 (u.my.rv v) j)
      ((∃ j ∈ ids, u.canName j = false) → s.traps (.qfence st v q n) .qport 0) ∧
      ((∀ j ∈ ids, u.canName j = true) → barred (.qfence st v q n) ∧
        (gate = .free → enters (.qfence st v q n) u (fun t => fenceBytes ids (ids.map t.tailOf))))) ∧
    (s.canIssue [.v v, .k k] [] 1 = true →
      let va := ((u.my.rk k).cursor + BitVec.ofNat 56 (laneOf 64 (u.my.rv v) 0)).toNat
      barred (.qfenceSig st v q k) ∧
      (gate = .free →
        (∀ w c a, u.checked u.myAccess (u.my.rk k) va 8 8 permR 0 = .fault w c a → s.trapsIn w (.qfenceSig st v q k) c (BitVec.ofNat 64 a)) ∧
        (∀ w pa e, u.checked u.myAccess (u.my.rk k) va 8 8 permR 0 = .ok w pa e →
          (∀ c, w.readBarred pa 8 = some c → s.trapsIn w (.qfenceSig st v q k) c (BitVec.ofNat 64 va)) ∧
          (w.readBarred pa 8 = none →
            enters (.qfenceSig st v q k) w (fun _ => signalBytes va (BitVec.ofNat 64 (laneOf 64 (u.my.rv v) 1)))))))) ∧
  (∀ (s : State) (q n : Nat),
    (∀ x f r, s.queue? q = some x → takeInFlight n x.inflight = some (f, r) → x.mapped.isSome = true → (x.prods[n]?).any ProdPort.leaves = false →
      (f.urgent = true → (x.tailU - x.freeU).toNat < x.urgSlots) → x.occupancy + x.slotsFor f.kind.1 ≤ x.cap →
      exec (.itemAccept q n) s = .next ((s.setQueue q { x with
        inflight := r
        prods := listModify (fun p => { p with accepted := p.accepted + 1 }) n x.prods }).accept q n f.urgent ⟨f.kind.1, f.type, f.mkid, f.bytes⟩)) ∧
    (∀ x, s.queue? q = some x → takeInFlight n x.inflight = none →
      exec (.itemAccept q n) s = .next (if (x.prods[n]?).any (fun p => p.owner == .host) then s.admitHost q n 1 else s)) ∧
    (∀ x, s.queue? q = some x → (x.mapped = none ∨
      ∃ f r, takeInFlight n x.inflight = some (f, r) ∧
        (f.urgent = true ∧ x.urgSlots ≤ (x.tailU - x.freeU).toNat ∨ x.cap < x.occupancy + x.slotsFor f.kind.1)) →
      exec (.itemAccept q n) s = .next s) ∧
    (∀ x p, s.queue? q = some x → n ∈ x.acks → x.mapped.isSome = true → x.prods[n]? = some p → p.link = none →
      exec (.acknowledgementArrival q n) s = .next (s.setQueue q { x with
        acks := x.acks.erase n
        prods := listModify (fun p => { p with used := p.used - 1 }) n x.prods })) ∧
    (∀ x, s.queue? q = some x → n ∉ x.acks ∨ x.mapped = none → exec (.acknowledgementArrival q n) s = .next s) ∧
    (isEngineId q = false →
      (∀ x y, s.queue? q = some x → x.cons[n]? = some y → x.mapped.isSome = true → s.parkedFor x y = true →
        let bytes := s.entryBytes x y.headN
        (∀ t, s.entryHolds bytes x.job x.homeIsland q = .yes t → exec (.waitEntryHolds q n) s = .next (t.passSlots q n false y.headN (x.slotsFor 2))) ∧
        (∀ t, s.entryHolds bytes x.job x.homeIsland q = .no t → exec (.waitEntryHolds q n) s = .next t)) ∧
      (∀ x y, s.queue? q = some x → x.cons[n]? = some y → x.mapped = none ∨ s.parkedFor x y = false → exec (.waitEntryHolds q n) s = .next s)) ∧
    (isEngineId q = true → ∀ bs o r, (s.eng q).entries = .wait bs o :: r →
      (∀ t, s.entryHolds bs ((s.tileJob o).getD 0) (engineIsland q) q = .yes t →
        exec (.waitEntryHolds q n) s = .next ((t.modEng q (fun e => { e with entries := r })).noteBusy (engineIsland q))) ∧
      (∀ t, s.entryHolds bs ((s.tileJob o).getD 0) (engineIsland q) q = .no t → exec (.waitEntryHolds q n) s = .next t)))

/-- R102, R115 to R117, R341, R343: writes that arrive at core windows. A writer that may not reach the window, the arbor firewall among
the reasons, gets that cause and nothing changes. Else a landing register takes a write where its enable bit is set and its VALID
bit is 0, holds it back while VALID is 1 and raises WINDOW where it is not enabled; an accumulator element takes a dword, and raises WINDOW
while a command in flight names its tile; a decode table takes 20 bits; a write to an offset marked WINDOW changes nothing and raises it at
the writer; a privileged window is written by contexts and engines only (R395), with authority and at an aligned address. -/
def Obligations.WindowWrites : Prop :=
  ∀ (s : State) (w : Writer) (core : Fin 4096) (c : Fin 4) (j tile : Fin 8) (t : Fin 4) (el : Fin 256) (v : VReg) (x : Dword) (y : BitVec 32)
    (pa : Nat),
    let la := windowAddr core (c.1 * 0x2000 + 0x1C00 + 128 * j.1)
    let aa := windowAddr core (0x8000 + 0x800 * tile.1 + 8 * el.1)
    let ta := windowAddr core (0xC000 + 0x400 * t.1 + 4 * el.1)
    (∀ e, s.writerBarred w la = some e → exec (.landingWrite w core c j v) s = .next (s.faultAt w e la)) ∧
    (s.writerBarred w la = none →
      ((s.ctx core c).landctl.getLsbD (8 + j.1) = false → exec (.landingWrite w core c j v) s = .next (s.faultAt w .window la)) ∧
      ((s.ctx core c).landctl.getLsbD (8 + j.1) = true → (s.ctx core c).landctl.getLsbD j.1 = true →
        exec (.landingWrite w core c j v) s = .next s) ∧
      ((s.ctx core c).landctl.getLsbD (8 + j.1) = true → (s.ctx core c).landctl.getLsbD j.1 = false →
        ∃ u, exec (.landingWrite w core c j v) s = .next (s.modCtx core c (fun _ => u)) ∧
          (∀ r : Fin 32, u.rv r = if r.1 = 24 + j.1 then v else (s.ctx core c).rv r) ∧
          (∀ b : Nat, b < 16 → u.landctl.getLsbD b = (decide (b = j.1) || (s.ctx core c).landctl.getLsbD b)) ∧
          u = { s.ctx core c with v := u.v, landctl := u.landctl })) ∧
    (∀ e, s.writerBarred w aa = some e → exec (.accRemoteWrite w core tile el x) s = .next (s.faultAt w e aa)) ∧
    (s.writerBarred w aa = none →
      ((s.core core).mu.busyTile tile.1 = false →
        ∃ m, exec (.accRemoteWrite w core tile el x) s = .next (s.setMu core m) ∧
          (∀ a b, b < 256 → m.el a b = if a = tile.1 ∧ b = el.1 then x else (s.core core).mu.el a b) ∧
          m = { (s.core core).mu with acc := m.acc }) ∧
      (∀ e, (s.core core).mu.busyTile tile.1 = true → (w = .outside → exec (.accRemoteWrite w core tile el x) s = .next s) ∧
        (w = .engine e → exec (.accRemoteWrite w core tile el x) s = .next (s.stopEntry e .window aa))) ∧
      (∀ d z, (s.core core).mu.busyTile tile.1 = true → w = .context d z → exec (.accRemoteWrite w core tile el x) s =
        .next (s.report (.quad (d / 4)) { s.contextRec d z .window (BitVec.ofNat 64 aa) with imp := true }))) ∧
    (∀ e, s.writerBarred w ta = some e → exec (.tableWindowWrite w core ⟨t, el⟩ y) s = .next (s.faultAt w e ta)) ∧
    (s.writerBarred w ta = none → ∃ m, exec (.tableWindowWrite w core ⟨t, el⟩ y) s = .next (s.setMu core m) ∧
      (∀ a, mapGet 0 m.tbl a = if a = t.1 * 256 + el.1 then y.setWidth 20 else mapGet 0 (s.core core).mu.tbl a) ∧
      m = { (s.core core).mu with tbl := m.tbl }) ∧
    (∀ k o, coreWindow? pa = some (k, o) →
      (∀ e, s.writerBarred w pa = some e → exec (.windowWrite w pa) s = .next (s.faultAt w e pa)) ∧
      (s.writerBarred w pa = none → exec (.windowWrite w pa) s = .next (match s.windowCheck k o 8 false with
        | some e => s.faultAt w e pa
        | none => s))) ∧
    (regionOf pa ≠ 3 ∨ w = .outside → exec (.privWindowWrite w pa x) s = .next s) ∧
    (regionOf pa = 3 → w ≠ .outside →
      (pa % 8 ≠ 0 → exec (.privWindowWrite w pa x) s = .next (s.faultAt w .align pa)) ∧
      (∀ e, pa % 8 = 0 → s.writerBarred w pa = some e → exec (.privWindowWrite w pa x) s = .next (s.faultAt w e pa)) ∧
      (∀ e, pa % 8 = 0 → s.writerBarred w pa = none → s.deviceCheck pa 8 false = some e →
        exec (.privWindowWrite w pa x) s = .next (s.faultAt w e pa)) ∧
      (pa % 8 = 0 → s.writerBarred w pa = none → s.deviceCheck pa 8 false = none →
        exec (.privWindowWrite w pa x) s = .next (s.putDevice w pa x)))

/-- R377 to R380: a queue manager refuses a MAP for a slot in use, a block that names no queue or a queue that is mapped, and an UNMAP of an
empty slot or of a queue with a reservation: ERR is set and nothing else changes; while BUSY is 1 a command is ignored. An accepted command
sets BUSY, and from then on an UNMAP's queue is unmapped, its notify word in NOTE. A completed MAP leaves the queue mapped in the slot, a
completed UNMAP leaves the slot empty and the queue's state in its block, and maps the queue again where its notify word was written
meanwhile (R380); a MAP takes up what the host has written to the word since it was last read (R399). That a block that names no queue leaves
QPORT is the model's reading (log entry 37).

R379, R399, R381: the queue-slot role begins a MAP for a queue that is asked for where its home's manager has a free slot and is not
busy; a notify word written by the host stands in the notify page, its own half of it alone (Table 22-2); a scan of a group clears its bit and, with every word as last read,
changes nothing else; the watchdog posts nothing within 10 ms of the partition's last step, and for a wait entry at the head of an engine queue
alone it posts one report to the tile that pushed it (such a queue has no BASE: log entry 100, the model's choice). -/
def Obligations.QueueManagerCommands : Prop :=
  (∀ (s : State) (n sl : Fin 256) (blk : BitVec 44),
    let i := s.island n
    let a := blk.toNat * 256
    let m : Instr := .qmcmdMap n sl blk
    let un : Instr := .qmcmdUnmap n sl
    let refused := fun (j : Instr) (c : Cause) => ∃ x, exec j s = .next (s.modIsland n (fun k => { k with qmErr := code8 c, qmCmd := x }))
    let taken := fun (j : Instr) (u : State) (b : Bool) (q : Nat) =>
      ∃ x, exec j s = .next (u.modIsland n (fun k => { k with qmErr := 0, qmCmd := x, qmSlot := sl, busy := some (sl, b, q) }))
    (i.busy.isSome = true → exec m s = .next s ∧ exec un s = .next s) ∧
    (i.busy = none →
      (regionOf a ≠ 0 → refused m .buserr) ∧
      (regionOf a = 0 →
        ((mapFind i.slots sl.1).isSome = true → refused m .qport) ∧
        (s.queueOfBlock a = none → refused m .qport) ∧
        (∀ q, s.queueOfBlock a = some q → s.islands.any (fun e => e.2.slots.any (fun p => p.2 == q) || e.2.busy.any (fun b => b.2.2 == q)) = true →
          refused m .qport) ∧
        (∀ q, mapFind i.slots sl.1 = none → s.queueOfBlock a = some q →
          s.islands.any (fun e => e.2.slots.any (fun p => p.2 == q) || e.2.busy.any (fun b => b.2.2 == q)) = false → taken m s true q)) ∧
      (mapFind i.slots sl.1 = none → refused un .qport) ∧
      (∀ q y, mapFind i.slots sl.1 = some q → s.queue? q = some y →
        (s.resv y = true → refused un .qport) ∧
        (s.resv y = false → taken un (s.setQueue q { y with mapped := none, note := s.notifyWord q y, wake := false }) false q))) ∧
    (i.busy = none → exec (.qmCommandComplete n) s = .next s) ∧
    (∀ q y, s.queue? q = some y → (i.busy = some (sl, true, q) →
      ∃ t z, exec (.qmCommandComplete n) s = .next
          (if s.notifyWord q y = s.noteSeen q y ∨ (y.hostProducer = none ∧ y.hostConsumer = none) then t else t.applyNotify q) ∧ t.queue? q = some z ∧ z.mapped = some (n.1, sl.1) ∧ z.wanted = false ∧
        z.pages = y.pages ∧ (t.island n).busy = none ∧ mapFind (t.island n).slots sl.1 = some q ∧ t.mem = s.mem ∧
        (∀ b, b ≠ q → t.queue? b = s.queue? b) ∧ ∀ b, b ≠ n.1 → t.island b = s.island b) ∧
      (i.busy = some (sl, false, q) →
        let again := y.wake || s.notifyWord q y != y.note
        ∃ u, exec (.qmCommandComplete n) s = .next (if again then u.mapRole q else u) ∧
          (u.island n).busy = none ∧ mapFind (u.island n).slots sl.1 = none ∧
          u.queue? q = some { y with wanted := y.wanted || again } ∧
          (y.block ≠ 0 → u.peek y.block (s.blockBytes y).length = s.blockBytes y) ∧
          ∀ b, y.block = 0 ∨ b < y.block ∨ y.block + (s.blockBytes y).length ≤ b → u.byteAt b = s.byteAt b))) ∧
  (∀ (s : State) (q : Nat) (y : Queue) (p : Fin 4) (n : Fin 65536) (g : Fin 1024) (x : Dword),
    (s.queue? q = some y → s.askedFor y = true → y.mapped = none → (s.island y.homeIsland).busy = none →
      ∀ sl : Fin 256, mapFind (s.island y.homeIsland).slots sl.1 = none →
        (∀ k : Fin 256, k.1 < sl.1 → mapFind (s.island y.homeIsland).slots k.1 ≠ none) →
        exec (.mapRequest q) s =
          .next (s.modIsland y.homeIsland (fun i => { i with
            qmErr := 0, qmCmd := BitVec.ofNat 64 (2 ^ 60 + sl.1 * 2 ^ 52 + y.block), qmSlot := sl, busy := some (sl, true, q) }))) ∧
    (s.queue? q = none → exec (.mapRequest q) s = .next s) ∧
    (s.queue? q = some y → (y.mapped.isSome = true ∨ s.askedFor y = false) → exec (.mapRequest q) s = .next s) ∧
    (s.notifyBase.get p = 0 → exec (.notifyWrite p n x) s = .next s ∧ exec (.notifyScan p g) s = .next s) ∧
    (s.notifyBase.get p ≠ 0 → ∃ t, exec (.notifyWrite p n x) s = .next t ∧
      t = { s.writePlain (s.notifyBase.get p + 8 * n.1) (dwordBytes (match s.queue? n.1 with
        | some z => z.hostWrites (s.peekD (s.notifyBase.get p + 8 * n.1)) x
        | none => x)) with host := t.host } ∧ t.cores = s.cores) ∧
    (s.notifyBase.get p ≠ 0 →
      let v := s.notifyBase.get p + 0x80000 + g.1 / 8
      let u := s.deviceWrite v [s.byteAt v &&& ~~~(BitVec.ofNat 8 (2 ^ (g.1 % 8)))]
      ((s.byteAt v).getLsbD (g.1 % 8) = false → exec (.notifyScan p g) s = .next s) ∧
      ((s.byteAt v).getLsbD (g.1 % 8) = true →
        (∀ k, k < 64 → mapGet 0 s.host.notifySeen (p.1 * 65536 + (64 * g.1 + k)) = u.peekD (s.notifyBase.get p + 8 * (64 * g.1 + k))) →
        exec (.notifyScan p g) s = .next u)) ∧
    (s.micros < s.quietSince.get p + 10000 → exec (.deadlock p) s = .next s) ∧
    (∀ t, s.stuckFor10ms p = true → s.episodePosted p = false → s.queuesOf p = [] → s.parkedEngines p = [t] →
      ∃ u, exec (.deadlock p) s = .next u ∧
        u = { s.report t { cause := .deadlock, src := 7 } with deadlockAt := vset s.deadlockAt p (some s.micros) }))

/-- R383, R384, R387, R388, R382: TARGET 1 starts a pre-emption where the save area lies in region 0x00 and no wavefront is in flight, and is
held during a transition; the contexts stopped at once have their images and headers in the save area and no other byte of memory changes; a
context that ends or waits for an answer in STATE 1 stops, and a core with every context stopped and an empty matrix unit saves its image; a
forced save acts one millisecond after TARGET 1, not before, saves every context not yet stopped whole with FORCED and writes no byte beside
their images and headers; TARGET 0 sets STATE 3, and from there the tile is brought back, its saved lines with their bits and every other
line zero and empty; a tile in release goes once nothing of it remains, its scratchpad zero;
a fabric tile's call that can never end ends with its release (R320), and the tile goes once nothing stands in its queue or on EXIT. -/
def Obligations.PreemptionAndRelease : Prop :=
  ∀ (s : State) (q : Fin 1024) (c : Fin 4096) (x : Tile),
    let k := s.quad q
    let written := fun (b : Bool) => s.modQuad q (fun y => { y with target := b })
    let area := fun (j : Nat) (y : Fin 4) (a : Nat) =>
      (s.saveAt q (8 * (4 * j + y.1)) ≤ a ∧ a < s.saveAt q (8 * (4 * j + y.1)) + 8) ∨
        (s.saveAt q (0x10000 + 0x2000 * (4 * j + y.1)) ≤ a ∧ a < s.saveAt q (0x10000 + 0x2000 * (4 * j + y.1)) + 0x2000)
    let image := fun (t : State) (j : Nat) (y : Fin 4) (how : Nat) =>
      t.peek (s.saveAt q (8 * (4 * j + y.1))) 8 = leBytes 8 (how + (s.ctx (4 * q.1 + j) y).pc.toNat * 256) ∧
      t.peek (s.saveAt q (0x10000 + 0x2000 * (4 * j + y.1))) 0x2000
        = (s.haltRep (4 * q.1 + j) y).ctxImage (4 * q.1 + j) y allRegs allRegs
    let held := fun (b : Bool) => (written b).modQuad q (fun y => { y with heldTarget := some b, heldBy := .outside })
    (k.heldTarget = none →
      (k.ctlState = 0 → s.wavefront (s.jobOf (4 * q.1)) = false → regionOf (s.saveAt q 0) = 0 →
        ∃ t, exec (.tilectlTargetPreempt q) s = .next t ∧ (t.quad q).target = true ∧ (t.quad q).ctlState = 1 ∧
          (t.quad q).preemptAt = s.micros ∧ (t.quad q).forced = false ∧ (t.quad q).tile = k.tile ∧ t.queues = s.queues ∧
          (∀ j y, (s.ctx (4 * q.1 + j) y).stopsAtOnce = true → j < 4 → (t.ctx (4 * q.1 + j) y).stopped = true ∧
            ((s.ctx (4 * q.1 + j) y).stopped = false → image t j y 1)) ∧
          (∀ j y, (s.ctx (4 * q.1 + j) y).stopsAtOnce = false → j < 4 → t.ctx (4 * q.1 + j) y = s.ctx (4 * q.1 + j) y) ∧
          ∀ a, (∀ j y, j < 4 → (s.ctx (4 * q.1 + j) y).stopsAtOnce = true → ¬area j y a) → t.byteAt a = s.byteAt a) ∧
      (k.ctlState = 0 → s.wavefront (s.jobOf (4 * q.1)) = true →
        exec (.tilectlTargetPreempt q) s = .next (held true)) ∧
      (k.ctlState = 1 → exec (.tilectlTargetPreempt q) s = .next (held true) ∧ exec (.tilectlTargetRun q) s = .next (held false)) ∧
      (k.ctlState = 3 → exec (.tilectlTargetPreempt q) s = .next (held true)) ∧
      (k.ctlState = 2 →
        exec (.tilectlTargetPreempt q) s = .next ((written true).modQuad q (fun y => { y with ctlState := 2, heldTarget := none })) ∧
        exec (.tilectlTargetRun q) s = .next ((written false).modQuad q (fun y => { y with ctlState := 3, heldTarget := none })))) ∧
    (k.ctlState = 3 → ∃ t, exec (.tilectlTargetRun q) s = .next t ∧ (t.quad q).ctlState = 0 ∧ (t.quad q).target = k.target ∧
      t.queues = s.queues ∧ (∀ j y, j < 4 → (t.ctx (4 * q.1 + j) y).stopped = false) ∧ (∀ a, regionOf a = 0 → t.byteAt a = s.byteAt a) ∧
      (regionOf (s.saveAt q 0) = 0 →
        let bit := fun (off l : Nat) => (s.byteAt (s.saveAt q (off + l / 8))).getLsbD (l % 8)
        ∀ l b, l < 8192 → b < 128 →
          t.byteAt (scratchBase q + 128 * l + b) = (if bit 0x50400 l then s.byteAt (s.saveAt q (0x100000 + 128 * l) + b) else 0) ∧
          t.isFull (scratchBase q + 128 * l) = (bit 0x50400 l && bit 0x50000 l))) ∧
    ((s.quad (c.1 / 4)).ctlState = 1 → (s.core c).saved = false → (∀ y, (s.ctx c y).stopped = true) → (s.core c).mu.queue = [] →
      (s.core c).rep.all (·.saved) = true → (∃ j, j < 4 ∧ c.1 / 4 * 4 + j ≠ c.1 ∧ (s.core (c.1 / 4 * 4 + j)).saved = false) →
      exec (.muDrainSave c) s = .next ((s.deviceWrite (s.saveAt (c.1 / 4) (0x30000 + 0x8000 * (c.1 % 4))) (s.coreImage c)).modCore c
        (fun y => { y with saved := true }))) ∧
    (∀ y, (s.quad (c.1 / 4)).ctlState = 1 → (s.ctx c y).stopsAtOnce = true →
      ∃ t, exec (.muDrainSave c) s = .next t ∧ (t.ctx c y).stopped = true) ∧
    ((s.quad (c.1 / 4)).ctlState ≠ 1 → exec (.muDrainSave c) s = .next s) ∧
    (k.ctlState ≠ 1 ∨ s.micros < k.preemptAt + 1000 → exec (.forcedSave q) s = .next s) ∧
    (k.ctlState = 1 → k.preemptAt + 1000 ≤ s.micros →
      ∃ t, exec (.forcedSave q) s = .next t ∧ t.queues = s.queues ∧
        (∀ j y, j < 4 → (t.ctx (4 * q.1 + j) y).stopped = true ∧
          ((s.ctx (4 * q.1 + j) y).stopped = true → t.ctx (4 * q.1 + j) y = s.ctx (4 * q.1 + j) y) ∧
          ((s.ctx (4 * q.1 + j) y).stopped = false → (t.ctx (4 * q.1 + j) y).forced = true ∧ image t j y 3 ∧
            (t.core (4 * q.1 + j)).accMask = 0xFF ∧ (t.quad q).forced = true ∧
            ∀ l, l ∈ linesOfRange (j * 0x40000) 0x40000 → l ∈ (t.quad q).savedLines)) ∧
        ∀ a, (∀ j y, j < 4 → (s.ctx (4 * q.1 + j) y).stopped = false → ¬area j y a) → t.byteAt a = s.byteAt a) ∧
    (k.tile = none → exec (.tileRelease (.quad q)) s = .next s) ∧
    (k.tile = some x → x.releasing = true ∨ s.programOver q x = true → s.quadBusy q x = false →
      ∃ t, exec (.tileRelease (.quad q)) s = .next t ∧ (t.quad q).tile = (if s.isArbor q then some (s.roleTile q) else none) ∧
        (∀ a, a < 0x100000 → t.byteAt (scratchBase q + a) = 0 ∧ t.isFull (scratchBase q + a) = false) ∧
        ∀ y, y ≠ q.1 → t.quad y = s.quad y) ∧
    (k.tile = some x → s.quadBusy q x = true ∨ x.releasing = false ∧ s.programOver q x = false →
      exec (.tileRelease (.quad q)) s = .next s) ∧
    (∀ f, s.fab? f = none → exec (.tileRelease (.fabric f)) s = .next s) ∧
    (∀ f y, s.fab? f = some y →
      (y.releasing = false → exec (.tileRelease (.fabric f)) s = .next s) ∧
      (y.releasing = true → s.callDead f y = true → exec (.tileRelease (.fabric f)) s = .next (s.endCall f y)) ∧
      (y.releasing = true → s.callDead f y = false →
        (y.between = false ∨ y.queue ≠ [] ∨ y.prunes ≠ [] ∨ y.exitQ ≠ [] ∨ s.entriesOf (.fabric f) = true →
          exec (.tileRelease (.fabric f)) s = .next s) ∧
        (y.between = true → y.queue = [] → y.prunes = [] → y.exitQ = [] → s.entriesOf (.fabric f) = false →
          ∃ t, exec (.tileRelease (.fabric f)) s = .next t ∧ t.fab? f = none ∧ t.cores = s.cores ∧ ∀ g, g ≠ f → t.fab? g = s.fab? g)))

/-- R15, R55, R56, R144, R145: waits and switches. A wait for a register ends once no result for it is pending, a pop wait once an item can be
taken, a barrier or signal wait once its condition holds or, for a barrier, its deadline has passed; a wait for room ends where the
instruction, issued again, would wait no more, and else lasts, with what trying it has set going; fault and trap waits do not end so. A core
leaves a context at a stall event for the next ready one, in one cycle, even where the wait has ended meanwhile (`left`); a scoreboard wait
becomes a stall event after 8 cycles. A pending result that is known is written to its register, behind the results of fixed latency into that
register that are due by then; other results stay pending (R144). -/
def Obligations.WaitsAndSwitches : Prop :=
  ∀ (s : State) (c : Fin 4096) (x : Fin 4) (n : Nat),
    let y := s.ctx c x
    let k := s.core c
    let r := s.ctx c k.running
    let goes := exec (.waitEnd c x) s = .next (s.wakeCtx c x (fun z => { z with wait := .none, waited := 0 }))
    let stays := exec (.waitEnd c x) s = .next s
    (y.wait = .none → stays) ∧ (y.wait = .trap → stays) ∧ (∀ p, y.wait = .fault p → stays) ∧
    (∀ f, ((s.wakeCtx c x f).core c).left = (k.left || (decide (k.running = x) && r.stalled))) ∧
    (y.wait = .resource ∨ y.wait = .call → goes ∧
      (((s.tryAgain c x).ctx c x).wait.holdsUp = false → s.waitTurn c x = exec (.waitEnd c x) s) ∧
      (((s.tryAgain c x).ctx c x).wait.holdsUp = true → ∃ t, s.waitTurn c x = .next t ∧ (t.ctx c x).wait = ((s.tryAgain c x).ctx c x).wait ∧
        (t.ctx c x).since = y.since ∧ (t.core c).clock = k.clock ∧ (t.core c).running = k.running ∧ t.cur = s.cur ∧
        t.mem = (s.tryAgain c x).mem ∧ t.queues = (s.tryAgain c x).queues)) ∧
    (y.wait = .pop → (s.popReady c x = true → goes) ∧ (s.popReady c x = false → stays)) ∧
    (∀ d pa g, y.wait = .barrier d pa g →
      (s.barrierOpen pa g = true ∨ (∃ e, d = some e ∧ e ≤ k.clock) → goes) ∧
      (s.barrierOpen pa g = false → (∀ e, d = some e → k.clock < e) → stays)) ∧
    (∀ pa v, y.wait = .signal pa v → (s.signalReached pa v = true → goes) ∧ (s.signalReached pa v = false → stays)) ∧
    (y.wait = .miss → (s.merged c x = true → stays) ∧ (s.merged c x = false → goes)) ∧
    (∀ g, y.wait = .reg g → ((∃ p, p ∈ y.vars ∧ p.reg = g) → stays) ∧
      ((∀ p, p ∈ y.vars → p.reg ≠ g) → y.landingEmpty g = false → goes)) ∧
    (k.left = false → r.stalled = false → exec (.contextSwitch c) s = .next s) ∧
    (k.left = true ∨ r.stalled = true →
      (∀ z, k.nextReady = some z →
        exec (.contextSwitch c) s = .next (s.modCore c (fun k => { k with running := z, left := false, clock := k.clock + 1 }))) ∧
      ((∀ z, (s.ctx c z).ready = false) → exec (.contextSwitch c) s = .next s)) ∧
    (∀ t, (∃ g, r.wait = .reg g) ∨ r.wait = .resource → r.since = some t →
      let u := s.modCtx c k.running (fun y => { y with waited := 8 })
      (k.clock < t + 8 → exec (.scoreboardStall c) s = .next s) ∧
      (t + 8 ≤ k.clock → (∀ z, (s.ctx c z).ready = false) → exec (.scoreboardStall c) s = .next u) ∧
      (∀ z, t + 8 ≤ k.clock → k.nextReady = some z →
        exec (.scoreboardStall c) s = .next (u.modCore c (fun k => { k with running := z, left := false, clock := k.clock + 1 })))) ∧
    (∀ w g, y.vars[n]? = some ⟨g, some w⟩ →
      let u := s.modCtx c x (fun z => { (z.landReg w.reg k.clock).apply w with vars := z.vars.eraseIdx n })
      (y.stopped = false → exec (.variableResultWrite c x n) s = .next u) ∧
      (y.stopped = true → exec (.variableResultWrite c x n) s = .next (u.saveWrite c x w))) ∧
    (∀ g, y.vars[n]? = some ⟨g, none⟩ → exec (.variableResultWrite c x n) s = .next s) ∧
    (y.vars[n]? = none → exec (.variableResultWrite c x n) s = .next s)

/-- R14, R369 to R372: taking an exception. No register, store, memory or state register of the instruction is written and its pc stays on
it. Where the exception queue has room the record is posted there, with the next RID and LOST since the last one, TRAPCAUSE, TRAPPC and TRAPVAL
of the context that it names receive the cause, the pc and the address, and the context waits for the answer; where it has none, the context holds the record, and those that follow it, until FAULT_RECORD_PUSH
finds room for the oldest.

R371, R373, R88, R89: answers. The answer at the head of a tile's answer queue is taken and ends the wait of the record that its RID
names: resume goes on at the faulting instruction, skip behind it with its destinations zero and nothing pending for them, abort ends the
firing, with its holds and its count; a trap wait behind a fault wait lasts (R350). One that names no record
is discarded. An aligned actor drains its firings and, where every output takes a marker, moves its marker there from its inputs; a marker at some inputs
only is reported after QUIESCETO, not before. That only an answer at the head acts (log entry 32), where QUIESCETO begins (log entry 51) and the q
register in AUX (log entry 52) are the model's choices. -/
def Obligations.ExceptionsAndAnswers : Prop :=
  (∀ (s : State) (c : Cause) (a : Dword),
    let x := s.my
    let l := s.contextRec s.cur s.me c a
    let h := if c = .qformat then none else some (Holder.context s.cur s.me)
    let t := s.raise c a
    t.my.g = x.g ∧ t.my.v = x.v ∧ t.my.m = x.m ∧ t.my.k = x.k ∧ t.my.q = x.q ∧ t.my.pc = x.pc ∧ t.my.stores = x.stores ∧ t.my.run = x.run ∧
    t.my.fpmode = x.fpmode ∧ t.my.fpflags = x.fpflags ∧ t.my.landctl = x.landctl ∧ t.my.stallchk = x.stallchk ∧ t.my.holds = x.holds ∧
    (t.core s.cur).clock = (s.core s.cur).clock + 1 ∧ (∀ y, y ≠ s.me → t.ctx s.cur y = s.ctx s.cur y) ∧ t.my.ready = false ∧
    (∀ u, x.unposted = [] → s.pushRecord (.quad (s.cur.1 / 4)) l h = some u →
      t.my.wait = .fault [] ∧ t.my.trapCause = BitVec.ofNat 8 (causeCode c) ∧ t.my.trapPc = x.pc.setWidth 64 ∧ t.my.trapVal = a ∧
      t.mem = u.mem ∧ t.queues = u.queues ∧ t.quads = u.quads) ∧
    (x.unposted = [] → s.pushRecord (.quad (s.cur.1 / 4)) l h = none →
      t.my.wait = .fault [l] ∧ t.my.trapCause = x.trapCause ∧ t.my.trapPc = x.trapPc ∧ t.my.trapVal = x.trapVal ∧ t.mem = s.mem) ∧
    (∀ p r, x.unposted = p :: r →
      t.my.wait = .fault (p :: r ++ [l]) ∧ t.my.trapCause = x.trapCause ∧ t.my.trapPc = x.trapPc ∧ t.my.trapVal = x.trapVal ∧ t.mem = s.mem) ∧
    (∀ (d : Fin 4096) (z : Fin 4) (m : FaultRec) (r : List FaultRec) (u : State), (s.ctx d z).wait = .fault (m :: r) →
      s.fabrics = [] → (∀ ex, s.exSide? (.quad (d.1 / 4)) = some ex → ex.reports = []) →
      s.pushRecord (.quad (d.1 / 4)) m (heldBy m d z) = some u →
      exec (.faultRecordPush d z) s = .next (u.modCtx d z (fun y => { y with wait := .fault r }))) ∧
    (∀ (e : TileRef) (m : FaultRec) (w : Option Holder) (u : State), s.pushRecord e m w = some u →
      (∀ d z, m.ctx = some (d, z) → (u.ctx d z).trapCause = BitVec.ofNat 8 (causeCode m.cause) ∧ (u.ctx d z).trapPc = m.place ∧
        (u.ctx d z).trapVal = m.addr) ∧
      (m.ctx = none → u.cores = s.cores) ∧
      ∀ ex, s.exSide? e = some ex → ∃ ex', u.exSide? e = some ex' ∧ ex'.lost = 0 ∧ ex'.nextRid = ex.nextRid + 1 ∧
        ex'.awaiting = ex.awaiting ++ (match w with
          | some g => [⟨ex.nextRid, m.cause, g⟩]
          | none => []))) ∧
  (∀ (s : State) (t : TileRef) (rid : Fin 65536) (ex : ExSide) (id c : Nat) (u : Bool) (i : BitVec 32) (r : BitVec 16) (b : Nat),
    (s.answerHead t = none → exec (.answerResume t rid) s = .next s ∧ exec (.answerSkip t rid) s = .next s ∧ exec (.answerAbort t rid) s = .next s) ∧
    (s.answerHead t = some (id, c, u, i, r, b) → s.exSide? t = some ex →
      let v := s.takeAnswer t id c u i
      let rest := v.modEx t (fun e => { e with awaiting := e.awaiting.filter (fun y => y.rid ≠ r) })
      (r ≠ BitVec.ofFin rid → exec (.answerResume t rid) s = .next s ∧ exec (.answerSkip t rid) s = .next s ∧ exec (.answerAbort t rid) s = .next s) ∧
      (r = BitVec.ofFin rid →
        (ex.awaiting.find? (fun w => w.rid = r) = none →
          exec (.answerResume t rid) s = .next v ∧ exec (.answerSkip t rid) s = .next v ∧ exec (.answerAbort t rid) s = .next v) ∧
        (∀ w, ex.awaiting.find? (fun w => w.rid = r) = some w →
          (w.cause.accepts b = false → exec (.answerResume t rid) s = .next v ∧ exec (.answerSkip t rid) s = .next v ∧
            exec (.answerAbort t rid) s = .next v) ∧
          (w.cause.accepts b = true →
            (b = 0 → exec (.answerResume t rid) s = .next (rest.resume t w.holder)) ∧
            (b = 1 → exec (.answerSkip t rid) s = .next (rest.skip w.holder)) ∧
            (b = 2 → exec (.answerAbort t rid) s = .next (rest.abort t w.holder)))))) ∧
    (∀ (d : Nat) (z : Fin 4) (e : ExSide), s.exSide? (.quad (d / 4)) = some e → (∀ w, w ∈ e.awaiting → w.holder.isCtx d z = false) →
      (s.ctx d z).unposted = [] →
      let ends := fun (y : Ctx) => if y.trapped then Wait.trap else .none
      (s.resume (.quad (d / 4)) (.context d z) = s.wakeCtx d z (fun y => { y with
        wait := ends y, since := none, waited := 0, readyAt := (s.core d).clock })) ∧
      ((s.ctx d z).stopped = false →
        let ds := s.destsAt d z
        let x := s.ctx d z
        let w := (s.skip (.context d z)).ctx d z
        w.pc = x.pc + 4 ∧ w.wait = ends x ∧ (s.skip (.context d z)).mem = s.mem ∧
        (∀ n, w.rg n = if .g n ∈ ds then 0 else x.rg n) ∧ (∀ n, w.rv n = if .v n ∈ ds then 0 else x.rv n) ∧
        (∀ n, w.rm n = if .m n ∈ ds then 0 else x.rm n) ∧ (∀ n, w.rk n = if .k n ∈ ds then {} else x.rk n) ∧
        w.vars = x.vars.filter (fun p => !ds.contains p.reg) ∧
        ∀ p, p ∈ w.fixed ↔ p ∈ x.fixed ∧ ∀ n, p.write.reg = some n → n ∉ ds)) ∧
    (∀ (d : Nat) (z : Fin 4) (f : TileRef),
      let w := s.abort f (.context d z)
      (w.ctx d z).wait = .none ∧ (w.ctx d z).trapped = false ∧ (w.ctx d z).holds = [] ∧ (∀ g, (w.core d).rep = some g → g.ctx ≠ z) ∧
      (∀ e, w.exSide? (.quad (d / 4)) = some e → ∀ y, y ∈ e.awaiting → y.holder.isCtx d z = false) ∧ w.ctx d z = { w.ctx d z with run := .free } ∧
      (∀ g y, (s.ctx d z).run = .firing g → (s.ctx d z).holds = [] → (s.ctx d z).stores = [] →
        (∀ e, e ∈ s.queues → ∀ v, v ∈ e.2.items → v.key ≠ firingKey g) → s.actor? (firingKey g).quad (firingKey g).actor = some y →
        w.actor? (firingKey g).quad (firingKey g).actor = some { y with
          inFlight := y.inFlight - 1, aborts := if y.aborts = -1 then y.aborts else y.aborts + 1 })) ∧
    (∀ (q : Fin 1024) (a : Fin 64) (y : ActorSt) (m : BitVec 32), s.unitRuns q = true → s.actor? q a = some y → s.aligned q y = some m →
      let drained := s.modActor q a (fun y => { y with hold := .draining m })
      (∀ n, y.hold = .held n → exec (.markerAlign q a) s = .next s) ∧
      (∀ n, y.hold = .moved n → exec (.markerAlign q a) s = .next (s.postMarker q a n)) ∧
      (y.hold = .none ∨ (∃ n, y.hold = .draining n) →
        (y.inFlight ≠ 0 ∨ y.decl.outs.all (drained.takesMarker q) = false → exec (.markerAlign q a) s = .next drained) ∧
        (y.inFlight = 0 → y.decl.outs.all (drained.takesMarker q) = true →
          let taken := y.decl.ins.foldl (fun (st : State) p => st.dropMarker q m p) drained
          let sent := y.decl.outs.foldl (fun (st : State) p => st.sendMarker q m p) taken
          exec (.markerAlign q a) s =
            .next ((sent.modActor q a (fun y => { y with hold := .moved m, direct := none, oneSided := none })).postMarker q a m)))) ∧
    (∀ (q : Fin 1024) (a : Fin 64), s.unitRuns q = false ∨ s.actor? q a = none → exec (.markerAlign q a) s = .next s) ∧
    (∀ (q a n : Nat) (y : ActorSt) (tl : Tile) (d : Nat), s.actor? q a = some y → (s.quad q).tile = some tl →
      ((s.aligned q y).isSome = true → exec (.quiesceStuck (.actor q a n)) s = .next (s.modActor q a (fun y => { y with oneSided := none }))) ∧
      (s.aligned q y = none → y.hold = .none → (∃ p m, p ∈ y.decl.ins ∧ s.inputMarker q p = some m) →
        (y.oneSided = none → exec (.quiesceStuck (.actor q a n)) s =
          .next (s.modActor q a (fun y => { y with oneSided := some (s.core (4 * q)).clock }))) ∧
        (y.oneSided = some d → (s.core (4 * q)).clock < d + (s.quad q).quiesceTo.toNat → exec (.quiesceStuck (.actor q a n)) s = .next s) ∧
        (∀ p k v, y.oneSided = some d → d + (s.quad q).quiesceTo.toNat ≤ (s.core (4 * q)).clock → y.decl.ins[n]? = some p →
          s.inputMarker q p = none → y.decl.ins.findSome? (fun p => (s.inputMarker q p).map (·.1)) = some k →
          (∀ w, w ∈ tl.ex.awaiting → ∀ r m, w.holder ≠ .stuck r m) →
          s.pushRecord (.quad q) { cause := .quiesceStuck, src := 5, aux := p.q.1, who := some (q, a), ans := true } (some (.stuck (.actor q a n) k)) = some v →
          exec (.quiesceStuck (.actor q a n)) s = .next v))))

/-- R363 to R366: the walk of a miss-merging entry. A leaf becomes a translation of the island's buffer and of each waiting core's, its accessed
bit set in memory, and the entry goes; a malformed table ends the entry with PTFORMAT; an absent page is asked for, once, with a request
identifier; a wake with RES 0 makes the entry walk again, with a cause it fails the accesses, and one that names no waiting entry is
ignored. -/
def Obligations.PageWalks : Prop :=
  ∀ (s : State) (n : Fin 256) (p j : Nat) (m : Miss) (x : Dword),
    let found := (s.island n).misses.find? (fun m => m.vpage == p && m.job == j && m.rid.isNone)
    (found = none → exec (.pageWalk n p j) s = .next s) ∧
    (found = some m →
      (s.walk j (p * 4096) = .bad → exec (.pageWalk n p j) s = .next (s.failMiss n m .ptformat)) ∧
      (∀ l, s.walk j (p * 4096) = .leaf l true →
        ∃ t, exec (.pageWalk n p j) s = .next t ∧ t.mem = s.mem ∧ t.queues = s.queues ∧ l ∈ (t.island n).tlb ∧ m ∉ (t.island n).misses ∧
          (∀ c y, .context c y ∈ m.clients → l ∈ (t.core c).tlb)) ∧
      (∀ l, s.walk j (p * 4096) = .leaf l false →
        ∃ t, exec (.pageWalk n p j) s = .next t ∧ t.byteAt l.pte = s.byteAt l.pte ||| 0x40 ∧ (∀ a, a ≠ l.pte → t.byteAt a = s.byteAt a) ∧
          l ∈ (t.island n).tlb) ∧
      (s.walk j (p * 4096) = .absent →
        let q := stallQueue (s.job j).part.1 1
        (s.roomDevice q false = false → exec (.pageWalk n p j) s = .next (s.want q)) ∧
        (s.roomDevice q false = true → ∃ t, exec (.pageWalk n p j) s = .next t ∧ (t.island n).nextRid = (s.island n).nextRid + 1 ∧
          { m with rid := some (s.island n).nextRid } ∈ (t.island n).misses))) ∧
    ((s.island n).misses.find? (fun m => m.rid = some (x.setWidth 16)) = none → exec (.pgwakeWrite n x) s = .next s) ∧
    ((s.island n).misses.find? (fun m => m.rid = some (x.setWidth 16)) = some m →
      (bitsOf x.toNat 16 8 = 0 → exec (.pgwakeWrite n x) s = .next (s.modIsland n (fun i => { i with
        misses := i.misses.map (fun y => if y = m then { y with rid := none } else y) }))) ∧
      (∀ c, bitsOf x.toNat 16 8 = causeCode c → c ≠ .trap → exec (.pgwakeWrite n x) s = .next (s.failMiss n m c)) ∧
      (bitsOf x.toNat 16 8 = causeCode .trap → exec (.pgwakeWrite n x) s = .next (s.failMiss n m .pagefault)))

/-- R240, R241, R59: `msend` checks HW and LEN, the alignment of the cursor, the read of LEN bytes and the target, waits for a place in the
outbox and for the context's stores, and puts the bytes with the sender's number into the outbox; `mhret` frees the handler's entry and
context with k15 as it was, what the handler holds through q registers staying held (log entry 85: the model's choice), and outside a handler
raises ILLEGAL.

R243 to R247, R234, R42: `tinit` writes the sync block and gives its handle, with count 0 the record goes onto the home deque at once;
`tdec` sends a decrement to the handle's home; `tspawn` puts a record onto a deque of the quad; each checks its fields, reads its template
by R172 and waits for the context's stores and pushes (R47); `tdec` raises PERM also where no traffic passes to the home's die (log entry 66);
`tend` ends the firing or task once no result and no repetition sequence is outstanding and its stores are performed (log entry 86), and in a
handler raises ILLEGAL. The log entries are the model's readings.

R248 to R250: `bar.arr` makes one arrival on a well-formed barrier object and gives the generation before it: the last of COUNT arrivals
clears ARRIVED and advances GEN; `bar.wt` gives the generation once it is past the one named and waits before; `sig.wt` gives the signal
once it has reached the value named and waits before. A malformed object raises BARFORMAT, a failed check its cause. -/
def Obligations.MessageTaskAndBarrierInstructions : Prop :=
  (∀ (s : State) (st : Fin 8) (t l : Fin 32) (k : Fin 16),
    let u := s.atIssue
    let i : Instr := .msend st t l k
    let n := bitsOf (u.my.rg l).toNat 0 9
    let h := bitsOf (u.my.rg l).toNat 16 5
    let target := bitsOf (u.my.rg t).toNat 0 12
    let va := (u.my.rk k).cursor.toNat
    (s.canIssue [.g t, .g l, .k k] [] 1 = true →
      (h < 1 ∨ 16 < h ∨ n < 4 * h ∨ 256 < n → s.traps i .msgformat 0) ∧
      (1 ≤ h → h ≤ 16 → 4 * h ≤ n → n ≤ 256 →
        (va % 4 ≠ 0 → s.traps i .align (BitVec.ofNat 64 va)) ∧
        (va % 4 = 0 →
          (∀ w c a, u.readRange (u.my.rk k) va n = .fault w c a → s.trapsIn w i c (BitVec.ofNat 64 a)) ∧
          (∀ v, u.readRange (u.my.rk k) va n = .miss v → s.waits v i .miss) ∧
          (∀ v ps e, u.readRange (u.my.rk k) va n = .ok v ps e →
            (v.mayMessage target = false → s.trapsIn v i .perm 0) ∧
            (v.mayMessage target = true →
              (2 ≤ (v.core v.cur).outbox.length → s.waits v i .resource) ∧
              (∀ w, (v.core v.cur).outbox.length < 2 → v.drainMine = (w, false) → s.waits w i .resource) ∧
              (∀ w, (v.core v.cur).outbox.length < 2 → v.drainMine = (w, true) →
                s.does (w.modCore w.cur (fun c => { c with
                  outbox := c.outbox ++ [(target, ⟨w.cur.1, h, w.rangeBytes ps⟩)] })) i st none)))))) ∧
    (s.canIssue [] [] 1 = true →
      (u.my.inHandler = false → s.traps (.mhret st) .illegal 0) ∧
      (∀ e m c k15, u.my.run = .handler e m c k15 →
        s.does (((u.modMy (fun y => { y with run := .free, k := vset y.k 15 k15 })).modCore u.cur (fun y => y.freeInbox e)).noteBusy
          (islandOfCore u.cur)) (.mhret st) st none))) ∧
  (∀ (s : State) (st : Fin 8) (d a b : Fin 32) (k : Fin 16),
    let u := s.atIssue
    let va := u.my.memOff k a
    let template := fun (i : Instr) (f : State → BitVec 256 → Prop) =>
      (∀ v c x, u.checked u.myAccess (u.my.rk k) va 32 32 permR 0 = .fault v c x → s.trapsIn v i c (BitVec.ofNat 64 x)) ∧
      (∀ v, u.checked u.myAccess (u.my.rk k) va 32 32 permR 0 = .miss v → s.waits v i .miss) ∧
      (∀ v pa e, u.checked u.myAccess (u.my.rk k) va 32 32 permR 0 = .ok v pa e →
        (∀ c, v.readAt pa 32 e = .fault c → s.trapsIn v i c (BitVec.ofNat 64 va)) ∧
        (∀ w, v.readAt pa 32 e = .wait w → s.waits w i .resource) ∧
        (∀ w bs, v.readAt pa 32 e = .bytes w bs →
          let t := BitVec.ofNat 256 (leNat bs)
          (templateOk t = false → s.trapsIn w i .taskcount 0) ∧ (templateOk t = true → f w t)))
    (s.canIssue [.k k, .g a, .g b] [.g d] 0 = true → template (.tinit st d a b k) (fun w t =>
      let i : Instr := .tinit st d a b k
      let n := (w.my.rg b).toNat
      let home := w.cur.1 / 4 * 4 + bitsOf n 44 2
      let blk := bitsOf n 32 12
      let r := fromTemplate t home 1
      (0x40000 - w.ringOf home * 32 < 64 * blk + 64 → s.trapsIn w i .perm 0) ∧
      (64 * blk + 64 ≤ 0x40000 - w.ringOf home * 32 →
        (n % 2 ^ 32 = 0 → w.dequeRoom home = false → s.waits w i .resource) ∧
        (∀ x, n % 2 ^ 32 ≠ 0 ∨ w.dequeRoom home = true → w.releaseMine none = (x, false) → s.waits x i .resource) ∧
        (∀ x, n % 2 ^ 32 ≠ 0 ∨ w.dequeRoom home = true → w.releaseMine none = (x, true) →
          let y := x.poke (scratchBase (x.cur.1 / 4) + bitsOf n 44 2 * 0x40000 + 64 * blk)
            (leBytes 32 r.toNat ++ leBytes 4 (n % 2 ^ 32) ++ List.replicate 28 0)
          s.givesLater (if n % 2 ^ 32 = 0 then y.pushBottom home r else y) i st (.g d) (.g d (BitVec.ofNat 64 (blk * 4096 + home))))))) ∧
    (s.canIssue [.k k, .g a, .g b] [] 1 = true → template (.tspawn st a b k) (fun w t =>
      let near := w.cur.1 / 4 * 4 + bitsOf (w.my.rg b).toNat 0 2
      (w.dequeRoom near = false → s.waits w (.tspawn st a b k) .resource) ∧
      (∀ x, w.dequeRoom near = true → w.releaseMine none = (x, false) → s.waits x (.tspawn st a b k) .resource) ∧
      (∀ x, w.dequeRoom near = true → w.releaseMine none = (x, true) →
        s.does (x.pushBottom near (fromTemplate t near 2)) (.tspawn st a b k) st none))) ∧
    (s.canIssue [.g a] [] 1 = true →
      let h := u.my.rg a
      let c := bitsOf h.toNat 0 12
      let led := u.reaches (u.cur.1 / 1024) (c / 1024)
      (h.toNat / 2 ^ 24 ≠ 0 ∨ u.tileOf c = none ∨ u.jobOf c ≠ u.jobOf u.cur ∨ led = false → s.traps (.tdec st a) .perm 0) ∧
      (h.toNat / 2 ^ 24 = 0 → (u.tileOf c).isSome = true → u.jobOf c = u.jobOf u.cur → led = true →
        (∀ v, u.releaseMine none = (v, false) → s.waits v (.tdec st a) .resource) ∧
        (∀ v, u.releaseMine none = (v, true) →
          s.does (v.modCore c (fun y => { y with decs := y.decs ++ [BitVec.ofNat 64 (bitsOf h.toNat 12 12)] })) (.tdec st a) st none))) ∧
    (s.canIssue [] [] 1 = true →
      (u.my.record = none → s.traps (.tend st) .illegal 0) ∧
      (u.my.record.isSome = true →
        (u.my.vars ≠ [] ∨ u.hasRep u.cur u.me = true → s.waits u (.tend st) .resource) ∧
        (u.my.vars = [] → u.hasRep u.cur u.me = false →
          (∀ v, u.drainMine = (v, true) → s.does (v.endFiring v.cur v.me false) (.tend st) st none) ∧
          (∀ v, u.drainMine = (v, false) → s.waits v (.tend st) .resource) ∧
          (∀ r, u.my.run = .task r → u.my.holds = [] → u.my.stores = [] →
            s.does ((u.modMy (fun y => { y with holds := [], run := .free })).noteBusy (islandOfCore u.cur)) (.tend st) st none))))) ∧
  (∀ (s : State) (st : Fin 8) (d a b : Fin 32) (k : Fin 16),
    let u := s.atIssue
    let va := u.my.memOff k a
    (s.canIssue [.k k, .g a] [.g d] 0 = true →
      let i : Instr := .barArr st d a k
      let at_ := u.barrierAt (u.my.rk k) va (permR + permW + permA) 3
      (∀ v c, at_ = .fault v c → s.trapsIn v i c (BitVec.ofNat 64 va)) ∧
      (∀ w v, at_ = .wait w v → s.waits v i w) ∧
      (∀ v pa, at_ = .ok v pa →
        let o := leNat (v.peek pa 16)
        (barOk o = false → s.trapsIn v i .barformat 0) ∧
        (∀ w, barOk o = true → v.snoop pa 16 = some w → s.waits w i .resource) ∧
        (barOk o = true → v.snoop pa 16 = none →
          let last := decide ((bitsOf o 0 32 + 1) % 2 ^ 32 = bitsOf o 64 32)
          s.givesLater (v.writePlain pa (leBytes 16 (if last then putBits (putBits o 0 32 0) 32 32 (bitsOf o 32 32 + 1)
            else putBits o 0 32 (bitsOf o 0 32 + 1)))) i st (.g d) (.g d (BitVec.ofNat 64 (bitsOf o 32 32)))))) ∧
    (s.canIssue [.k k, .g a, .g b] [.g d] 0 = true →
      let i : Instr := .barWt st d a b k
      let at_ := u.barrierAt (u.my.rk k) va permR 0
      (∀ v c, at_ = .fault v c → s.trapsIn v i c (BitVec.ofNat 64 va)) ∧
      (∀ w v, at_ = .wait w v → s.waits v i w) ∧
      (∀ v pa, at_ = .ok v pa →
        let o := leNat (v.peek pa 16)
        let diff := (BitVec.ofNat 32 (bitsOf o 32 32) - (v.my.rg b).setWidth 32 : BitVec 32).toNat
        let past := 1 ≤ diff ∧ diff < 2 ^ 31
        (barOk o = false → s.trapsIn v i .barformat 0) ∧
        (barOk o = true → past → s.givesLater v i st (.g d) (.g d (BitVec.ofNat 64 (bitsOf o 32 32)))) ∧
        (barOk o = true → ¬past → bitsOf o 112 8 = 0 → s.waits v i (.barrier none pa ((v.my.rg b).setWidth 32))) ∧
        (barOk o = true → ¬past → bitsOf o 112 8 ≠ 0 →
          let due := v.my.since.getD (v.core v.cur).clock + 2 ^ bitsOf o 112 8
          ((v.core v.cur).clock < due → s.waits v i (.barrier (some due) pa ((v.my.rg b).setWidth 32))) ∧
          (due ≤ (v.core v.cur).clock → s.trapsIn v i .barrierTimeout 0)))) ∧
    (s.canIssue [.k k, .g a, .g b] [.g d] 0 = true →
      let i : Instr := .sigWt st d a b k
      (∀ v c x, u.checked u.myAccess (u.my.rk k) va 8 8 permR 0 = .fault v c x → s.trapsIn v i c (BitVec.ofNat 64 x)) ∧
      (∀ v, u.checked u.myAccess (u.my.rk k) va 8 8 permR 0 = .miss v → s.waits v i .miss) ∧
      (∀ v pa e, u.checked u.myAccess (u.my.rk k) va 8 8 permR 0 = .ok v pa e →
        (∀ c, v.readAt pa 8 e = .fault c → s.trapsIn v i c (BitVec.ofNat 64 va)) ∧
        (∀ w, v.readAt pa 8 e = .wait w → s.waits w i .resource) ∧
        (∀ w bs, v.readAt pa 8 e = .bytes w bs →
          ((w.my.rg b).toNat ≤ leNat bs → s.givesLater w i st (.g d) (.g d (BitVec.ofNat 64 (leNat bs)))) ∧
          (leNat bs < (w.my.rg b).toNat → s.waits w i (.signal pa (w.my.rg b)))))))

/-- R46, R50, R58, R59, R240, R241, R249, R250: steps of the outbox, the inbox, the deque unit and barrier waits. The oldest message leaves the
outbox for its target; the oldest in the network enters a free inbox entry, with its bytes; a handler starts on a free context with the
sender in g1, the length of the rest in g2 and the message at its pc, and k15 over the entry (its bits: log entry 71); a message that a failing
link has cut and of which 2^16 cycles bring no beat is discarded and reported as MSGLOST (the fields of that record: log entry 91); a decrement
takes 1 off its count, to 0 puts the record onto the deque and on a count of 0 reports TASKCOUNT; a pending record enters a deque with
room; a barrier wait past its timeout whose barrier has not opened raises BARRIERTIMEOUT. The block in the record of TASKCOUNT is named by its
physical address (log entry 70); the log entries are the model's readings. -/
def Obligations.MessageAndTaskSteps : Prop :=
  ∀ (s : State) (c : Fin 4096) (x : Fin 4) (m : Msg) (ms : List Msg),
    let k := s.core c
    (∀ t r, k.outbox = (t, m) :: r →
      ((s.core t).takesMessage = false → exec (.outboxSend c) s = .next s) ∧
      ((s.core t).takesMessage = true → ∃ u, exec (.outboxSend c) s = .next u ∧ (u.core c).outbox = r ∧
        (u.core t).net = (s.core t).net ++ [m] ∧ u.mem = s.mem ∧ u.queues = s.queues)) ∧
    (k.outbox = [] → exec (.outboxSend c) s = .next s) ∧
    (∀ e : Fin 4, k.net = m :: ms → k.inbox.get e = none → (∀ f, f < e → k.inbox.get f ≠ none) → m.bytes.length ≤ 256 →
      s.receives c = true →
      ∃ u, exec (.activeMessageArrival c) s = .next u ∧ (u.core c).inbox.get e = some ⟨m.sender, m.words, m.bytes.length⟩ ∧
        (u.core c).order = k.order ++ [e] ∧ (u.core c).net = ms ∧ (u.core c).halted = false ∧ u.peek (inboxBase c e) m.bytes.length = m.bytes ∧
        (∀ a, a < inboxBase c e ∨ inboxBase c e + 256 ≤ a → u.byteAt a = s.byteAt a) ∧ ∀ d, d ≠ c.1 → u.core d = s.core d) ∧
    (k.net = [] ∨ (∀ e, k.inbox.get e ≠ none) ∨ s.receives c = false → exec (.activeMessageArrival c) s = .next s) ∧
    (∀ e r (y : InboxEntry), s.mayStart c = true → (∀ z, (k.ctxs.get z).inHandler = false) → k.order = e :: r → k.inbox.get e = some y →
      s.freeCtx c = some x → (s.ctx c x).stopped = false →
      ∃ u, exec (.handlerStart c) s = .next u ∧ (u.ctx c x).run = .handler e y.words y.sender ((s.ctx c x).k.get 15) ∧
        (u.ctx c x).pc = BitVec.ofNat 56 (handlerSpan e y.words).1 ∧ (u.ctx c x).rg 1 = BitVec.ofNat 64 y.sender ∧
        (u.ctx c x).rg 2 = BitVec.ofNat 64 (y.len - 4 * y.words) ∧
        (∀ r : Fin 32, 2 < r.1 → (u.ctx c x).rg r = (s.ctx c x).rg r) ∧
        (u.ctx c x).rk 15 = mkCap permR (handlerSpan e y.words).1 (if y.len = 4 * y.words then 0 else y.len) 0
          ((handlerSpan e y.words).1 + 4 * y.words) ∧
        (∀ z, z ≠ x → u.ctx c z = s.ctx c z) ∧ u.mem = s.mem) ∧
    ((∃ z, (k.ctxs.get z).inHandler = true) ∨ k.order = [] → exec (.handlerStart c) s = .next s) ∧
    (∀ p : PartMsg, k.parts.find? (fun y => y.cut && decide (y.beat + 2 ^ 16 ≤ k.clock)) = some p → exec (.messagePartTimeout c) s =
      .next ((s.modCore c (fun y => { y with parts := y.parts.erase p })).report (.quad (c.1 / 4))
        { cause := .msglost, src := 7, addr := BitVec.ofNat 64 p.msg.sender })) ∧
    ((∀ p ∈ k.parts, p.cut = false ∨ k.clock < p.beat + 2 ^ 16) → exec (.messagePartTimeout c) s = .next s) ∧
    (∀ b r, k.decs = b :: r →
      let a := scratchBase (c.1 / 4) + c.1 % 4 * 0x40000 + 64 * b.toNat
      let n := leNat (s.peek (a + 32) 4)
      let v := s.modCore c (fun y => { y with decs := r })
      (16 ≤ k.pending.length ∨ s.receives c = false → exec (.taskDecrement c) s = .next s) ∧
      (k.pending.length < 16 → s.receives c = true →
        (n = 0 → exec (.taskDecrement c) s =
          .next (v.report (.quad (c.1 / 4)) { cause := .taskcount, src := 5, addr := BitVec.ofNat 64 a })) ∧
        (1 < n → exec (.taskDecrement c) s = .next (v.poke (a + 32) (leBytes 4 (n - 1)))) ∧
        (n = 1 → s.dequeRoom c = true → k.pending = [] → exec (.taskDecrement c) s =
          .next ((v.poke (a + 32) [0, 0, 0, 0]).pushBottom c (BitVec.ofNat 256 (leNat (s.peek a 32))))) ∧
        (n = 1 → s.dequeRoom c = false ∨ k.pending ≠ [] → exec (.taskDecrement c) s =
          .next ((v.poke (a + 32) [0, 0, 0, 0]).modCore c
            (fun y => { y with pending := y.pending ++ [BitVec.ofNat 256 (leNat (s.peek a 32))] }))))) ∧
    (k.decs = [] → exec (.taskDecrement c) s = .next s) ∧
    (∀ p r, k.pending = p :: r → s.dequeRoom c = true → s.receives c = true →
      exec (.pendingBufferPush c) s = .next ((s.modCore c (fun y => { y with pending := r })).pushBottom c p)) ∧
    (k.pending = [] ∨ s.dequeRoom c = false ∨ s.receives c = false → exec (.pendingBufferPush c) s = .next s) ∧
    (∀ t pa g, (s.ctx c x).wait = .barrier (some t) pa g →
      (t ≤ k.clock → s.barrierOpen pa g = false → exec (.barrierTimeout c x) s = .next
        ((s.faultStop c x (s.contextRec c x .barrierTimeout 0) (.context c x)).modCtx c x (fun y => { y with since := none, waited := 0 }))) ∧
      (k.clock < t ∨ s.barrierOpen pa g = true → exec (.barrierTimeout c x) s = .next s)) ∧
    (∀ pa v, (s.ctx c x).wait = .signal pa v → exec (.hostSignalPoll c x) s = .next (s.wakeCtx c x (fun y => { y with wait := .none })))

/-- R36 to R40, R51 to R54: a firing unit fires the actor it chooses, whose record goes onto the home deque; DISPATCH starts the record that the
deque's order picks, its arguments in g1 to g3; a thief sends a request, a victim answers it with its top record or a refusal, and the
stolen record starts at the thief or, where no context can take it, enters its deque; after as many refusals as a ring gives, the next ring is asked,
and after the last one the thief backs off. -/
def Obligations.FiringDispatchAndStealing : Prop :=
  ∀ (s : State) (q : Fin 1024) (c : Fin 4096) (x : Fin 4) (r : BitVec 256),
    let k := s.core c
    (s.unitRuns q = false → exec (.actorFire q) s = .next s) ∧
    (∀ a, let u := (List.range 64).foldl (fun (st : State) a => st.reportTypes q a) (s.wantAll q)
      s.unitRuns q = true → u.chooseActor q = some a →
        ∀ v z, u.readiness q a = some (v, []) → u.actor? q a = some z →
          ∃ t y, exec (.actorFire q) s = .next t ∧ t.actor? q a = some y ∧ y.fired = z.fired + 1 ∧ y.inFlight = z.inFlight + 1 ∧
            (∃ n, t.dequeOf (u.homeCore q z.decl) = n :: v.dequeOf (u.homeCore q z.decl) ∧ recActor n = a % 64 ∧ recKind n = 0 ∧
              recSeq n = z.fired ∧ recUrg n = z.decl.urgent) ∧
            ∀ b, b < v.ringBase (u.homeCore q z.decl) ∨
              v.ringBase (u.homeCore q z.decl) + 32 * (v.core (u.homeCore q z.decl)).dequeLen ≤ b → t.byteAt b = v.byteAt b) ∧
    (s.mayStart c = true → k.handlerFirst = false → s.freeCtx c = some x →
      let n := pickRecord (s.dequeOf c) k.urgRun k.botRun
      (s.dequeOf c = [] → exec (.dispatch c) s = .next s) ∧
      ((s.dequeOf c)[n]? = some r →
        ∃ t, exec (.dispatch c) s = .next t ∧ t.dequeOf c = (s.dequeOf c).eraseIdx n ∧ (t.ctx c x).record = some r ∧
          (t.ctx c x).pc = BitVec.ofNat 56 (bitsOf r.toNat 0 56 / 4 * 4) ∧ (t.ctx c x).rg 1 = r.extractLsb' 64 64 ∧
          (t.ctx c x).rg 2 = r.extractLsb' 128 64 ∧ (t.ctx c x).rg 3 = r.extractLsb' 192 64 ∧
          (t.ctx c x).v = (s.ctx c x).v ∧ (t.ctx c x).k = (s.ctx c x).k ∧ (t.ctx c x).m = (s.ctx c x).m ∧
          (∀ y, y ≠ x → t.ctx c y = s.ctx c y) ∧ t.queues = s.queues ∧
          ∀ a, a < s.ringBase c ∨ s.ringBase c + 32 * k.dequeLen ≤ a → t.byteAt a = s.byteAt a)) ∧
    (s.mayStart c = false ∨ k.handlerFirst = true ∨ s.freeCtx c = none → exec (.dispatch c) s = .next s) ∧
    (s.maySteal c = true → ∃ v t, exec (.stealRequest c) s = .next t ∧ (t.core c).steal.victim = some v ∧
      (k.steal.ring = 0 → v / 4 = c.1 / 4) ∧ (t.core c).deque = k.deque ∧ t.mem = s.mem) ∧
    (s.maySteal c = false → exec (.stealRequest c) s = .next s) ∧
    (∀ v, k.steal.victim = some v → v ≠ c.1 →
      ((s.dequeOf v).getLast? = some r → s.handsOver v c r = true →
        ∃ t, exec (.stealRequestArrival c) s = .next t ∧ (t.core c).steal.reply = some (some r) ∧ (t.core c).steal.victim = none ∧
          t.dequeOf v = (s.dequeOf v).dropLast ∧
          ∀ a, a < s.ringBase v ∨ s.ringBase v + 32 * (s.core v).dequeLen ≤ a → t.byteAt a = s.byteAt a) ∧
      (s.dequeOf v = [] ∨ (∃ y, (s.dequeOf v).getLast? = some y ∧ s.handsOver v c y = false) →
        ∃ t, exec (.stealRequestArrival c) s = .next t ∧ (t.core c).steal.reply = some none ∧ t.core v = s.core v)) ∧
    (k.steal.reply = some (some r) → s.mayStart c = true → k.handlerFirst = false → s.freeCtx c = some x →
      ∃ t, exec (.stealReplyArrival c) s = .next t ∧ (t.ctx c x).record = some r ∧ (t.core c).deque = k.deque ∧ (t.core c).steal = {}) ∧
    (k.steal.reply = some (some r) → (s.mayStart c = false ∨ k.handlerFirst = true ∨ s.freeCtx c = none) → s.dequeRoom c = true →
      ∃ t, exec (.stealReplyArrival c) s = .next t ∧ t.dequeOf c = r :: s.dequeOf c ∧ (t.core c).steal = {}) ∧
    (k.steal.reply = some none → k.steal.asked.length < ringAsks k.steal.ring →
      exec (.stealReplyArrival c) s = .next (s.modCore c (fun y => { y with steal := { y.steal with reply := none } }))) ∧
    (k.steal.reply = some none → ringAsks k.steal.ring ≤ k.steal.asked.length → k.steal.ring < 4 →
      exec (.stealReplyArrival c) s =
        .next (s.modCore c (fun y => { y with steal := { y.steal with reply := none, ring := y.steal.ring + 1, asked := [] } }))) ∧
    (k.steal.reply = some none → ringAsks k.steal.ring ≤ k.steal.asked.length → 4 ≤ k.steal.ring →
      ∃ t, exec (.stealReplyArrival c) s = .next t ∧ (t.core c).steal.ring = 0 ∧ (t.core c).steal.asked = [] ∧
        (t.core c).steal.backoffEnd = some (k.clock + min (64 * 2 ^ k.steal.failed) 65536)) ∧
    (∀ d, k.steal.backoffEnd = some d → d ≤ k.clock →
      exec (.stealBackoffEnd c) s = .next (s.modCore c (fun y => { y with steal := { y.steal with backoffEnd := none } }))) ∧
    (∀ d, k.steal.backoffEnd = some d → k.clock < d → exec (.stealBackoffEnd c) s = .next s)

/-- R252 to R256, R146, R259: an engine instruction checks its request image, the two capabilities and the ports before anything moves, waits
while its queue holds 32 entries and for the context's stores, then enters the request with the next sequence number, and its register
waits for the status word; `eng.st` gives the queue's word and changes nothing.

R253, R256, R257, R260 to R263, R265, R267, R402: steps of an engine. It begins the request at its head; a copy within one line (`w` once
the source is read, `y` once the destination is translated) leaves the source's bytes at the destination and nothing else in memory changed, and
ends with its status word. The data of a whole `cp`, the permuted tensor of a `lay` and the output of a `dcmp` (`o`) go to the destination line by
line (`performs`), with the tags a copy keeps and, with FULL, the lines set full, or into a queue as items (`pushes`); a stream that is not well formed
stops with DCMPDATA. A row of a `cps` is written at its index's address and the rest go on behind it, and a row that the capability refuses ends the
entry with the rows before it counted; a gathered row is written at its place; a marker at the head goes into the queue pushed into since the last; a
flash read that fails, or times out after 100 ms, stops its entry with STORAGE. -/
def Obligations.EngineRequestsAndSteps : Prop :=
  (∀ (s : State) (st : Fin 8) (d : Fin 32) (k : Fin 16) (v : Fin 32),
    let u := s.atIssue
    let x := u.my
    let img := fun (n : Nat) => dwordsOf n (leBytes 128 (x.rv v).toNat)
    let quad := u.cur.1 / 4
    let enters := fun (i : Instr) (op : EngOp) (n : Nat) =>
      let got := u.engCheck u.myAccess op (img n) (x.rk k) (x.rkN (k.1 + 1)) (.quad quad) (some quad) 0
      let e := engineQueueOf (islandOfCore u.cur) op (img n)
      (∀ w c a, got = .fault w c a → s.trapsIn w i c (BitVec.ofNat 64 a)) ∧
      (∀ w, got = .miss w → s.waits w i .miss) ∧
      (∀ w f, got = .ok w f →
        (32 ≤ (w.eng e).entries.length → s.waits w i .resource) ∧
        (∀ y, (w.eng e).entries.length < 32 → w.drainMine = (y, false) → s.waits y i .resource) ∧
        (∀ y, (w.eng e).entries.length < 32 → w.drainMine = (y, true) →
          ∃ t, exec i s = .next t ∧ t.my.awaits (.g d) ∧
            Done (y.modEng e (fun z => z.append (.request op (img n) (x.rk k) (x.rkN (k.1 + 1)) (.reg y.cur y.me d) (.quad quad)
              (y.eng e).nextSeq))) t st none [.g d]))
    (s.canIssue [.v v, .k k, .k (k + 1)] [.g d] 0 = true →
      enters (.cp st d k v) .cp 4 ∧
      enters (.cpg st d k v) .cpg 4 ∧
      enters (.cps st d k v) .cps 4 ∧
      enters (.lay st d k v) .lay 8 ∧
      enters (.dcmp st d k v) .dcmp 4) ∧
    (∀ (e : Fin 4) (j : Fin 8), s.canIssue [] [.g d] 0 = true →
      s.givesLater u (.engSt st d e j) st (.g d) (.g d (u.engWord (engineIdOf (islandOfCore u.cur) e.1 j.1))))) ∧
  (∀ (s : State) (q : Nat) (op : EngOp) (img : List Dword) (src dst : Cap) (d : StatusTo) (tile : TileRef) (seq : BitVec 16) (rest : List EngEntry)
    (b : EngBusy),
    let r := engReq img
    let l := layReq img
    let a := s.engAccess q tile
    let ends := fun (z : State) (n : Nat) (err : BitVec 8) => (err = 0 ∨ d.nowhere = false) →
      ∃ t, exec (.engineEntryPerformed q) s = .next t ∧ (t.eng q).entries = rest ∧ (t.eng q).busy = none ∧ (t.eng q).lastErr = err ∧
        t.mem = z.mem ∧ t.tags = z.tags ∧ t.full = z.full ∧ t.queues = z.queues ∧
        (∀ c x g, d = .reg c x g → g.1 ≠ 0 → (t.ctx c x).vars = fillVar (.g g) (.g g (statusWord n err seq)) (z.ctx c x).vars)
    let performs := fun (w : State) (data : List Byte) (tags : List Nat) (va : Nat) (full : Bool) =>
      w.eng q = s.eng q → w.engReach a dst (data.length / 128 + 2) va data.length 0 = (data.length, none) →
        let y := w.setBusy q { b with data := some data, limit := data.length, tags := tags }
        ∀ v, y.engAccess q tile = a → y.engWrite a q dst (data.length / 128 + 2) va data 0 = (v, data.length, .none) → v.eng q = y.eng q →
          let z := v.moveTags a va tags 0 data.length
          ends (if full then z.fullLines a va data.length 0 0 0 data.length else z) data.length 0
    let pushes := fun (w : State) (data : List Byte) =>
      w.eng q = s.eng q → ∀ v, State.engPush (r.dst % 65536) tile r.itype (data.length + 1) (w.setBusy q { b with data := some data, limit := data.length }) data 0 =
          (v, data.length, .none) → v.eng q = (w.setBusy q { b with data := some data, limit := data.length }).eng q →
        ends v data.length 0
    ((s.eng q).entries = .request op img src dst d tile seq :: rest →
      ((s.eng q).busy = none → ∃ t, exec (.engineEntryBegin q) s = .next t ∧ (t.eng q).busy = some {} ∧ (t.eng q).entries = (s.eng q).entries ∧
        t.mem = s.mem ∧ t.cores = s.cores ∧ t.queues = s.queues) ∧
      ((s.eng q).busy = some b → exec (.engineEntryBegin q) s = .next s ∧
        (∀ w bs v pb e, op = .cp → b = {} → r.dq = false → r.full = false → r.flash = false → ¬(r.src < r.dst ∧ r.dst < r.src + r.len) →
          0 < r.len → r.dst % 128 + r.len ≤ 128 → s.tagOffsets a src dst r.src r.dst r.len = [] →
          s.engRead a src false (r.len / 4096 + 2) r.src r.len [] = .bytes w bs none → bs.length = r.len →
          w.engReach (s.engAccess q tile) dst (r.len / 128 + 2) r.dst r.len 0 = (r.len, none) →
          let y := w.setBusy q { b with data := some bs, limit := r.len }
          (y.engAccess q tile) = a → y.checked a dst r.dst r.len 1 permW 1 = .ok v pb e → v.engBarred pb r.len = none → isPlain pb = true →
          v.linkDown pb = false → v.snoop pb r.len = none → (v.eng q).entries = (s.eng q).entries →
          ∃ t, exec (.engineEntryPerformed q) s = .next t ∧ (t.eng q).entries = rest ∧ (t.eng q).busy = none ∧ (t.eng q).lastErr = 0 ∧
            t.mem = (v.writePlain pb bs).mem ∧
            (∀ c x g, d = .reg c x g → g.1 ≠ 0 → (t.ctx c x).vars = fillVar (.g g) (.g g (statusWord r.len 0 seq)) ((v.writePlain pb bs).ctx c x).vars)) ∧
        (∀ w bs, op = .cp → b = {} → r.flash = false → (r.dq = true ∨ ¬(r.src < r.dst ∧ r.dst < r.src + r.len)) →
          s.engRead a src false (r.len / 4096 + 2) r.src r.len [] = .bytes w bs none → bs.length = r.len →
          (r.dq = false → performs w bs (s.tagOffsets a src dst r.src r.dst r.len) r.dst r.full) ∧ (r.dq = true → pushes w bs)) ∧
        (∀ w bs, op = .lay → b = {} → s.engRead a src false (l.bytes / 4096 + 2) l.src l.bytes [] = .bytes w bs none →
          performs w (l.permute bs) [] l.dst l.full) ∧
        (∀ w bs, op = .dcmp → b = {} → r.flash = false → s.engRead a src false (r.len / 4096 + 2) r.src r.len [] = .bytes w bs none →
          let o := decodeWith r.codec (r.iq * 4096) bs
          (o.good = true → (r.dq = false → performs w o.out [] r.dst r.full) ∧ (r.dq = true → pushes w o.out)) ∧
          (o.good = false → o.out = [] → r.dq = true → w.eng q = s.eng q → ends w 0 (code8 .dcmpdata))) ∧
        (op = .cps → b.err = 0 → b.indices.length = r.len → b.retired < r.len → b.part = [] → b.done = 0 →
          let m := b.retired
          let x := a.forRow q m
          let va := rowAddr r.dst (b.indices.getD m 0) r.rowlen
          ∀ w bs, s.engRead x src false (r.rowlen / 4096 + 2) (r.src + m * r.rowlen) r.rowlen [] = .bytes w bs none →
            (∀ v n, dst.check va r.rowlen permW = none → w.engWrite x q dst (r.rowlen / 128 + 2) va bs 0 = (v, n, .none) → v.eng q = s.eng q →
              let z := v.moveTags x va (w.tagOffsets x src dst (r.src + m * r.rowlen) va r.rowlen) 0 n
              let y := z.setBusy q { b with retired := m + 1 }
              exec (.engineEntryPerformed q) s = exec (.engineEntryPerformed q) y ∧ (m + 1 = r.len → ends z r.len 0)) ∧
            (∀ c, dst.check va r.rowlen permW = some c → w.eng q = s.eng q → ends w m (code8 c))) ∧
        (∀ m w bs v n, op = .cpg → b.err = 0 → b.indices.length = r.len → m < r.len → b.returned.contains m = false → r.windowed = false →
          src.perms &&& permL ≠ permL → b.tags = [] → mapGet 0 b.begun m = 0 →
          let va := rowAddr r.src (b.indices.getD m 0) r.rowlen
          src.check va r.rowlen permR = none → s.engRead (a.forRow q m) src true (r.rowlen / 4096 + 2) va r.rowlen [] = .bytes w bs none →
          w.engWrite (a.forRow q m) q dst (r.rowlen / 128 + 2) (r.dst + m * r.rowlen) bs 0 = (v, n, .none) →
          exec (.gatherRowReturn q m) s = .next (v.setBusy q { b with returned := setAdd m b.returned })) ∧
        (∀ ds, r.flash = true → b.data = none →
          exec (.flashReadComplete q false ds) s =
            .next (s.setBusy q { b with data := some [], err := code8 .storage, addr := r.src }) ∧
          exec (.storageTimeout q) s = .next (s.setBusy q { b with data := some [], err := code8 .storage, addr := r.src })) ∧
        (∀ ds, r.flash = true → b.data = none → op = .cp → r.dq = false → ds.length = r.len →
          s.engReach a dst (r.len / 128 + 2) r.dst r.len 0 = (r.len, none) →
          exec (.flashReadComplete q true ds) s = .next (s.setBusy q { b with data := some ds, down := false, tags := [], limit := r.len })) ∧
        (∀ ds ok, r.flash = false → exec (.flashReadComplete q ok ds) s = .next s ∧ exec (.storageTimeout q) s = .next s))) ∧
    (∀ m, (s.eng q).entries = .marker m :: rest →
      ((s.eng q).dests = [] → exec (.engineMarker q) s =
        .next ((s.modEng q (fun x => { x with entries := rest, dests := [] })).noteBusy (engineIsland q))) ∧
      (∀ i p z, (s.eng q).dests = [(i, p)] → s.queue? i = some z →
        (z.hasRoom none p false 1 = true → exec (.engineMarker q) s =
          .next (((s.modEng q (fun x => { x with entries := rest, dests := [] })).noteBusy (engineIsland q)).push i p none false ⟨1, 0, m, []⟩)) ∧
        (z.hasRoom none p false 1 = false → exec (.engineMarker q) s = .next (s.want i)))) ∧
    ((s.eng q).entries = [] → exec (.engineEntryBegin q) s = .next s ∧ exec (.engineEntryPerformed q) s = .next s ∧
      (∀ m, exec (.gatherRowReturn q m) s = .next s) ∧ exec (.engineMarker q) s = .next s ∧ exec (.storageTimeout q) s = .next s))

/-- R279 to R283: the arithmetic, comparison and floating-point words of an element, and `sel`. On data they send F(a, b) to DST, `cmp` its bit on
the control output too; `sel` takes a control token and sends a or b. Floating point rounds to nearest even in the context's format.

R270 to R272, R279, R282, R134: what a firing of an element does. Where a destination does not accept, or another context's parked access
still needs a token that it takes, nothing changes. Otherwise the FIFO heads that it takes are gone, its tokens stand last in the FIFOs that
its routes lead to, to be consumed from cycle t + L + 1 on, later by the block boundaries of a bypass, and no sooner than the token before it there (log
entry 82); T is the last value it sent, and the
context's next word is at WPC; no other element, no memory and no core changes. The element fires no more in this cycle, and its tile goes on
to the next cycle in which something comes due once none of its elements does anything in this one (log entry 1). -/
def Obligations.ElementArithmetic : Prop :=
  (∀ (s : State) (d a b : Fin 8) (c : Fin 4) (v : Fin 8) (n : Fin 4096),
    let y := s.seen s.curEl
    let x := y.ctxs.get y.running
    let A := y.val x n.1 a.1
    let B := y.val x n.1 b.1
    let less := fun (p q : Dword) => if v = 0 then decide (p.toInt < q.toInt) else decide (p.toNat < q.toNat)
    let f := x.format
    let other := if x.fmt = 1 then e8m10 else binary32
    let converted : Dword := match v.1 with
      | 0 => (f.of 0 (FVal.ofInt A.toInt)).tok
      | 1 => (floatToInt true 64 0 (f.value (f.low A))).tok
      | 2 => (f.of 0 (other.value (other.low A))).tok
      | 3 => (f.of 0 (bfloat16.value (bfloat16.low A))).tok
      | 4 => (f.of 0 (binary16.value (binary16.low A))).tok
      | 5 => (bfloat16.of 0 (f.value (f.low A))).tok
      | _ => (binary16.of 0 (f.value (f.low A))).tok
    s.Joins (.feAdd d a b c n) d a b c n { sends := [(d.1, kData, A + B)] } ∧
    s.Joins (.feSub d a b c n) d a b c n { sends := [(d.1, kData, A - B)] } ∧
    s.Joins (.feAnd d a b c n) d a b c n { sends := [(d.1, kData, A &&& B)] } ∧
    s.Joins (.feOr d a b c n) d a b c n { sends := [(d.1, kData, A ||| B)] } ∧
    s.Joins (.feXor d a b c n) d a b c n { sends := [(d.1, kData, A ^^^ B)] } ∧
    s.Joins (.feShl d a b c n) d a b c n { sends := [(d.1, kData, A <<< (B.toNat % 64))] } ∧
    s.Joins (.feShr d a b c n) d a b c n { sends := [(d.1, kData, A >>> (B.toNat % 64))] } ∧
    s.Joins (.feSra d a b c n) d a b c n { sends := [(d.1, kData, A.sshiftRight (B.toNat % 64))] } ∧
    s.Joins (.feMul d a b c v n) d a b c n { sends := [(d.1, kData, if v = 0 then A * B else if v = 1 then BitVec.ofInt 64 (A.toInt * B.toInt / 2 ^ 64) else BitVec.ofNat 64 (A.toNat * B.toNat / 2 ^ 64))], lat := 3 } ∧
    s.Joins (.feMin d a b c v n) d a b c n { sends := [(d.1, kData, if less B A then B else A)] } ∧
    s.Joins (.feMax d a b c v n) d a b c n { sends := [(d.1, kData, if less A B then B else A)] } ∧
    s.Joins (.feCmp d a b c v n) d a b c n { sends := [(d.1, kData, if elCond v.1 A B then 1 else 0)], cout := some (elCond v.1 A B) } ∧
    s.Joins (.feFadd d a b c v n) d a b c n { sends := [(d.1, kData, (if v = 0 then f.add 0 (f.low A) (f.low B) else f.sub 0 (f.low A) (f.low B)).tok)], lat := 4 } ∧
    s.Joins (.feFmul d a b c n) d a b c n { sends := [(d.1, kData, (f.mul 0 (f.low A) (f.low B)).tok)], lat := 4 } ∧
    s.Joins (.feFma d a b c v n) d a b c n { sends := [(d.1, kData, (f.fma 0 (f.low A) (f.low B) (f.low (if v = 0 then x.t else y.l.get (Fin.ofNat 32 n.1)))).tok)], lat := 4 } ∧
    s.Joins (.feCvt d a b c v n) d a b c n { sends := [(d.1, kData, converted)], lat := 4 } ∧
    (s.mayFire s.curEl y.running = true →
      (y.ctlHead = none → s.stands (.feSel d a b n)) ∧
      (∀ t, y.ctlHead = some t → joinKinds ((fifoPorts a.1 b.1).map y.head) = .data →
        s.fires (.feSel d a b n) n { takes := fifoPorts a.1 b.1, ctl := true, sends := [(d.1, kData, if t then A else B)] }))) ∧
  (∀ (s : State) (e : Nat) (cx : Fin 4) (n : Nat) (h : Shot),
    let y := s.element e
    let x := y.ctxs.get cx
    (s.clear e cx h = true ↔ s.accepts e x h = true ∧ y.keeps cx h = false) ∧
    (s.clear e cx h = false → s.shoot e cx n h = .stalls s) ∧
    (s.clear e cx h = true →
      ∃ t, s.shoot e cx n h = .fired t ∧ t.mem = s.mem ∧ t.cores = s.cores ∧ t.queues = s.queues ∧ t.engines = s.engines ∧
        t.islands = s.islands ∧ t.quads = s.quads ∧
        (((t.element e).ctxs.get cx).wpc = h.jump.getD (if x.wpc + 1 < x.len then x.wpc + 1 else 0)) ∧
        ((t.element e).ctxs.get cx).parked = false ∧ (t.element e).free = s.nowAt e + 1 ∧
        (∀ j, j ≠ cx → (t.element e).ctxs.get j = y.ctxs.get j) ∧
        (((t.element e).ctxs.get cx).words = x.words ∧ ((t.element e).ctxs.get cx).routes = x.routes) ∧
        (∀ p k z, h.sends = [(p, k, z)] → ((t.element e).ctxs.get cx).t = if k = kData then z else if k = kStop then 0 else x.t) ∧
        (h.sends = [] → h.cout = none → (∀ j, j ≠ e → t.element j = s.element j) ∧ t.fabrics = s.fabrics ∧
          (∀ p, (t.element e).fifos.get p = if h.takes.contains p then (y.fifos.get p).drop 1 else y.fifos.get p) ∧
          (t.element e).ctl = (if h.ctl then y.ctl.drop 1 else y.ctl)) ∧
        (∀ (p : Fin 4) g r z, h.sends = [(p.1, kData, z)] → h.cout = none → s.destOf e x p = .fifo g r → g ≠ e →
          (let at_ := s.nowAt e + h.lat + 1 + (if (x.routes.get p).getLsbD 15 then blockHops e g else 0)
           (t.element g).fifos.get r = (s.element g).fifos.get r ++ [⟨0, z, max at_ ((((s.element g).fifos.get r).map (·.arrival)).getLast?.getD 0)⟩]) ∧
          (∀ m, m ≠ r → (t.element g).fifos.get m = (s.element g).fifos.get m) ∧ ∀ j, j ≠ e → j ≠ g → t.element j = s.element j)) ∧
    (∀ f t, s.fab? f = some t →
      (s.nextDue f t = none → s.nextCycle f = s) ∧
      (∀ g, t.holds f g = true → s.acts g = true → (∃ z, (g, z) ∈ s.elements) → s.nextCycle f = s) ∧
      (∀ m, s.nextDue f t = some m → (∀ g z, (g, z) ∈ s.elements → t.holds f g = true → s.acts g = false) →
        s.nextCycle f = s.setFab f { t with cycle := m }) ∧
      (∀ g, s.fabOf g = some (f, t) → t.cycle < (s.element g).free → ∀ j, s.mayFire g j = false)))

/-- R284 to R290: words that control streams, on the heads of their sources: `steer` sends to DST or to the other port by its control token,
which it passes on; `omrg` takes the source that the control token names, `umrg` the one that arrived first; `kmrg` merges two ordered
streams, `isect` intersects them with positions, which a datum taken with an error counts too; `carry` and `inv` switch between ENTRY and LOOP; `permit` counts down and up; `gen` counts
out a run; `cnt` adds and sends done at zero. -/
def Obligations.ElementStreams : Prop :=
  ∀ (s : State) (d a b : Fin 8) (c : Fin 4) (v : Fin 8) (n : Fin 4096),
    let y := s.seen s.curEl
    let x := y.ctxs.get y.running
    let A := y.val x n.1 a.1
    let q := x.ws
    let oa := y.offer x n.1 a.1
    let ob := y.offer x n.1 b.1
    let L := y.l.get (Fin.ofNat 32 n.1)
    (s.mayFire s.curEl y.running = true →
      (∀ t, y.ctlHead = some t → joinKinds ((fifoPorts a.1 b.1).map y.head) = .data →
        s.fires (.feSteer d a b n) n { takes := fifoPorts a.1 b.1, ctl := true, cout := some t
                                       sends := [(if t then d.1 else n.1 % 8, kData, A)] }) ∧
      (∀ k z, joinKinds ((fifoPorts a.1 b.1).map y.head) = .pass k z →
        s.fires (.feSteer d a b n) n { takes := fifoPorts a.1 b.1, sends := [(d.1, k, z), (n.1 % 8, k, z)] }) ∧
      (∀ t k z ps, y.ctlHead = some t → (if t then oa else ob) = some (k, z, ps) →
        s.fires (.feOmrg d a b n) n { takes := ps, ctl := true, sends := [(d.1, k, z)] }) ∧
      (y.ctlHead = none → s.stands (.feOmrg d a b n) ∧ (joinKinds ((fifoPorts a.1 b.1).map y.head) = .data → s.stands (.feSteer d a b n))) ∧
      (q.primed = true → s.fires (.feCarry d a b v n) n { sends := [(d.1, kData, L)], ws := some { q with primed := false } }) ∧
      (q.loop = false → oa = none → s.stands (.feInv d a b n) ∧ (q.primed = false → s.stands (.feCarry d a b v n))) ∧
      (∀ k z ps, q.loop = false → oa = some (k, z, ps) →
        let h : Shot := { takes := ps, sends := [(d.1, k, z)], ws := some (if k = kData then { q with loop := true, kept := z } else q) }
        s.fires (.feInv d a b n) n h ∧ (q.primed = false → s.fires (.feCarry d a b v n) n h)) ∧
      (q.loop = true → y.ctlHead = some false →
        let h : Shot := { ctl := true, ws := some { q with loop := false } }
        s.fires (.feInv d a b n) n h ∧ (q.primed = false → s.fires (.feCarry d a b v n) n h)) ∧
      (q.loop = true → y.ctlHead = some true →
        s.fires (.feInv d a b n) n { ctl := true, sends := [(d.1, kData, q.kept)] } ∧
        (∀ k z ps, q.primed = false → ob = some (k, z, ps) →
          s.fires (.feCarry d a b v n) n { takes := ps, ctl := true, sends := [(d.1, k, z)] }))) ∧
    s.ByCtl (.feUmrg d a b c n) c n ∧ s.ByCtl (.feKmrg d a b c v n) c n ∧ s.ByCtl (.feIsect d a b c v n) c n ∧
    s.ByCtl (.fePermit d a b c n) c n ∧ s.ByCtl (.feGen d a b c v n) c n ∧ s.ByCtl (.feCnt d a b c n) c n ∧
    (∀ took, s.ctlGoes c took →
      (∀ k z ps, oa = some (k, z, ps) → (ob = none ∨ y.since a.1 ≤ y.since b.1) →
        s.fires (.feUmrg d a b c n) n { takes := ps, ctl := took, sends := [(d.1, k, z)] }) ∧
      (∀ k z ps, ob = some (k, z, ps) → (oa = none ∨ y.since b.1 < y.since a.1) →
        s.fires (.feUmrg d a b c n) n { takes := ps, ctl := took, sends := [(d.1, k, z)] }) ∧
      (oa = none → ob = none → s.stands (.feUmrg d a b c n) ∧ s.stands (.feKmrg d a b c v n) ∧ s.stands (.feIsect d a b c v n)) ∧
      (∀ da pa db pb, oa = some (kData, da, pa) → ob = some (kData, db, pb) →
        let less := if v = 1 then decide (db.toInt < da.toInt) else decide (db.toNat < da.toNat)
        s.fires (.feKmrg d a b c v n) n { takes := if less then pb else pa, ctl := took, sends := [(d.1, kData, if less then db else da)] } ∧
        (da.toNat < db.toNat → s.fires (.feIsect d a b c v n) n { takes := pa, ctl := took, ws := some { q with ia := q.ia + 1 } }) ∧
        (db.toNat < da.toNat → s.fires (.feIsect d a b c v n) n { takes := pb, ctl := took, ws := some { q with ib := q.ib + 1 } }) ∧
        (da = db → s.fires (.feIsect d a b c v n) n { takes := pa ++ pb, ctl := took
                                                      sends := [(d.1, kData, if v = 0 then da else BitVec.ofNat 64 (q.ia * 2 ^ 32 ||| q.ib))]
                                                      ws := some { q with ia := q.ia + 1, ib := q.ib + 1 } })) ∧
      (∀ k da pa db pb, oa = some (kError, da, pa) → ob = some (k, db, pb) →
        s.fires (.feIsect d a b c v n) n { takes := pa ++ pb, ctl := took, sends := [(d.1, kError, da)], ws := some { q with ib :=
          if k = kData then q.ib + 1 else if k = kStop then 0 else q.ib } }) ∧
      (∀ k da pa db pb, oa = some (k, da, pa) → ob = some (kError, db, pb) → k ≠ kError →
        s.fires (.feIsect d a b c v n) n { takes := pa ++ pb, ctl := took, sends := [(d.1, kError, db)], ws := some { q with ia :=
          if k = kData then q.ia + 1 else if k = kStop then 0 else q.ia } }) ∧
      (∀ k z pa pb, oa = some (k, z, pa) → ob = some (k, z, pb) → k = kStop ∨ k = kDone →
        s.fires (.feKmrg d a b c v n) n { takes := pa ++ pb, ctl := took, sends := [(d.1, k, z)] } ∧
        s.fires (.feIsect d a b c v n) n { takes := pa ++ pb, ctl := took, sends := [(d.1, k, z)]
                                           ws := some (if k = kStop then { q with ia := 0, ib := 0 } else q) }) ∧
      (∀ k z ps, oa = some (k, z, ps) → ob = none →
        (0 < L.toInt → s.fires (.fePermit d a b c n) n { takes := ps, ctl := took, sends := [(d.1, k, z)]
                                                         lreg := some (n.1 % 32, BitVec.ofInt 64 (L.toInt - 1)) }) ∧
        (L.toInt ≤ 0 → s.stands (.fePermit d a b c n))) ∧
      (∀ k z p r, oa = none → ob = some (k, z, p :: r) → k ≠ kError →
        s.fires (.fePermit d a b c n) n { takes := p :: r, ctl := took, lreg := some (n.1 % 32, BitVec.ofInt 64 (L.toInt + 1)) }) ∧
      (∀ j, q.gen = some j → s.fires (.feGen d a b c v n) n { ctl := took, sends := [genToken ⟨0x1F, d.1, a.1, b.1, c.1, v.1, n.1⟩ y j]
                                                              ws := some { q with gen := genNext ⟨0x1F, d.1, a.1, b.1, c.1, v.1, n.1⟩ y j } }) ∧
      (q.gen = none → oa = none → s.stands (.feGen d a b c v n)) ∧
      (∀ z ps, q.gen = none → oa = some (kData, z, ps) → genTotal ⟨0x1F, d.1, a.1, b.1, c.1, v.1, n.1⟩ y ≠ 0 →
        s.fires (.feGen d a b c v n) n { takes := ps, ctl := took, sends := [genToken ⟨0x1F, d.1, a.1, b.1, c.1, v.1, n.1⟩ y 0]
                                         ws := some { q with gen := genNext ⟨0x1F, d.1, a.1, b.1, c.1, v.1, n.1⟩ y 0 } }) ∧
      (∀ da pa db pb, oa = some (kData, da, pa) → ob = some (kData, db, pb) → pa ++ pb ≠ [] →
        let m := L + (da - db)
        s.fires (.feCnt d a b c n) n { takes := pa ++ pb, ctl := took, lreg := some (n.1 % 32, m)
                                       sends := if da ≠ db ∧ m = 0 then [(d.1, kDone, 0)] else [] }))

/-- R291 to R293, R264, R133, R134: words of the memory and transfer ports, `sink` and `nop`. Once the checks pass, `ld` sends the bytes at the
address, extended by VAR, `st` writes and sends its address operand on, `tas` sends the old bit; a failed check sends an error token with
its cause, a miss parks the access, one held by a link stands accepted, an access behind an ordering token waits; `xfer` collects four tokens and enters the request that they
make, whose status word leaves in a turn of its own with latency 1 (log entries 76 and 82); `ordt` waits until every accepted access is performed; `sink`
discards, may count, and reports each error token that it takes; `nop` passes its
source on, with CTL 3 it branches. -/
def Obligations.ElementPorts : Prop :=
  ∀ (s : State) (d a b : Fin 8) (c : Fin 4) (v : Fin 8) (n : Fin 4096),
    let y := s.seen s.curEl
    let x := y.ctxs.get y.running
    let A := y.val x n.1 a.1
    let B := y.val x n.1 b.1
    let e : Nat := s.curEl
    let q := x.ws
    let ports := fifoPorts a.1 b.1
    let K := s.elCap e x.capSlot
    let va := elAddr K A
    let size := 2 ^ (v.1 % 4)
    let errs := (ports.filterMap y.head).filter (fun t => t.kind.1 == kError)
    let marked := ports.any (fun p => match y.head p with
      | some t => t.kind.1 == kMarker
      | none => true)
    (∀ took, s.ctlGoes c took →
      let shot : Nat → Dword → Shot := fun k z => { takes := ports, ctl := took, sends := [(d.1, k, z)] }
      let mayAsk := fun (op var : Nat) => y.behindOrdt y.running ⟨op, d.1, a.1, b.1, c.1, var, n.1⟩ = false ∧
        s.clear e y.running (shot kData 0) = true
      (joinKinds (ports.map y.head) = .data →
        (mayAsk 0x20 v.1 →
          (∀ u pa eff, s.checked (s.elAccess e y.running) K va size size permR 0 = .ok u pa eff → isPlain pa = true → u.inRing pa = false →
            u.linkDown pa = false → u.poisoned pa size = false →
            s.firesIn u (.feLd d a b c v n) n (shot kData (if 4 ≤ v.1 then sextTo64 (8 * size) (leNat (u.peek pa size))
                                                           else BitVec.ofNat 64 (leNat (u.peek pa size))))) ∧
          (∀ u z w, s.checked (s.elAccess e y.running) K va size size permR 0 = .fault u z w →
            s.firesIn u (.feLd d a b c v n) n (shot kError (s.errorData e y.running z))) ∧
          (∀ u, s.checked (s.elAccess e y.running) K va size size permR 0 = .miss u →
            exec (.feLd d a b c v n) s = .next (u.park e y.running)) ∧
          (∀ u pa eff, s.checked (s.elAccess e y.running) K va size size permR 0 = .ok u pa eff → isPlain pa = true → u.inRing pa = false →
            u.linkDown pa = true → exec (.feLd d a b c v n) s = .next (u.acceptAccess e y.running))) ∧
        (mayAsk 0x21 v.1 →
          (∀ u pa eff, s.checked (s.elAccess e y.running) K va size size permW 1 = .ok u pa eff → isPlain pa = true → u.inRing pa = false →
            u.linkDown pa = false → u.snoop pa size = none →
            s.firesIn (u.writePlain pa (leBytes size B.toNat)) (.feSt d a b c v n) n (shot kData A)) ∧
          (∀ u z w, s.checked (s.elAccess e y.running) K va size size permW 1 = .fault u z w →
            s.firesIn u (.feSt d a b c v n) n (shot kError (s.errorData e y.running z))) ∧
          (∀ u, s.checked (s.elAccess e y.running) K va size size permW 1 = .miss u →
            exec (.feSt d a b c v n) s = .next (u.park e y.running)) ∧
          (∀ u pa eff w, s.checked (s.elAccess e y.running) K va size size permW 1 = .ok u pa eff → isPlain pa = true → u.inRing pa = false →
            u.linkDown pa = false → u.snoop pa size = some w →
            exec (.feSt d a b c v n) s = .next (w.acceptAccess e y.running))) ∧
        (mayAsk 0x22 0 →
          (∀ u pa eff, s.located (s.elAccess e y.running) K va 8 8 (permR + permW + permA) 3 = .ok u pa eff → regionOf pa < 3 →
            isPlain pa = true → u.route (s.elAccess e y.running) K.hasG pa = none → u.inRing pa = false → u.poisoned pa 8 = false →
            coreWindow? pa = none → u.snoop pa 8 = none →
            s.firesIn (u.writePlain pa (dwordBytes (u.peekD pa ||| BitVec.ofNat 64 (2 ^ (B.toNat % 64))))) (.feTas d a b c n) n
              (shot kData (if (u.peekD pa).getLsbD (B.toNat % 64) then 1 else 0))) ∧
          (∀ u z w, s.located (s.elAccess e y.running) K va 8 8 (permR + permW + permA) 3 = .fault u z w →
            s.firesIn u (.feTas d a b c n) n (shot kError (s.errorData e y.running z))))) ∧
      (marked = true → s.stands (.feOrdt d a b c n) ∧ s.stands (.feSink d a b c v n) ∧ s.stands (.feXfer d a b c n)) ∧
      (marked = false → ∀ k z ps, y.offer x n.1 a.1 = some (k, z, ps) →
        (((List.finRange 4).any (fun j => (y.ctxs.get j).parked) = true → s.stands (.feOrdt d a b c n)) ∧
        ((List.finRange 4).any (fun j => (y.ctxs.get j).parked) = false → s.fires (.feOrdt d a b c n) n (shot k z))) ∧
        (let r : Fin 32 := Fin.ofNat 32 n.1
          let h : Shot := { takes := ports, ctl := took, lreg := if k = kData ∧ v = 1 then some (r.1, y.l.get r + 1) else none }
          (errs = [] → s.fires (.feSink d a b c v n) n h) ∧
          (∀ g f m t, errs = [g] → s.shoot e y.running n.1 h = .fired t → s.fabOf e = some (f, m) →
            exec (.feSink d a b c v n) s = .next (t.reportToken f ((m.call.map (·.caller)).getD (.fabric f)) g.data 0)) ∧
          (∀ g o f m t, errs = [g, o] → s.shoot e y.running n.1 h = .fired t → s.fabOf e = some (f, m) →
            let to_ := (m.call.map (·.caller)).getD (.fabric f)
            exec (.feSink d a b c v n) s = .next ((t.reportToken f to_ g.data 0).reportToken f to_ o.data 0))) ∧
        (c ≠ 3 → s.fires (.feNop d a b c n) n (shot k z)) ∧
        (k = kData → (∀ o, y.offer x n.1 b.1 = some o → o.1 = kData) →
          (q.xfer.length < 3 → s.fires (.feXfer d a b c n) n { takes := ports, ctl := took, ws := some { q with xfer := q.xfer ++ [z] } }) ∧
          (∀ u w, 3 ≤ q.xfer.length → s.clear e y.running { takes := ports, ctl := took } = true →
            s.xferRequest e y.running ⟨0x2A, d.1, a.1, b.1, c.1, 0, n.1⟩ (q.xfer ++ [z]) = .ok u w →
            s.firesIn u (.feXfer d a b c n) n { takes := ports, ctl := took, ws := some { q with xfer := [] } }))) ∧
      (∀ t, c = 3 → y.ctlHead = some t → s.fires (.feNop d a b c n) n { ctl := true, jump := if t then some (n.1 / 256) else none })) ∧
    (∀ p r w, x.statuses = p :: r → p.word = some w → s.tileHeld e = false → s.accepts e x { sends := [(p.dst.1, kData, w)] } = true →
      s.emitStatus e y.running = some ((s.modElement e (fun z => { z with ctxs := vset z.ctxs y.running { x with statuses := r, t := w } })).deliver
        e x 1 p.reg.1 (p.dst.1, kData, w))) ∧
    (∀ u, s.dieClocked (elIsland e / 32) = true → s.anyStatus e = some u → s.elementTurn s.curEl = .next u)

/-- R296, R297, R310, R356: `fab.call` enters its operands and capabilities in the tile's call queue and gives a handle of tile and sequence
number, counted among the tile's calls and loads (two counts of a tile: log entry 76); `fab.wait` gives the status word of a call that has ended, waits for one that is queued or in progress, and raises FABCALL for any
other; `gr.load`, `graft` and `prune` enter a request, and their register waits for its status. Bad fields or no tile raise FABCALL, another
job's tile PERM, another partition's BUSERR; a full call queue is waited for.

R278, R296, R297: a call starts between calls, its contexts armed at their first word; with an unusable context or slot it ends at once
with FABCALL in its status. Data on EXIT is counted, the first error sets ERR and is reported to the caller; the done token ends the call
with its status kept, disarms every context and starts a pending splice, which puts the successor's configuration and slots in place. -/
def Obligations.FabricCalls : Prop :=
  (∀ (s : State) (st : Fin 8) (d a : Fin 32) (k : Fin 16) (v : Fin 32),
    let u := s.atIssue
    let x := u.my
    let img := dwordsOf 8 (leBytes 128 (x.rv v).toNat)
    let n := (x.rg a).toNat
    let queued := fun (i : Instr) (w : State) (f : Nat) (add : State → FabTile → FabTile) =>
      ∀ t, w.fab? f = some t →
        (t.room = false → s.waits w i .resource) ∧
        (∀ y, t.room = true → w.drainMine = (y, false) → s.waits y i .resource) ∧
        (∀ y, t.room = true → w.drainMine = (y, true) →
          ∃ z, exec i s = .next z ∧ Done (y.modFab f (fun q => { add y q with nextSeq := q.nextSeq + 1 })) z st none [.g d] ∧ z.my.awaits (.g d))
    (s.canIssue (.v v :: (if k.1 = 0 then [] else [.k k, .k (k + 1), .k (k + 2), .k (k + 3)])) [.g d] 0 = true →
      let i : Instr := .fabCall st d k v
      let d0 := (img.getD 0 0).toNat
      let f := bitsOf d0 0 16
      let bad := d0 / 2 ^ 23 ≠ 0 ∨ f % 8 ≠ 0 ∨ img.getD 7 0 ≠ 0 ∨ 6 < bitsOf d0 20 3 ∨ BitVec.ofNat 4 (bitsOf d0 16 4) = 0
      (bad ∨ u.fab? f = none → s.traps i .fabcall 0) ∧
      (¬bad → ∀ t, u.fab? f = some t →
        (u.mayCall f t = false → s.traps i .perm 0) ∧
        (u.mayCall f t = true → t.room = false → s.waits u i .resource) ∧
        (∀ y, u.mayCall f t = true → t.room = true → u.drainMine = (y, true) →
          s.givesLater (y.modFab f (fun q => { q with
            queue := q.queue ++ [.call q.callSeq (BitVec.ofNat 4 (bitsOf d0 16 4)) ((img.drop 1).take (bitsOf d0 20 3))
              ((List.range 4).map (fun j => if k.1 = 0 then ({} : Cap) else x.rkN (k.1 + j))) (.quad (y.cur.1 / 4))]
            callSeq := q.callSeq + 1, nextSeq := q.nextSeq + 1 })) i st
            (.g d) (.g d (BitVec.ofNat 64 (f * 65536 + t.callSeq.toNat)))))) ∧
    (s.canIssue [.g a] [.g d] 0 = true →
      let i : Instr := .fabWait st d a
      let seq := BitVec.ofNat 16 n
      (u.fab? (n / 65536) = none → s.traps i .fabcall 0) ∧
      (∀ t, u.fab? (n / 65536) = some t →
        (t.job ≠ u.jobOf u.cur → s.traps i .fabcall 0) ∧
        (t.job = u.jobOf u.cur → t.pendingCall seq = true → s.waits u i .call) ∧
        (t.job = u.jobOf u.cur → t.pendingCall seq = false →
          (∀ p, t.history.find? (fun p => p.1 == seq) = some p → s.givesLater u i st (.g d) (.g d p.2)) ∧
          (t.history.find? (fun p => p.1 == seq) = none → s.traps i .fabcall 0)))) ∧
    (s.canIssue [.v v, .k k] [.g d] 0 = true →
      let i : Instr := .grLoad st d k v
      let d0 := laneOf 64 (x.rv v) 0
      let len := laneOf 64 (x.rv v) 1
      let f := d0 % 65536
      let c := x.rk k
      let bad := d0 / 65536 ≠ 0 ∨ len / 2 ^ 40 ≠ 0
      (bad ∨ u.fab? f = none → s.traps i .fabcall 0) ∧
      (¬bad → ∀ t, u.fab? f = some t →
        (u.mayCall f t = false → s.traps i .perm 0) ∧
        (u.mayCall f t = true → c.cursor.toNat % 64 ≠ 0 → s.traps i .align (BitVec.ofNat 64 c.cursor.toNat)) ∧
        (u.mayCall f t = true → c.cursor.toNat % 64 = 0 →
          (∀ w e p, u.readRange c c.cursor.toNat len = .fault w e p → s.trapsIn w i e (BitVec.ofNat 64 p)) ∧
          (∀ w, u.readRange c c.cursor.toNat len = .miss w → s.waits w i .miss) ∧
          (∀ w ps, u.readRange c c.cursor.toNat len = .ok w ps true → s.traps i .perm (BitVec.ofNat 64 c.cursor.toNat)) ∧
          (∀ w ps, u.readRange c c.cursor.toNat len = .ok w ps false → w.fab? f = some t →
            queued i w f (fun y q => { q with
              queue := q.queue ++ [.grove q.callSeq (.reg y.cur y.me d) c len (.quad (y.cur.1 / 4))], callSeq := q.callSeq + 1 }))))) ∧
    (s.canIssue [.g a, .k k] [.g d] 0 = true →
      let f := n % 65536
      let g : Instr := .graft st d a k
      let p : Instr := .prune st d a k
      let c := x.rk k
      let me := TileRef.quad (u.cur.1 / 4)
      let near := u.reaches (u.cur.1 / 1024) (f / 2 ^ 14)
      (n / 2 ^ 20 ≠ 0 ∨ bitsOf n 18 2 = 3 ∨ u.fab? f = none → s.traps g .fabcall 0) ∧
      (n / 2 ^ 24 ≠ 0 ∨ bitsOf n 22 2 = 3 ∨ u.fab? f = none → s.traps p .fabcall 0) ∧
      ((u.fab? f).isSome = true → near = false →
        (n / 2 ^ 20 = 0 → bitsOf n 18 2 ≠ 3 → s.traps g .buserr 0) ∧ (n / 2 ^ 24 = 0 → bitsOf n 22 2 ≠ 3 → s.traps p .buserr 0)) ∧
      (near = true →
        (n / 2 ^ 20 = 0 →
          (bitsOf n 18 2 = 0 → queued g u f (fun y q => { q with
            queue := q.queue ++ [.stage q.nextSeq (.reg y.cur y.me d) (Fin.ofNat 4 (bitsOf n 16 2)) c me] })) ∧
          (bitsOf n 18 2 = 1 → queued g u f (fun y q => { q with
            queue := q.queue ++ [.commit q.nextSeq (.reg y.cur y.me d) (Fin.ofNat 4 (bitsOf n 16 2)) me] })) ∧
          (bitsOf n 18 2 = 2 → queued g u f (fun y q => { q with
            queue := q.queue ++ [.discard q.nextSeq (.reg y.cur y.me d) (Fin.ofNat 4 (bitsOf n 16 2)) me] }))) ∧
        (n / 2 ^ 24 = 0 → bitsOf n 22 2 ≠ 3 → queued p u f (fun y q => { q with
          prunes := q.prunes ++ [⟨q.nextSeq, .reg y.cur y.me d, Fin.ofNat 8 (bitsOf n 16 3), Fin.ofNat 8 (bitsOf n 19 3),
            Fin.ofNat 4 (bitsOf n 22 2), c, me⟩] }))))) ∧
  (∀ (s : State) (f : Fin 65536) (t : FabTile), s.fab? f = some t →
    (∀ seq arm ops caps caller rest, t.call = none → t.between = true → t.queue = .call seq arm ops caps caller :: rest →
      let usable := t.ctxMask ||| t.groveMask
      let ends := fun (c : Cause) => exec (.callStart f) s =
        .next (s.setFab f { t with queue := rest, history := ((seq, statusWord 0 (code8 c) seq) :: t.history).take 64 })
      (arm &&& ~~~usable ≠ 0 → ends .fabcall) ∧
      (∀ c : Fin 4, arm.getLsbD c.1 = true → (t.staged.get c).isSome = true → ends .fabcall) ∧
      (∀ j, j < ops.length → slotValid (t.slots.getD j 0) = false → ends .fabcall) ∧
      (arm &&& ~~~usable = 0 → (∀ c : Fin 4, arm.getLsbD c.1 = true → t.staged.get c = none) →
        (∀ j, j < ops.length → slotValid (t.slots.getD j 0) = true) →
        (∀ c, s.genCheck f t arm (Vector.ofFn (fun j : Fin 4 => caps.getD j.1 {})) = some c → ends c) ∧
        (s.genCheck f t arm (Vector.ofFn (fun j : Fin 4 => caps.getD j.1 {})) = none →
          ∃ u y k, exec (.callStart f) s = .next u ∧ u.fab? f = some y ∧ y.call = some k ∧ y.queue = rest ∧ y.exitQ = [] ∧
            k.seq = seq ∧ k.caller = caller ∧ k.arm = arm ∧ k.done = 0 ∧ k.err = 0 ∧ (∃ m, k.ops = ((List.range ops.length).zip ops).drop m) ∧
            (∀ j : Fin 4, y.caps.get j = caps.getD j.1 {}) ∧ u.mem = s.mem ∧ u.cores = s.cores ∧
            ∀ e (c : Fin 4), t.holds f e = true → arm.getLsbD c.1 = true →
              ((u.element e).ctxs.get c).armed = (((s.element e).ctxs.get c).len != 0 || ((s.element e).ctxs.get c).isGrove) ∧
              ((u.element e).ctxs.get c).wpc = 0 ∧ (u.element e).l = (s.element e).l))) ∧
    (t.call = none → t.queue = [] → exec (.callStart f) s = .next s) ∧
    (∀ c, t.call = some c → exec (.callStart f) s = .next (s.injectOps f c.arm c.ops.length)) ∧
    (∀ k r c, t.exitQ = k :: r → t.call = some c →
      (k.kind.1 = kData → exec (.exitToken f) s = .next (s.setFab f { t with exitQ := r, call := some { c with done := c.done + 1 } })) ∧
      (k.kind.1 = kStop → exec (.exitToken f) s = .next (s.setFab f { t with exitQ := r })) ∧
      (k.kind.1 = kError → c.err = 0 → exec (.exitToken f) s =
        .next ((s.setFab f { t with exitQ := r, call := some { c with err := k.data.setWidth 8 } }).reportToken f c.caller k.data c.seq.toNat)) ∧
      (k.kind.1 = kError → c.err ≠ 0 → exec (.exitToken f) s = .next (s.setFab f { t with exitQ := r })) ∧
      (k.kind.1 ≠ kDone → exec (.callEnd f) s = .next s) ∧
      (k.kind.1 = kDone → exec (.exitToken f) s = .next s ∧
        ∃ u y, exec (.callEnd f) s = .next u ∧ u.fab? f = some y ∧ y.call = none ∧ y.exitQ = [] ∧
          y.history.head? = some (c.seq, statusWord c.done c.err c.seq) ∧ y.splicing = (t.spliceCall && t.splice.isSome) ∧ y.queue = t.queue ∧
          u.mem = s.mem ∧ u.cores = s.cores ∧ (∀ e j, t.holds f e = true → ((u.element e).ctxs.get j).armed = false) ∧
          ∀ e, (u.element e).l = (s.element e).l ∧ (u.element e).fifos = (s.element e).fifos)) ∧
    (∀ m, t.splicing = true → t.splice = some m → m.splice = 0 →
      ∃ u y, exec (.spliceComplete f) s = .next u ∧ u.fab? f = some y ∧ y.slots = m.slots ∧ y.splicing = false ∧ y.splice = none ∧
        y.image = imageWith f t (maskCtxs m.mask) m.cfg ∧ y.imageRegs = imageRegsWith t (maskCtxs m.mask) m.cfg m.regs ∧ u.elements = (s.install f t (maskCtxs m.mask) m.cfg m.regs).elements ∧ u.mem = s.mem) ∧
    (t.splicing = false ∨ t.splice = none → exec (.spliceComplete f) s = .next s))

/-- R302 to R312, R356, R389 to R391: requests of a tile's queue between calls. A STAGE keeps the blocks read, added to those staged before (log entry
72), and discards the context where a page, bus or memory error stopped it; a COMMIT of a completely staged context starts, behind every prune accepted,
of another ends with CFGFORMAT, and completed puts the configuration, local registers (log entry 73) and slots in place; a DISCARD counts the blocks
dropped and resets the context, whether blocks are staged or not (at once: log entry 75); a grove's checks are made before anything is written, and a
loaded one counts its nodes; a fold's region is frozen while its image is read, an image that cannot be read or fails its check ends it with CFGFORMAT, a
fold is checked before anything moves and then installed (what it keeps: log entry 81), and without a fold to reverse the unfold ends with CAPACITY;
either discards what is staged. -/
def Obligations.FabricReconfiguration : Prop :=
  ∀ (s : State) (f : Fin 65536) (t : FabTile) (seq : BitVec 16) (d : StatusTo) (c : Fin 4) (k : Cap) (w : TileRef) (rest : List FabReq),
    s.fab? f = some t →
    (t.between = true →
      (∀ u m, t.queue = .stage seq d c k w :: rest →
        s.readImage (s.fabAccess f w) (some k) k.cursor.toNat f t (fun m => m.getLsbD c.1) (fun _ => [c]) = .got u m none → m.blocks ≠ [] →
        exec (.graftStage f) s = .next ((u.modFab f (fun z => { z with
          staged := vset z.staged c (some (m.onto (t.staged.get c))) })).endRequest f seq d m.blocks.length 0)) ∧
      (∀ u m e, t.queue = .stage seq d c k w :: rest →
        s.readImage (s.fabAccess f w) (some k) k.cursor.toNat f t (fun m => m.getLsbD c.1) (fun _ => [c]) = .got u m (some e) →
        let v := u.modFab f (fun z => { z with
          staged := vset z.staged c (if m.blocks = [] then t.staged.get c else some (m.onto (t.staged.get c))) })
        (e = .pagefault ∨ e = .ptformat ∨ e = .eccerr ∨ e = .buserr →
          exec (.graftStage f) s = .next ((v.discardStaged f [c]).endRequest f seq d m.blocks.length (code8 e))) ∧
        (e = .cfgformat ∨ e = .cfgcrc ∨ e = .bounds ∨ e = .perm →
          exec (.graftStage f) s = .next (v.endRequest f seq d m.blocks.length (code8 e)))) ∧
      (t.queue = .commit seq d c w :: rest → t.prunes ≠ [] → exec (.graftCommit f) s = .next s) ∧
      (t.queue = .commit seq d c w :: rest → t.prunes = [] →
        (∀ m, t.staged.get c = some m → m.complete = true → exec (.graftCommit f) s = .next (s.setFab f { t with committing := some c })) ∧
        (∀ m, t.staged.get c = some m → m.complete = false → exec (.graftCommit f) s = .next (s.endRequest f seq d 0 (code8 .cfgformat))) ∧
        (t.staged.get c = none → exec (.graftCommit f) s = .next (s.endRequest f seq d 0 (code8 .cfgformat)))) ∧
      (t.queue = .discard seq d c w :: rest →
        let bit : BitVec 4 := BitVec.ofNat 4 (2 ^ c.1)
        ∃ (u : State) (y : FabTile), exec (.graftDiscard f) s = .next (u.endRequest f seq d (((t.staged.get c).map (·.blocks.length)).getD 0) 0) ∧
          u.fab? f = some y ∧ y.staged = vset t.staged c none ∧ y.ctxMask = t.ctxMask &&& ~~~bit ∧ y.groveMask = t.groveMask &&& ~~~bit ∧
          y.queue = t.queue ∧ u.mem = s.mem ∧ u.cores = s.cores ∧ ∀ e, (u.element e).l = (s.element e).l ∧ (u.element e).fifos = (s.element e).fifos ∧
            (t.holds f e = true → (u.element e).ctxs.get c = {}) ∧
            ∀ j, j ≠ c ∨ t.holds f e = false → (u.element e).ctxs.get j = (s.element e).ctxs.get j) ∧
      (∀ n u bs, t.queue = .grove seq d k n w :: rest →
        s.engRead (s.fabAccess f w) k true (n / 4096 + 2) k.cursor.toNat n [] = .bytes u bs none →
        (∀ e, u.groveCheck f t bs = .error e → exec (.groveLoad f) s = .next (u.endGrove f seq d w 0 (some e)) ∧
          (∀ b x r, d = .reg b x r → (u.endGrove f seq d w 0 (some e)).elements = u.elements)) ∧
        (∀ h rs, u.groveCheck f t bs = .ok (h, rs) →
          exec (.groveLoad f) s = .next ((u.groveCommit f t h rs (groveInputs f (groveEntries bs 64 h.nin))).endGrove f seq d w
            ((rs.map (fun r => (r.nodes.filter (·.valid)).length)).sum) none)))) ∧
    (∀ m, t.committing = some c → t.queue = .commit seq d c w :: rest → t.staged.get c = some m → m.splice = 0 →
      let bit : BitVec 4 := BitVec.ofNat 4 (2 ^ c.1)
      ∃ u y, exec (.commitComplete f) s = .next u ∧ u.fab? f = some y ∧ y.slots = m.slots ∧ y.committing = none ∧ y.staged.get c = none ∧
        y.ctxMask = t.ctxMask ||| bit ∧ y.groveMask = t.groveMask &&& ~~~bit ∧ y.queue = rest ∧ y.imageRegs = imageRegsWith t [c] m.cfg m.regs ∧ u.mem = s.mem ∧
        (∀ b x r, d = .reg b x r → u.elements = (s.install f t [c] m.cfg m.regs).elements)) ∧
    (t.committing = none → exec (.commitComplete f) s = .next s) ∧
    (t.between = false → exec (.graftStage f) s = .next s ∧ exec (.graftCommit f) s = .next s ∧ exec (.graftDiscard f) s = .next s ∧
      exec (.groveLoad f) s = .next s) ∧
    (∀ p ps, t.prunes = p :: ps → t.committing = none → t.splicing = false →
      let z := s.discardStaged f (List.finRange 4)
      ((∀ j, t.staged.get j = none) → z = s) ∧
      (p.fold = 0 → exec (.pruneFold f) s = .next s ∧
        (t.folds = [] → exec (.pruneUnfold f) s = .next (z.endPrune f p 0 (code8 .capacity))) ∧
        (∀ o os, t.folds = o :: os → p.widthM1 ≠ o.widthM1 ∨ p.heightM1 ≠ o.heightM1 →
          exec (.pruneUnfold f) s = .next (z.endPrune f p 0 (code8 .capacity))) ∧
        (∀ o os, t.folds = o :: os → p.widthM1 = o.widthM1 → p.heightM1 = o.heightM1 → s.fabrics = [(f.1, t)] →
          ∃ u y, exec (.pruneUnfold f) s = .next u ∧ u.fab? f = some y ∧ y.widthM1 = o.widthM1 ∧ y.heightM1 = o.heightM1 ∧
            y.slots = o.slots ∧ y.image = o.image ∧ y.imageRegs = o.imageRegs ∧ y.ctxMask = o.ctxMask ∧ y.folds = os ∧ y.prunes = ps ∧ u.mem = s.mem)) ∧
      (p.fold ≠ 0 → exec (.pruneUnfold f) s = .next s ∧
        let q := z.modFab f (fun u => { u with folding := true })
        (∀ e, p.cap.check p.cap.cursor.toNat 64 permR = some e → exec (.pruneFold f) s = .next (q.endPrune f p 0 (code8 .cfgformat))) ∧
        (∀ u bs, p.cap.check p.cap.cursor.toNat 64 permR = none →
          q.engRead (s.fabAccess f p.caller) p.cap true 2 p.cap.cursor.toNat 64 [] = .wait u bs → exec (.pruneFold f) s = .next u) ∧
        (∀ u bs e, p.cap.check p.cap.cursor.toNat 64 permR = none →
          q.engRead (s.fabAccess f p.caller) p.cap true 2 p.cap.cursor.toNat 64 [] = .bytes u bs (some e) →
          exec (.pruneFold f) s = .next (u.endPrune f p 0 (code8 .cfgformat))) ∧
        (∀ u bs, p.cap.check p.cap.cursor.toNat 64 permR = none →
          q.engRead (s.fabAccess f p.caller) p.cap true 2 p.cap.cursor.toNat 64 [] = .bytes u bs none →
          let h := fun (i lo n : Nat) => bitsOf (dwordAt bs (8 * i)).toNat lo n
          let slots := (List.range 7).map (fun i => BitVec.ofNat 16 (leNat ((bs.drop (8 + 2 * i)).take 2)))
          let small : FabTile := { t with widthM1 := p.widthM1, heightM1 := p.heightM1 }
          h 0 0 32 = 0x47464C44 → h 0 32 2 = p.fold.1 → h 0 34 3 = p.widthM1.1 → h 0 37 3 = p.heightM1.1 → h 7 0 32 = crc32c (bs.take 56) →
          p.widthM1 ≤ t.widthM1 → p.heightM1 ≤ t.heightM1 → u.slotsOk f small slots = true →
          let read := u.readFold (s.fabAccess f p.caller) p.cap f (p.cap.cursor.toNat + 64) (h 0 40 16) []
          (∀ v, read = .inl v → exec (.pruneFold f) s = .next v) ∧
          (∀ v, read = .inr (v, none) → exec (.pruneFold f) s = .next (v.endPrune f p 0 (code8 .cfgformat))) ∧
          (∀ v y rs, read = .inr (v, some rs) → v.fab? f = some y →
            (v.foldCheck f t small rs = none → exec (.pruneFold f) s = .next (v.fold f y p slots rs)) ∧
            (∀ e, v.foldCheck f t small rs = some e → exec (.pruneFold f) s = .next (v.endPrune f p 0 (code8 e))))))) ∧
    (t.folding = true → ∀ e j, s.fabOf e = some (f.1, t) → s.mayFire e j = false) ∧
    (t.prunes = [] ∨ t.committing.isSome = true ∨ t.splicing = true → exec (.pruneFold f) s = .next s ∧ exec (.pruneUnfold f) s = .next s)

/-- R134, R282, R294, R298 to R301, R374: what elements do beside their words. A pair of a grove fires node 0 and then node 1 exactly; a
context that cannot fire yields to the next armed one that can; equal markers at every source of an armed context's word go on together, with latency 1
(log entry 82), and are held no more, and one that has reached EXIT is reported and holds the tile; a wake makes an element try its parked accesses again; struck blocks are installed again between calls, with the local
registers that the image gives (log entry 73). -/
def Obligations.ElementSteps : Prop :=
  ∀ (s : State) (e : Fin 458752) (f : Fin 65536),
    let y := s.seen e
    let x := y.ctxs.get y.running
    let n0 := nodeOf x.node0
    let n1 := nodeOf x.node1
    let ports := (n0.ports ++ n1.ports).eraseDups
    let met := fun (c : Fin 4) (m : Dword) => (y.ctxs.get c).armed = true ∧ (y.ctxs.get c).markerPorts.1 ≠ [] ∧
      ∀ j, j ∈ (y.ctxs.get c).markerPorts.1 → y.markerAt j = some m
    (x.isGrove = false → exec (.nodePairFire e) s = .next s) ∧
    (x.isGrove = true → s.mayFire e y.running = true → joinKinds (ports.map y.head) = .data →
      let value := fun (n : Node) (a b : Int) => if n.sgn = 0 then a * 2 ^ n.sa + b * 2 ^ n.sb
        else if n.sgn = 1 then a * 2 ^ n.sa - b * 2 ^ n.sb else b * 2 ^ n.sb - a * 2 ^ n.sa
      n0.b ≠ 7 → n1.b ≠ 7 →
      let v0 := value n0 (nodeArg y x 0 n0.a) (nodeArg y x 0 n0.b)
      let v1 := value n1 (nodeArg y x v0 n1.a) (nodeArg y x v0 n1.b)
      let h : Shot := { takes := ports, lat := if n1.valid ∧ (n1.a = 4 ∨ n1.b = 4) then 2 else 1
                        sends := n0.outs.map (fun p => (p.1, kData, BitVec.ofInt 64 v0)) ++ n1.outs.map (fun p => (p.1, kData, BitVec.ofInt 64 v1)) }
      (s.clear e y.running h = true → ∃ t, exec (.nodePairFire e) s = .next t ∧ Fired s t e y.running 0 h) ∧
      (s.clear e y.running h = false → exec (.nodePairFire e) s = .next s)) ∧
    (s.stallsNow e y.running = false → exec (.elementContextSwitch e) s = .next s) ∧
    (s.stallsNow e y.running = true →
      ((y.ctxs.get (y.running + 1)).armed = true → s.canFire e (y.running + 1) = true →
        exec (.elementContextSwitch e) s = .next (s.modElement e (fun z => { z with running := y.running + 1, free := s.nowAt e + 1 }))) ∧
      ((∀ j, j ≠ y.running → (y.ctxs.get j).armed = true → s.canFire e j = false) → exec (.elementContextSwitch e) s = .next s)) ∧
    ((∀ c m, met c m → (∀ j k, j ≠ c → ¬met j k) →
        let w := y.ctxs.get c
        let h : Shot := { takes := w.markerPorts.1, sends := w.markerPorts.2.map (fun j => (j, kMarker, m)) }
        (s.mayFire e c = true → s.clear e c h = true → exec (.elementMarkerTake e) s = .next (h.sends.foldl (fun z q => z.deliver e w 1 0 q)
          (s.modElement e (fun z => { z with
            fifos := w.markerPorts.1.foldl (fun v j => vset v j ((v.get j).drop 1)) z.fifos
            holds := z.holds.filter (fun k => !w.markerPorts.1.contains k.port) })))) ∧
        (s.mayFire e c = false ∨ s.clear e c h = false → exec (.elementMarkerTake e) s = .next s)) ∧
      ((∀ c m, ¬met c m) → exec (.elementMarkerTake e) s = .next s)) ∧
    (∀ t k r, s.fab? f = some t → t.exitQ = k :: r →
      (k.kind.1 ≠ kMarker → exec (.fabricMarkerExit f) s = .next s) ∧
      (k.kind.1 = kMarker →
        let g : FaultRec := { cause := .marker, src := 2, aux := k.data.toNat % 2 ^ 32, ans := true, place := BitVec.ofNat 64 (f.1 * 2 ^ 32) }
        (∀ u, s.pushRecord (.fabric f) g (some .exit) = some u →
          exec (.fabricMarkerExit f) s = .next (u.modFab f (fun z => { z with exitQ := r }))) ∧
        (s.pushRecord (.fabric f) g (some .exit) = none → exec (.fabricMarkerExit f) s = .next (s.wantEx (.fabric f))))) ∧
    (∀ z, mapFind s.elements e = some z → ∃ u, exec (.parkedTokenWake e) s = .next u ∧
      (∀ j, (u.element e).ctxs.get j = { z.ctxs.get j with woken := true }) ∧ (∀ j, j ≠ e.1 → u.element j = s.element j) ∧
      u = { s with elements := u.elements }) ∧
    (mapFind s.elements e = none → exec (.parkedTokenWake e) s = .next s) ∧
    (∀ t, s.fab? f = some t → t.between = false ∨ t.regraft = [] → exec (.parityRegraft f) s = .next s) ∧
    (∀ t, s.fab? f = some t → t.between = true → t.regraft = [e.1] → t.image.Pairwise (fun a b => a.1 ≠ b.1) →
      t.imageRegs.Pairwise (fun a b => a.1 ≠ b.1) →
      let struck := fun (j : Nat) => elIsland j = elIsland e ∧ elX j / 8 = elX e / 8 ∧ elY j / 8 = elY e / 8
      ∃ (u : State), exec (.parityRegraft f) s = .next (u.report (.fabric f)
        { cause := .parity, src := 2, imp := true
          place := BitVec.ofNat 64 (f.1 * 2 ^ 32 + (elY e - 8 * ftRow f) * 2 ^ 14 + (elX e - 8 * ftCol f) * 2 ^ 8 + causeCode .parity) }) ∧
        u = { s with elements := u.elements, fabrics := u.fabrics } ∧ u.fab? f = some { t with regraft := [] } ∧
        (∀ j (c : Fin 4), (∀ x, struck j → mapFind t.image (4 * j + c.1) = some x → (u.element j).ctxs.get c = x.configured) ∧
          (¬struck j ∨ mapFind t.image (4 * j + c.1) = none → (u.element j).ctxs.get c = (s.element j).ctxs.get c)) ∧
        ∀ j, (u.element j).fifos = (s.element j).fifos ∧
          (∀ v, struck j → mapFind t.imageRegs j = some v → (u.element j).l = v) ∧
          (¬struck j ∨ mapFind t.imageRegs j = none → (u.element j).l = (s.element j).l))

/-- R346, R348, R7, R9: state registers. `sget` gives the register's value, `sset` writes it; an index without a register raises ILLEGAL, too
low a privilege or a read-only register PRIV; FPFLAGS is waited for while a vector result is outstanding and has the written bits cleared;
LANDCTL has its enable bits set and the written VALID bits cleared.

R159, R349 to R352: `ill` raises ILLEGAL; `trap` pushes its item to the queue that TRAPTBL names, writes the trap registers and leaves the
context in a trap wait with its pc on the trap; without a valid entry it raises TRAPNUM, without a producer port on the queue QPORT (the model's choice,
log entry 18), on a queue of another type TYPE (R82), in a handler ILLEGAL. `tret` writes g1 of the context that its handle names, which goes on
behind the trap, a fault wait that came behind the trap left as it is, and raises TRAPNUM for any other handle. `ckpt` goes on where no pre-emption is under
way. -/
def Obligations.StateRegistersAndTraps : Prop :=
  (∀ (s : State) (st : Fin 8) (d : Fin 32) (i : Fin 1024) (h : Fin 4),
    let u := s.atIssue
    let n := sregIndex i h
    let c : Nat := u.cur
    let put := fun (f : Ctx → Ctx) => s.does (u.modMy f) (.sset st d i h) st none
    (u.stateReg c u.me n = none → s.traps (.sget st d i h) .illegal 0 ∧ s.traps (.sset st d i h) .illegal 0) ∧
    (s.canIssue [] [.g d] 0 = true →
      (∀ v, u.stateReg c u.me n = some v →
        (u.privOf c < u.sregRead n → s.traps (.sget st d i h) .priv 0) ∧
        (u.sregRead n ≤ u.privOf c →
          (n ≠ 2 → s.givesLater u (.sget st d i h) st (.g d) (.g d v)) ∧
          (n = 2 → u.vectorPending = true → s.waits u (.sget st d i h) .resource) ∧
          (n = 2 → u.vectorPending = false → ∃ t f, exec (.sget st d i h) s = .next t ∧ u.landNow.stateReg c u.me 2 = some f ∧
            Done u.landNow t st none [.g d] ∧ t.my.pends (.g d) (.g d f))))) ∧
    (s.canIssue [.g d] [] 1 = true →
      let w := u.my.rg d
      ((u.stateReg c u.me n).isSome = true →
        (sregWrite n = none → s.traps (.sset st d i h) .priv 0) ∧
        (∀ p, sregWrite n = some p →
          (u.privOf c < p → s.traps (.sset st d i h) .priv 0) ∧
          (p ≤ u.privOf c → (n = 2 ∧ u.vectorPending = true) ∨ ((n = 1 ∨ n = 2 ∨ n = 3) ∧ u.hasRep c u.me = true) →
            s.waits u (.sset st d i h) .resource) ∧
          (p ≤ u.privOf c → u.vectorPending = false → u.hasRep c u.me = false →
            (n = 1 → put (fun y => { y with fpmode := w.setWidth 2 })) ∧
            (n = 2 → ∃ t, exec (.sset st d i h) s = .next t ∧
              Done (u.landNow.modMy (fun y => { y with fpflags := y.fpflags &&& ~~~(w.setWidth 5) })) t st none []) ∧
            (n = 3 → put (fun y => { y with stallchk := w.getLsbD 0 })) ∧
            (n = 4 → put (fun y => { y with landctl := (w.setWidth 16 &&& 0xFF00) ||| (y.landctl &&& ~~~(w.setWidth 16) &&& 0x00FF) })) ∧
            (n = 0x100 → put (fun y => { y with trapCause := w.setWidth 8 })) ∧
            (n = 0x101 → put (fun y => { y with trapPc := w })) ∧
            (n = 0x102 → put (fun y => { y with trapVal := w })) ∧
            (n = 9 → s.does (u.modQuad (c / 4) (fun q => { q with quiesceTo := if w < 1024 then 1024 else w })) (.sset st d i h) st none) ∧
            (n = 10 → s.does (u.modQuad (c / 4) (fun q => { q with permits := w.getLsbD 0 })) (.sset st d i h) st none) ∧
            (n = 0x120 → s.does (u.modQuad (c / 4) (fun q => { q with ckptTbl := w })) (.sset st d i h) st none) ∧
            (n = 0x130 → s.does (u.modQuad (c / 4) (fun q => { q with mintBase := w })) (.sset st d i h) st none) ∧
            (n = 0x131 → s.does (u.modQuad (c / 4) (fun q => { q with mintLen := w })) (.sset st d i h) st none) ∧
            (n = 0x132 → s.does (u.modQuad (c / 4) (fun q => { q with mintPerm := w.setWidth 8 })) (.sset st d i h) st none) ∧
            (0x110 ≤ n → n ≤ 0x11F →
              (u.trapQueueOk w = true → s.does (u.modQuad (c / 4) (fun q => { q with
                trapTbl := vset q.trapTbl (Fin.ofNat 16 (n - 0x110)) (w.setWidth 18) })) (.sset st d i h) st none) ∧
              (u.trapQueueOk w = false → s.does u (.sset st d i h) st none))))))) ∧
  (∀ (s : State) (st : Fin 8) (n a b x : Fin 32),
    let u := s.atIssue
    let i : Instr := .trap st n
    exec (.ill st a b x) s = .next (s.atIssue.raise .illegal 0) ∧
    (s.canIssue [.g 1, .g 2, .g 3, .g 4, .g 5, .g 6] [] 1 = true →
      let e := (u.quad (u.cur.1 / 4)).trapTbl.get (Fin.ofNat 16 n.1)
      (u.my.inHandler = true → s.traps i .illegal 0) ∧
      (u.my.inHandler = false →
        (e.getLsbD 16 = false → s.traps i .trapnum 0) ∧
        (e.getLsbD 16 = true →
          (u.trapPort e = none → s.traps i .qport 0) ∧
          (∀ id q p, u.trapPort e = some (id, q, p) →
            let lane := e.getLsbD 17 && decide (q.urgSlots ≠ 0)
            (q.type ≠ 0 ∧ q.type ≠ 0x7F → s.traps i .type 0) ∧
            (q.type = 0 ∨ q.type = 0x7F → q.hasRoom none p lane 1 = false → s.waits (u.want id) i .resource) ∧
            (∀ v, q.type = 0 ∨ q.type = 0x7F → q.hasRoom none p lane 1 = true → u.releaseMine (some (id, p, lane)) = (v, false) →
              s.waits v i .resource) ∧
            (∀ v, q.type = 0 ∨ q.type = 0x7F → q.hasRoom none p lane 1 = true → u.releaseMine (some (id, p, lane)) = (v, true) →
              ∃ t, exec i s = .next t ∧ Done ((v.pushFrom (some (v.cur.1, v.me)) id p none lane ⟨0, 0x7F, 0, v.trapItem n.1⟩).modMy
                  (fun y => { y.setTrap .trap (u.my.pc.setWidth 64) 0 with wait := .trap, trapped := true })) t st (some u.my.pc) [] ∧
                t.my.wait = .trap ∧ t.my.trapped = true ∧ t.my.pc = u.my.pc ∧ t.my.trapPc = u.my.pc.setWidth 64 ∧ t.my.trapVal = 0))))) ∧
    (s.canIssue [.g a, .g b] [] 1 = true →
      (u.trapped (u.my.rg a) = none → s.traps (.tret st a b) .trapnum 0) ∧
      (∀ c y, u.trapped (u.my.rg a) = some (c, y) →
        (u.servesJob u.cur (u.jobOf c) = false → s.traps (.tret st a b) .trapnum 0) ∧
        (∀ v, u.servesJob u.cur (u.jobOf c) = true → u.drainMine = (v, true) → (v.ctx c y).stopped = false →
          s.does ((v.modCore c (·.settle y)).wakeCtx c y (fun z => { z with
              g := vset z.g 1 (u.my.rg b), pc := z.pc + 4, wait := if z.wait = .trap then .none else z.wait, trapped := false
              readyAt := (v.core c).clock })) (.tret st a b) st none) ∧
        (∀ v, u.servesJob u.cur (u.jobOf c) = true → u.drainMine = (v, false) → s.waits v (.tret st a b) .resource))) ∧
    (s.canIssue [] [] 1 = true →
      (u.my.inHandler = true → s.traps (.ckpt st) .illegal 0) ∧
      (u.my.inHandler = false →
        (u.hasRep u.cur u.me = true → s.waits u (.ckpt st) .resource) ∧
        (u.hasRep u.cur u.me = false →
          ((u.quad (u.cur.1 / 4)).ctlState ≠ 1 → s.does u (.ckpt st) st none) ∧
          (u.liveEntry u.cur u.my.pc = none → s.does u (.ckpt st) st none) ∧
          (∀ e v, (u.quad (u.cur.1 / 4)).ctlState = 1 → u.liveEntry u.cur u.my.pc = some e → u.my.vars = [] → u.drainMine = (v, true) →
            ∃ t, exec (.ckpt st) s = .next t ∧ t.my.stopped = true ∧ t.my.atCkpt = true ∧ t.my.pc = u.my.pc + 4 ∧
              Done (v.saveAtCkpt v.cur v.me e) t st (some (u.my.pc + 4)) [])))))

/-- R353 to R355, R357, R358: `halt` sets or clears the halt of a core that its die reaches in the partition (R345); `frz` asks for a freeze, which stops the partition's
clocks 16 cycles later with each core's TIMER recorded, or ends one, and raises ILLEGAL with another bit set (the model's choice, log entry 24); `scanrd` reads a chain while frozen and raises NOTFROZEN otherwise;
`tlb.inv` drops the translations that its operands name within its scope; `cap.mint` makes a tagged capability only from a well-formed
pattern within the mint bounds. -/
def Obligations.FirmwareInstructions : Prop :=
  ∀ (s : State) (st : Fin 8) (d a b : Fin 32) (k : Fin 16),
    let u := s.atIssue
    let n := (u.my.rg a).toNat
    let m := (u.my.rg b).toNat
    let die := u.cur.1 / 1024
    (s.canIssue [.g a] [] 1 = true →
      (n / 2 ^ 13 ≠ 0 → s.traps (.halt st a) .illegal 0) ∧
      (n / 2 ^ 13 = 0 → u.reaches die (n % 4096 / 1024) = false → s.traps (.halt st a) .buserr 0) ∧
      (n / 2 ^ 13 = 0 → u.reaches die (n % 4096 / 1024) = true →
        s.does (u.modCore (n % 4096) (fun c => { c with halted := decide (n < 4096) })) (.halt st a) st none) ∧
      (2 ≤ n → s.traps (.frz st a) .illegal 0) ∧
      (n = 0 → s.does (u.askFreeze die u.cur) (.frz st a) st none ∧ ((u.die die).frozen = false → (u.die die).freezeAt = none →
        die < 4 → ((u.askFreeze die u.cur).die die).freezeAt = some (u.cur.1, (u.core u.cur).clock + 16))) ∧
      (n = 1 → s.does (u.thaw die) (.frz st a) st none ∧ (die < 4 → ((u.thaw die).die die).frozen = false))) ∧
    (s.canIssue [.g a, .g b] [.g d] 0 = true →
      (n / 2 ^ 16 ≠ 0 → s.traps (.scanrd st d a b) .illegal 0) ∧
      (n / 2 ^ 16 = 0 → (u.die die).frozen = false → s.traps (.scanrd st d a b) .notfrozen 0) ∧
      (n / 2 ^ 16 = 0 → (u.die die).frozen = true → ∃ x : Dword, s.givesLater u (.scanrd st d a b) st (.g d) (.g d x) ∧
        ∀ j, j < 64 → x.getLsbD j = (decide (m + j < Config.scanLength (n / 2 ^ 14) (n / 2 ^ 8 % 64) (n % 256)) &&
          Config.scanBit (u.die die).scan (n / 2 ^ 14) (n / 2 ^ 8 % 64) (n % 256) (m + j)))) ∧
    (s.canIssue [.g a, .g b] [] 1 = true →
      let i : Instr := .tlbInv st a b
      let bad := bitsOf m 3 2 = 3 ∨ 6 ≤ bitsOf m 0 3 ∨ bitsOf m 5 11 ≠ 0 ∨ m / 2 ^ 32 ≠ 0 ∨ (bitsOf m 3 2 = 2 ∧ bitsOf m 16 16 ≠ 0)
      (bad → s.traps i .illegal 0) ∧
      (¬bad →
        let v := u.drainScope (bitsOf m 0 3)
        (v.storesLeft (bitsOf m 0 3) = true → s.waits v i .resource) ∧
        (v.storesLeft (bitsOf m 0 3) = false →
          let t := v.invalidate (bitsOf m 0 3) m (n % 2 ^ 56)
          s.does t i st none ∧ t.mem = v.mem ∧ t.queues = v.queues ∧
          (∀ c, c < 4096 → coresWithin (bitsOf m 0 3) v.cur c = true → ∀ x, x ∈ (t.core c).tlb →
            x ∈ (v.core c).tlb ∧ invMatches m (n % 2 ^ 56) x.job x.va x.size = false)))) ∧
    (s.canIssue [.g a, .g b] [.k k] 1 = true →
      let c : Cap := { bits := u.my.rg b ++ u.my.rg a, tag := false }
      let q := u.quad (u.cur.1 / 4)
      (c.wellFormed = false → s.gives (.capMint st k a b) st 1 (.k k) (.k k c)) ∧
      (c.wellFormed = true → u.privOf u.cur = 2 → s.gives (.capMint st k a b) st 1 (.k k) (.k k { c with tag := true })) ∧
      (c.wellFormed = true → u.privOf u.cur ≠ 2 →
        (q.mintBase.toNat ≤ c.base ∧ c.base + c.len ≤ q.mintBase.toNat + q.mintLen.toNat ∧ BitVec.ofNat 8 c.perms &&& ~~~q.mintPerm = 0 →
          s.gives (.capMint st k a b) st 1 (.k k) (.k k { c with tag := true })) ∧
        (¬(q.mintBase.toNat ≤ c.base ∧ c.base + c.len ≤ q.mintBase.toNat + q.mintLen.toNat ∧ BitVec.ofNat 8 c.perms &&& ~~~q.mintPerm = 0) →
          s.gives (.capMint st k a b) st 1 (.k k) (.k k c)))) ∧
    (∀ (p : Fin 4) (c t : Nat),
      ((∀ e, e < 4 → (s.die e).part = p → (s.die e).freezeAt = none) → exec (.clockGate p) s = .next s) ∧
      ((∀ e, e < 4 → (s.die e).part = p → (s.die e).freezeAt = some (c, t)) → (∃ e, e < 4 ∧ (s.die e).part = p) →
        ((s.core c).clock < t → exec (.clockGate p) s = .next s) ∧
        (t ≤ (s.core c).clock → ∃ v, exec (.clockGate p) s = .next v ∧ v.mem = s.mem ∧ v.cores = s.cores ∧
          ∀ e, e < 4 → (s.die e).part = p → (v.die e).frozen = true ∧ (v.die e).freezeAt = none ∧
            (v.die e).stops = s.cores.map (fun x => (x.1, x.2.timer.setWidth 63)))))

/-- R401: every host command stands still until its ring holds it begun and its completion queue has room; a reserved bit of C0 completes it
with ILLEGAL and no effect. A completion writes its 16-byte entry behind the last, with CID, PHASE, ERR, SQHEAD and RESULT, and ends the
entry's begun time; PHASE is inverted on each pass.

R395, R401, R410: while no die runs the host-command role nothing of BAR0 is there (the model's choice for it: log entry 80). Then a completion doorbell records the host's head; a
submission doorbell records the tail, and a ring that is enabled with nothing begun fetches its next entry and moves SQHEAD past it; a ring
that is
not leaves it. A write of the host to a ring register of BAR0 sets it with its reserved bits 0, a reserved number of entries leaving that field
(where BAR0 stands and what a written RINGCFG does: the model's choice, log entry 45); the host writes its own memory, in which its rings stand (R397),
and nothing else by such a write; a device register takes a write of an agent as an agent's write, and plain memory is no register. -/
def Obligations.HostCommandForm : Prop :=
  ((∀ (s : State) (h : HostHdr) (a b c d : Dword) (g : LoadTarget) (t : TileRef),
    ∀ p, p ∈ [(Instr.identify h a, 0, [a]), (.health h a, 1, [a]), (.jobnew h a b c, 2, [a, b, c]), (.jobend h, 3, []), (.tileload h g, 4, []),
        (.tilerel h t, 5, [tileNo t]), (.qnew h a b, 6, [a, b]), (.qfree h a, 7, [a]), (.qbind h a b, 8, [a, b]), (.copy h a b c d, 9, [a, b, c, d]),
        (.flashmap h a b c d, 10, [a, b, c, d]), (.stallctl h a b, 11, [a, b]), (.power h a, 12, [a]), (.linkcfg h a b c d, 13, [a, b, c, d]),
        (.debug h a b c, 14, [a, b, c]), (.reset h a, 15, [a])] →
      (s.entryOf h p.2.1 p.2.2 = none → exec p.1 s = .next s) ∧
      ((s.ring h.ring).cqRoom = false → exec p.1 s = .next s) ∧
      (∀ e, s.entryOf h p.2.1 p.2.2 = some e → (s.ring h.ring).cqRoom = true → e.getD 0 0 &&& 0xFEF0 ≠ 0 → s.completes s p.1 h e (some .illegal) 0)) ∧
  (∀ (s : State) (h : HostHdr) (e : List Dword) (err : Option Cause) (r : Dword),
    let x := s.ring h.ring
    let n := x.cqTail.toNat % x.entries
    let t := s.complete h e err r
    let a := hostAddr (x.cqBase.toNat + 16 * n)
    t.peek (a + 8) 8 = dwordBytes r ∧ t.peek a 2 = leBytes 2 h.cid.toNat ∧
    t.peek (a + 2) 1 = leBytes 1 (if x.phase then 1 else 0) ∧
    t.peek (a + 3) 1 = leBytes 1 (match err with
      | some c => causeCode c
      | none => 0) ∧
    t.peek (a + 4) 4 = leBytes 4 x.sqHead.toNat ∧ (∀ z, z < a ∨ a + 16 ≤ z → t.byteAt z = s.byteAt z) ∧
    (t.ring h.ring).cqTail.toNat = (n + 1) % x.entries ∧ (t.ring h.ring).phase = (if n + 1 = x.entries then !x.phase else x.phase) ∧
    t.host.msixSent = s.host.msixSent ++ [bitsOf x.cfg.toNat 16 11] ∧ t.cores = s.cores ∧ t.queues = s.queues)) ∧
  (∀ (s : State) (r : Fin 8) (v : BitVec 32) (w : Writer) (x : Dword) (pa : Nat),
    (s.hostRole = false → exec (.completionDoorbell r v) s = .next s ∧ exec (.submissionDoorbell r v) s = .next s ∧
      (bar0 ≤ pa → pa < bar0 + 2 ^ 24 → exec (.registerWrite w pa x) s = .next s)) ∧
    (s.hostRole = true →
      exec (.completionDoorbell r v) s = .next (s.modRing r (fun y => { y with cqHead := v })) ∧
      (∃ t, exec (.submissionDoorbell r v) s = .next t ∧ (t.ring r).sqTail = v ∧ t.mem = s.mem ∧ t.queues = s.queues ∧ t.jobs = s.jobs ∧
        (∀ q, q ≠ r → t.ring q = s.ring q) ∧
        ((s.ring r).enabled = false → (t.ring r).begun = (s.ring r).begun ∧ (t.ring r).sqHead = (s.ring r).sqHead) ∧
        ((s.ring r).enabled = true → (s.ring r).begun = [] →
          let n := (s.ring r).entries
          let at_ := (s.ring r).sqHead.toNat % n
          (at_ + 1) % n = v.toNat % n →
          (t.ring r).begun = [dwordsOf 8 (s.peek (hostAddr ((s.ring r).sqBase.toNat + 64 * at_)) 64)] ∧
            (t.ring r).sqHead.toNat = (at_ + 1) % n)) ∧
      (∀ f : Fin 3, exec (.registerWrite .outside (bar0 + 0x1000 + 0x20 * r.1 + 8 * f.1) x) s = .next (s.modRing r (fun y => y.write f.1 x))) ∧
      exec (.registerWrite .outside (bar0 + 0x2800 + 8 * r.1) x) s = .next (s.modRing r (fun y => { y with cqHead := x.setWidth 32 })) ∧
      (∃ t, exec (.registerWrite .outside (bar0 + 0x2000 + 8 * r.1) x) s = .next t ∧ exec (.submissionDoorbell r (x.setWidth 32)) s = .next t)) ∧
    (regionOf pa = 0x10 → exec (.registerWrite .outside pa x) s = .next (s.writePlain pa (dwordBytes x))) ∧
    (regionOf pa ≠ 0x10 → ¬(bar0 ≤ pa ∧ pa < bar0 + 2 ^ 24) → exec (.registerWrite .outside pa x) s = .next s) ∧
    (isPlain pa = true → w ≠ .outside → exec (.registerWrite w pa x) s = .next s) ∧
    (isPlain pa = false → w ≠ .outside → ¬(bar0 ≤ pa ∧ pa < bar0 + 2 ^ 24) → exec (.registerWrite w pa x) s = .next (s.agentWrite w pa x)) ∧
    ((s.ring r).write 0 x).sqBase = x &&& ~~~4095 ∧ ((s.ring r).write 1 x).cqBase = x &&& ~~~4095 ∧
    (4 ≤ x.toNat % 16 → x.toNat % 16 ≤ 12 → ((s.ring r).write 2 x).cfg = x &&& 0x07FF001F) ∧
    (x.toNat % 16 < 4 ∨ 12 < x.toNat % 16 → ((s.ring r).write 2 x).cfg = (x &&& 0x07FF0010) ||| ((s.ring r).cfg &&& 0xF)))

/-- R401, R359, R382, R422: IDENTIFY and HEALTH write their records to the host, the fuse map, partitions, arbor map, porter map and notify page
addresses among them (where each stands in IDENTIFY is the model's choice, log entry 98); JOBNEW makes the job with the least unused number; JOBEND and
TILEREL release tiles, with PERM for no job or another's tile, and complete when they are gone; TILELOAD loads its object at the
place that C3 names (log entry 14) or answers with the cause that refuses it.

R382, R35, R29, R420: what loading a core tile refuses, in order (the order is the model's reading: log entry 40): an object outside its limits (CFGFORMAT), a retired island (CAPACITY), an
arbor quad or one that holds a tile (PERM), a quad of another partition (BUSERR); a loaded tile stands on its quad with its job, its
contexts are as launch leaves them, and it brings the job capabilities of every other tile of its job (R156). -/
def Obligations.JobAndTileCommands : Prop :=
  (∀ (s : State) (h : HostHdr) (a b c : Dword) (g : LoadTarget) (t : TileRef) (e : List Dword),
    let j := h.job.toNat
    (s.Begun h 0 [a] e → ∃ bs : List Byte, bs.length = 4096 ∧ (∀ o, o < 4096 → bs.getD o 0 = s.identifyAt o) ∧
      (∀ d, d < 4 → bs.getD (0x80 + d) 0 = BitVec.ofNat 8 (s.die d).part.1 ∧
        ∀ i, i < 8 → bs.getD (0x300 + 8 * d + i) 0 = BitVec.ofNat 8 (s.notifyBase.get (Fin.ofNat 4 d) / 256 ^ i)) ∧ s.completes (s.poke (hostAddr a.toNat) bs).tick (.identify h a) h e none 0) ∧
    (s.Begun h 1 [a] e → s.completes (s.poke (hostAddr a.toNat) s.healthRecord).tick (.health h a) h e none 65536 ∧
      s.healthRecord.length = 65536 ∧ s.healthRecord.take 4 = leBytes 4 0x48544C48) ∧
    (s.Begun h 2 [a, b, c] e →
      ((3 < a.toNat ∨ (∀ d, d < 4 → (s.die d).part.1 ≠ a.toNat) ∨ b.toNat % 4096 ≠ 0 ∨ 2 ^ 44 ≤ b.toNat) →
        s.completes s (.jobnew h a b c) h e (some .illegal) 0) ∧
      (a.toNat ≤ 3 → (∃ d, d < 4 ∧ (s.die d).part.1 = a.toNat) → b.toNat % 4096 = 0 → b.toNat < 2 ^ 44 →
        ∀ n, 1 ≤ n → n < 65536 → mapFind s.jobs n = none → (∀ m, 1 ≤ m → m < n → mapFind s.jobs m ≠ none) →
        s.completes { s with jobs := mapPut n { root := b.toNat, part := Fin.ofNat 4 a.toNat, quota := c } s.jobs } (.jobnew h a b c) h e none
          (BitVec.ofNat 64 n))) ∧
    (s.Begun h 3 [] e →
      (s.hasJob h = false → s.completes s (.jobend h) h e (some .perm) 0) ∧
      (s.hasJob h = true → s.tilesOf j = [] → s.completes (s.dropJob j) (.jobend h) h e none 0) ∧
      (s.hasJob h = true → s.tilesOf j ≠ [] → exec (.jobend h) s = .next ((s.tilesOf j).foldl State.markRelease s)) ∧
      (s.dropJob j).hasJob h = false) ∧
    (s.Begun h 5 [tileNo t] e →
      let c2 := e.getD 2 0
      (s.hasJob h = false → s.completes s (.tilerel h t) h e (some .perm) 0) ∧
      (s.hasJob h = true →
        (2 ≤ c2.toNat → s.completes s (.tilerel h t) h e (some .illegal) 0) ∧
        (c2.toNat < 2 → c2 ≠ tileBit t → exec (.tilerel h t) s = .next s) ∧
        (c2 = tileBit t →
          (s.tileJob t = none → s.completes s (.tilerel h t) h e none 0) ∧
          (∀ k, s.tileJob t = some k → k ≠ j → s.completes s (.tilerel h t) h e (some .perm) 0) ∧
          (s.tileJob t = some j → exec (.tilerel h t) s = .next (s.markRelease t))))) ∧
    (s.Begun h 4 [] e →
      (s.hasJob h = false → s.completes s (.tileload h g) h e (some .perm) 0) ∧
      (s.hasJob h = true → e.getD 3 0 ≠ tileNo (targetRef g) → exec (.tileload h g) s = .next s) ∧
      (s.hasJob h = true → e.getD 3 0 = tileNo (targetRef g) →
        (∀ q o u, g = .core q o → s.loadQuad j q o = .ok u → s.completes u (.tileload h g) h e none (statusWord 1 0 0)) ∧
        (∀ q o x, g = .core q o → s.loadQuad j q o = .error x → s.completes s (.tileload h g) h e (some x) (statusWord 0 (code8 x) 0)) ∧
        (∀ f o u n, g = .fabric f o → s.loadFabric j f o = .ok u n → s.completes u (.tileload h g) h e none (statusWord n 0 0)) ∧
        (∀ f o x, g = .fabric f o → s.loadFabric j f o = .refused x → s.completes s (.tileload h g) h e (some x) (statusWord 0 (code8 x) 0)) ∧
        (∀ f o u, g = .fabric f o → s.loadFabric j f o = .wait u → exec (.tileload h g) s = .next u)))) ∧
  (∀ (s : State) (j q : Nat) (o : TileObject),
    ((objectOk o = false ∨ 1024 ≤ q) → s.loadQuad j q o = .error .cfgformat) ∧
    (objectOk o = true → q < 1024 →
      (s.isRetired (islandOfCore (4 * q)) = true → s.loadQuad j q o = .error .capacity) ∧
      (s.isRetired (islandOfCore (4 * q)) = false →
        ((s.isArbor q = true ∨ (s.quad q).tile ≠ none) → s.loadQuad j q o = .error .perm) ∧
        (s.isArbor q = false → (s.quad q).tile = none → s.inPart (q / 256) j = false → s.loadQuad j q o = .error .buserr))) ∧
    (∀ u, s.loadQuad j q o = .ok u →
      (∃ t, (u.quad q).tile = some t ∧ t.job = j ∧ t.priv = 0 ∧ t.actors.map (·.decl) = o.actors ∧ t.ex.exq = o.exq ∧ t.ex.ansq = o.ansq) ∧
      (∀ i : Fin 4, ∀ x, (u.core (4 * q + i.1)).ctxs.get x = launchCtx o i.1 x) ∧
      (∀ k, k ≠ q → u.quad k = s.quad k) ∧ (∀ k, k ≠ j → u.job k = s.job k) ∧ (u.job j).caps = some o.jobcaps ∧
      ((s.job j).caps = some o.jobcaps ∨ (s.job j).caps = none)))

/-- R67, R398, R401: QNEW refuses a reserved descriptor field with ILLEGAL, a base, capacity or footprint against its rules with CFGFORMAT and
a home in another partition with BUSERR (which cause refuses which field: log entry 48), waits for an absent page and gives a failed walk's cause, and
makes the queue with a fresh identifier (which one: log entry 42); QFREE deletes a queue without ports and QBIND binds or ends a host port, in the state
block of a queue that is unmapped, each with QPORT for no such queue and PERM for another job's. -/
def Obligations.QueueCommands : Prop :=
  ∀ (s : State) (h : HostHdr) (a b : Dword) (e : List Dword),
    let j := h.job.toNat
    let q : Queue := { job := j, desc := b ++ a }
    (s.Begun h 6 [a, b] e →
      (s.hasJob h = false → s.completes s (.qnew h a b) h e (some .perm) 0) ∧
      (s.hasJob h = true →
        (descFields q.desc = false → s.completes s (.qnew h a b) h e (some .illegal) 0) ∧
        (descFields q.desc = true →
          let bad := q.base % 128 ≠ 0 ∨ q.slotsN < q.cap ∨ 2 ^ 56 < q.base + q.footprint
          (bad → s.completes s (.qnew h a b) h e (some .cfgformat) 0) ∧
          (¬bad → s.inPart q.homeDie j = false → s.completes s (.qnew h a b) h e (some .buserr) 0) ∧
          (∀ id, ¬bad → s.inPart q.homeDie j = true → s.freeQueueId = some id →
            s.queue? id = none ∧
            let acc : Access := ⟨.manager id, q.homeIsland, j, 2, false, none⟩
            let p := s.findPages acc q.homeSpan (q.footprint / 4096 + 2) q.base (q.base + q.footprint) []
            (∀ l, p = .ok l → s.completes (s.makeQueue id { q with pages := l }) (.qnew h a b) h e none (BitVec.ofNat 64 id) ∧
              ∃ y, (s.makeQueue id { q with pages := l }).queue? id = some y ∧ y.desc = q.desc ∧ y.job = j ∧ y.pages = l ∧ y.prods = [] ∧ y.cons = []) ∧
            (∀ u c, p = .fault u c → s.completes u (.qnew h a b) h e (some c) 0) ∧
            (p = .outside → s.completes s (.qnew h a b) h e (some .cfgformat) 0) ∧
            (∀ u, p = .wait u → exec (.qnew h a b) s = .next u))))) ∧
    (s.Begun h 7 [a] e → s.hasJob h = true →
      (s.queue? a.toNat = none → s.completes s (.qfree h a) h e (some .qport) 0) ∧
      (∀ x, s.queue? a.toNat = some x →
        (x.job ≠ j → s.completes s (.qfree h a) h e (some .perm) 0) ∧
        (x.job = j → (x.cons ≠ [] ∨ x.prods ≠ []) → s.completes s (.qfree h a) h e (some .qport) 0) ∧
        (x.job = j → x.cons = [] → x.prods = [] → s.completes (s.deleteQueue a.toNat) (.qfree h a) h e none 0 ∧
          (s.deleteQueue a.toNat).queue? a.toNat = none))) ∧
    (s.Begun h 8 [a, b] e → s.hasJob h = true →
      (s.queue? a.toNat = none → s.completes s (.qbind h a b) h e (some .qport) 0) ∧
      (∀ x, s.queue? a.toNat = some x →
        (x.job ≠ j → s.completes s (.qbind h a b) h e (some .perm) 0) ∧
        (x.job = j →
          let z := s.blockView a.toNat x
          (∀ c, z.bindHost b.toNat = .error c → s.completes s (.qbind h a b) h e (some c) 0) ∧
          (∀ y, z.bindHost b.toNat = .ok y →
            s.completes (s.throughBlock a.toNat (fun u => (u.modQueue a.toNat (fun _ => y)).freeSlots a.toNat)) (.qbind h a b) h e none 0) ∧
          (b.toNat % 4 = 3 → z.bindHost b.toNat = .error .illegal) ∧
          (b.toNat / 2 ^ 33 = 0 → b.toNat % 4 ≤ 1 → z.homeKind ≠ 2 → z.bindHost b.toNat = .error .qport))))

/-- R343, R396, R401: COPY reads every byte before it writes any, reaches only regions 0x00 to 0x02 of the job's partition, is held while a
landing register of its destination is VALID and until a line of it that a host cache holds is snooped, and completes with its length; a host-to-host copy of bytes leaves every other
byte alone. HDM accesses track their lines; a write's bytes are what the device then reads, and their lines count as modified; FetchAdd, Swap and CAS
of the host are performed on the dword and answer its old value. -/
def Obligations.CopyAndHdm : Prop :=
  ∀ (s : State) (h : HostHdr) (a b n d : Dword) (e : List Dword) (off : Nat) (bs : List Byte) (m : Nat),
    let j := h.job.toNat
    let i : Instr := .copy h a b n d
    let sd := d.getLsbD 0
    let dd := d.getLsbD 1
    (s.Begun h 9 [a, b, n, d] e →
      (s.hasJob h = false → s.completes s i h e (some .perm) 0) ∧
      (s.hasJob h = true →
        (4 ≤ d.toNat → s.completes s i h e (some .illegal) 0) ∧
        (d.toNat < 4 →
          (∀ c, sd = true → s.copyBarred j a.toNat n.toNat = some c → s.completes s i h e (some c) 0) ∧
          ((sd = true → s.copyBarred j a.toNat n.toNat = none) →
            (∀ c, dd = true → s.copyBarred j b.toNat n.toNat = some c → s.completes s i h e (some c) 0) ∧
            (∀ c, dd = true → s.copyBarred j b.toNat n.toNat = none → s.copyCheck b.toNat n.toNat = some c → s.completes s i h e (some c) 0) ∧
            ((dd = true → s.copyBarred j b.toNat n.toNat = none ∧ s.copyCheck b.toNat n.toNat = none) →
              (∀ c, s.copyRead sd a.toNat n.toNat = .error c → s.completes s i h e (some c) 0) ∧
              (∀ x, s.copyRead sd a.toNat n.toNat = .ok x → dd = true → s.copyHeld b.toNat n.toNat = true → exec i s = .next s) ∧
              (∀ x u, s.copyRead sd a.toNat n.toNat = .ok x → dd = true → s.copyHeld b.toNat n.toNat = false →
                s.snoop b.toNat n.toNat = some u → exec i s = .next u) ∧
              (∀ x, s.copyRead sd a.toNat n.toNat = .ok x →
                (dd = true → s.copyHeld b.toNat n.toNat = false ∧ s.snoop b.toNat n.toNat = none) →
                s.completes (s.copyWrite dd b.toNat x) i h e none n)))) ∧
        (d = 0 → (s.copyRead sd a.toNat n.toNat = .ok (s.peek (hostAddr a.toNat) n.toNat)) ∧
          ∀ z, (z < hostAddr b.toNat ∨ hostAddr b.toNat + n.toNat ≤ z) →
            (s.copyWrite dd b.toNat (s.peek (hostAddr a.toNat) n.toNat)).byteAt z = s.byteAt z))) ∧
    (∀ l x, (s.copyBarred j l x = none → ∀ p, p ∈ copyPieces l x → regionOf p.1 ≤ 2 ∧ s.inPart (dieOfPa p.1) j = true)) ∧
    (s.hostRole = false → exec (.hdmAccess (.read off m)) s = .next s ∧ exec (.hdmAccess (.write off bs)) s = .next s) ∧
    (∀ x y : Dword, ∀ p, p ∈ [(HdmOp.fetchAdd off x, s.peekD (hdmAddr off) + x), (.swap off x, x),
        (.cas off y x, if s.peekD (hdmAddr off) = y then x else s.peekD (hdmAddr off))] →
      (s.hostRole = false ∨ off % 8 ≠ 0 → exec (.hdmAccess p.1) s = .next s) ∧
      (s.hostRole = true → off % 8 = 0 → off + 8 ≤ 8 * (48 * 2 ^ 30) → hdmAddr (off + 7) = hdmAddr off + 7 →
        ∃ t, exec (.hdmAccess p.1) s = .next t ∧ t.host.answers = s.host.answers ++ [s.peekD (hdmAddr off)] ∧ t.peekD (hdmAddr off) = p.2 ∧
          ∀ z, (z < hdmAddr off ∨ hdmAddr off + 8 ≤ z) → t.byteAt z = s.byteAt z)) ∧
    (∀ u, s.hostRole = true → 0 < m → off + m ≤ 8 * (48 * 2 ^ 30) → hdmAddr (off + m - 1) = hdmAddr off + (m - 1) → s.trackAll (hdmAddr off) m = .inr u →
      exec (.hdmAccess (.read off m)) s = .next u ∧ u.mem = s.mem) ∧
    (∀ u, s.hostRole = true → bs ≠ [] → off + bs.length ≤ 8 * (48 * 2 ^ 30) → hdmAddr (off + bs.length - 1) = hdmAddr off + (bs.length - 1) →
      s.trackAll (hdmAddr off) bs.length = .inr u → ∃ t, exec (.hdmAccess (.write off bs)) s = .next t ∧
        (s.notifyAt (hdmAddr off) bs.length = [] → t.peek (hdmAddr off) bs.length = bs ∧
          ∀ z, (z < hdmAddr off ∨ hdmAddr off + bs.length ≤ z) → t.byteAt z = s.byteAt z) ∧
        ∀ k, k < bs.length → (hdmAddr off + k) / 64 ∈ t.host.modified)

/-- R401, R402, R404, R409, R410, R423, R354, R355: FLASHMAP adds a mapping once the storage stall runs (that wait, the need of an accepted image and
partition 0 for JOB 0 are the model's choice: log entry 45); STALLCTL starts or restarts a stall whose image was accepted; POWER takes a limit of 1000 to 4000 W; LINKCFG sets a peer's ports and aperture; DEBUG acts only where every die
that it acts on permits it, all of the partition for a freeze or thaw and the one it names for a scan read; RESET completes first and then clears the dies of its partition. -/
def Obligations.DeviceCommands : Prop :=
  ∀ (s : State) (h : HostHdr) (a b c d : Dword) (e : List Dword),
    let j := h.job.toNat
    (s.Begun h 10 [a, b, c, d] e → s.hasJob h = true →
      let bad := a.toNat / 2 ^ 33 ≠ 0 ∨ c.toNat % 4096 ≠ 0 ∨ d.toNat % 4096 ≠ 0 ∨ 2 ^ 56 < d.toNat + c.toNat
      (bad → s.completes s (.flashmap h a b c d) h e (some .illegal) 0) ∧
      (¬bad → (s.stall (s.job j).part.1 2).running = false → exec (.flashmap h a b c d) s = .next s) ∧
      (¬bad → (s.stall (s.job j).part.1 2).running = true → ∃ u, s.completes u (.flashmap h a b c d) h e none 0 ∧
        (u.job j).flash = (s.job j).flash ++ [⟨d.toNat, c.toNat, a.getLsbD 0, bitsOf a.toNat 1 32, b.toNat⟩] ∧
        (∀ k, k ≠ j → u.job k = s.job k) ∧ u.mem = s.mem)) ∧
    (s.Begun h 11 [a, b] e →
      ((4 < a.toNat ∨ 1 < b.toNat) → s.completes s (.stallctl h a b) h e (some .illegal) 0) ∧
      (a.toNat ≤ 4 → b.toNat ≤ 1 →
        (s.cmdPart h = none → s.completes s (.stallctl h a b) h e (some .perm) 0) ∧
        (∀ p, s.cmdPart h = some p →
          (s.imageOk p a.toNat = false → s.completes s (.stallctl h a b) h e (some .perm) 0) ∧
          (s.imageOk p a.toNat = true → b = 0 → s.completes (s.startStall p a.toNat) (.stallctl h a b) h e none 0 ∧
            ((s.stall p a.toNat).calls = [] → (s.stall p a.toNat).answers = [] → ((s.startStall p a.toNat).stall p a.toNat).running = true)) ∧
          (s.imageOk p a.toNat = true → b = 1 →
            s.completes ((s.restartStall p a.toNat).startStall p a.toNat) (.stallctl h a b) h e none 0)))) ∧
    (s.Begun h 12 [a] e →
      (1000 ≤ a.toNat → a.toNat ≤ 4000 → s.completes { s with limit := a.toNat } (.power h a) h e none a) ∧
      ((a.toNat < 1000 ∨ 4000 < a.toNat) → s.completes s (.power h a) h e (some .illegal) 0)) ∧
    (s.Begun h 13 [a, b, c, d] e →
      (a.toNat ≤ 15 → b.toNat ≤ 4095 →
        s.completes { s with peers := vset s.peers (Fin.ofNat 16 a.toNat) ⟨b.setWidth 12, c.toNat, d.toNat⟩ } (.linkcfg h a b c d) h e none 0) ∧
      ((15 < a.toNat ∨ 4095 < b.toNat) → s.completes s (.linkcfg h a b c d) h e (some .illegal) 0)) ∧
    (s.Begun h 14 [a, b, c] e →
      (s.cmdPart h = none → s.completes s (.debug h a b c) h e (some .perm) 0) ∧
      (∀ p, s.cmdPart h = some p →
        let n := b.toNat / 2 ^ 14 % 4
        (a ≠ 2 → (∃ k, k < 4 ∧ (s.die k).part.1 = p ∧ (s.die k).dbg = false) → s.completes s (.debug h a b c) h e (some .perm) 0) ∧
        (a = 2 → (s.die n).part.1 = p → (s.die n).dbg = false → s.completes s (.debug h a b c) h e (some .perm) 0) ∧
        (∀ k, k < 4 → (s.die k).part.1 = p → (∀ m, m < k → (s.die m).part.1 ≠ p) →
          ((∀ m, m < 4 → (s.die m).part.1 = p → (s.die m).dbg = true) →
            (a = 0 → ∃ core, s.completes (s.askFreeze k core) (.debug h a b c) h e none 0) ∧
            (a = 1 → s.completes (s.thaw k) (.debug h a b c) h e none 0) ∧
            (2 < a.toNat → s.completes s (.debug h a b c) h e (some .illegal) 0)) ∧
          (a = 2 → (s.die n).part.1 = p → (s.die n).dbg = true →
            (b.toNat / 2 ^ 16 ≠ 0 → s.completes s (.debug h a b c) h e (some .illegal) 0) ∧
            (b.toNat / 2 ^ 16 = 0 → (s.die k).frozen = false → s.completes s (.debug h a b c) h e (some .notfrozen) 0) ∧
            (b.toNat / 2 ^ 16 = 0 → (s.die k).frozen = true → ∃ x : Dword, s.completes s (.debug h a b c) h e none x ∧
              ∀ j, j < 64 → x.getLsbD j = (decide (c.toNat + j < Config.scanLength n (b.toNat / 2 ^ 8 % 64) (b.toNat % 256)) &&
                Config.scanBit (s.die k).scan n (b.toNat / 2 ^ 8 % 64) (b.toNat % 256) (c.toNat + j)))) ∧
          (a = 2 → (s.die n).part.1 ≠ p → b.toNat / 2 ^ 16 = 0 → s.completes s (.debug h a b c) h e (some .buserr) 0)))) ∧
    (s.Begun h 15 [a] e →
      (3 < a.toNat → s.completes s (.reset h a) h e (some .illegal) 0) ∧
      (a.toNat ≤ 3 → ∃ t, exec (.reset h a) s = .next t ∧ t.mem = (s.complete h e none 0).mem ∧ t.host = (s.complete h e none 0).host ∧
        (∀ k, k < 4 → (s.die k).part.1 = a.toNat → t.die k = (s.die k).restarted) ∧
        (∀ k, k < 4 → (s.die k).part.1 ≠ a.toNat → t.die k = s.die k)))

/-- R403 to R405, R83: a flit whose CRC (its form: log entry 47) fails asks for a replay of what was expected and changes nothing else; one out of
sequence is dropped; one in sequence moves the sequence on, ends the replay, brings the port up, and takes effect where DST names this module; a module
that exposes its DOE mailbox alone takes none. A flit that the module sends carries the fields of Table 22-4 and that CRC, and a port keeps its last 128
for replay. A port that fails goes down with its gathered part and its kept flits, and messages that were crossing it will not be whole; once a port to the
peer is up, recovery takes the lost items off the queue and its producer's count and sends on; only of items for another module may some (a free number, log
entry 78) have been accepted. The time at which a flit came is noted for the silence of log entry 6.

R403, R404, R406, R75, R241: what a flit of each TYPE that is taken in does (`on`; `up` is the state that its reception leaves). A request refused (outside
its aperture PERM, unpopulated BUSERR, the firewall PERM) is answered with its cause; a read is answered with 64 bytes and a write performed, part by part
where the range is not all memory; a response is kept; credits come back to the oldest items of the queue TAG names; a part of a unit is gathered until
LAST; a whole message stands at its core; a block goes to the queue of its porter core; CONTROL without payload asks for flits to be sent again. The formats
of payloads and of ADDR, and that control flit, are the model's choice (log entry 46). -/
def Obligations.Links : Prop :=
  ((∀ (s : State) (p : Fin 12) (f : Flit) (q n : Nat),
    let l := s.link p
    let i : Instr := .linkFlitReceive p f
    let s0 : State := s.modLink p (fun l => { l with heard := s.micros })
    let up : State := (s0.modLink p (fun l => { l with rxSeq := l.rxSeq + 1, replays := 0, replayFrom := none })).setUp p true
    (s.exposed = false → exec i s = .next s) ∧
    (s.exposed = true →
      (f.good = false → exec i s =
        .next ((s0.modLink p (fun l => { l with replays := l.replays + 1, replayFrom := some l.rxSeq })).sendUnit p 7 l.rxSeq (s.peerOf p) false 0 [])) ∧
      (f.good = true → f.seq ≠ l.rxSeq → exec i s = .next s0) ∧
      (f.good = true → f.seq = l.rxSeq → f.dst ≠ s.peerIndex.1 → exec i s = .next up) ∧
      (∀ u, f.good = true → f.seq = l.rxSeq → f.dst = s.peerIndex.1 → s0.flitHeld p f = some u → exec i s = .next u) ∧
      (f.good = true → f.seq = l.rxSeq → f.dst = s.peerIndex.1 → s0.flitHeld p f = none → exec i s = .next (up.flit p f))) ∧
    (up.link p).up = true ∧ (up.link p).rxSeq = l.rxSeq + 1 ∧ up.mem = s.mem ∧ up.queues = s.queues ∧
    (f.good = true → f.bytes.length = 256 ∧ crc64 (f.bytes.take 248) = fieldAt f.bytes 248 8) ∧
    ((l.up = false ∨ s.linkFails p = false) → exec (.linkdown p) s = .next s) ∧
    (l.up = true → s.linkFails p = true → ∃ t, exec (.linkdown p) s = .next t ∧ (t.link p).up = false ∧ (t.link p).partUnit = [] ∧
      (t.link p).kept = [] ∧ (t.link p).rxSeq = l.rxSeq ∧ (∀ r, r ≠ p → t.link r = s.link r) ∧
      ∀ c, (t.core c).parts = (s.core c).parts.map (fun m => if m.port = p then { m with cut := true } else m)) ∧
    (s.queue? q = none → exec (.linkRecovery q n) s = .next s) ∧
    (∀ x pr, s.queue? q = some x → x.prods[n]? = some pr →
      (pr.failed = false ∨ (x.farEnd q pr).bind (fun e => s.linkFor e.1 e.2) = none → exec (.linkRecovery q n) s = .next s) ∧
      (∀ np, pr.failed = true → (x.farEnd q pr).bind (fun e => s.linkFor e.1 e.2) = some np → x.mapped.isSome = true →
        let sent := x.inflight.filter (fun i => i.port == n && !i.unsent)
        ∃ (u : State) (y : Queue) (kept : Nat), exec (.linkRecovery q n) s = .next (match pr.owner with
            | .tile t => u.report t { cause := .linkdown, src := 7, aux := (sent.drop kept).length, addr := BitVec.ofNat 64 x.base }
            | _ => u) ∧ (x.far = none → kept = 0) ∧ u.mem = s.mem ∧ u.queue? q = some y ∧ (∀ k, k ≠ q → u.queue? k = s.queue? k) ∧
          y.inflight = (keepSent n kept x.inflight).map (fun i => if i.port = n then { i with unsent := false } else i) ∧
          y.prods[n]? = some { pr with used := pr.used - ((sent.drop kept).map (fun i => x.slotsFor i.kind.1)).sum, link := some np, failed := false }))) ∧
  (∀ (ty src dst cred : Nat) (seq tag : BitVec 16) (last urg : Bool) (bs : List Byte),
    ty < 256 → src < 16 → dst < 16 → cred < 256 → bs.length ≤ 232 →
    let g := makeFlit ty seq src dst tag last urg cred bs
    g.good = true ∧ g.type = ty ∧ g.seq = seq ∧ g.src = src ∧ g.dst = dst ∧ g.tag = tag ∧ g.last = last ∧ g.urg = urg ∧ g.cred = cred ∧
      g.addr = 0 ∧ g.len = bs.length ∧ g.payload = bs) ∧
  (∀ (l : LinkPort) (g : Flit), (l.send g).txSeq = l.txSeq + 1 ∧ (l.send g).sent = l.sent ++ [g] ∧ (l.send g).kept.getLast? = some g ∧
    (l.kept.length ≤ 128 → (l.send g).kept.length ≤ 128)) ∧
  (∀ (s : State) (x : Queue) (k l : Fin 12) (m : Fin 16) (tag : BitVec 16) (pr : ProdPort) (n : Nat) (urg : Bool) (it : Item),
    x.far = some (m, tag) → x.prods[n]? = some pr → pr.link = some l → pr.failed = false → (s.link l).up = true → s.exposed = true →
    (it.type = 0x40 → it.kind = 0 → it.bytes.length = 256 → ∃ g h, ((s.sendItem x n urg it).link l).sent = (s.link l).sent ++ [g, h] ∧
      g.type = 6 ∧ h.type = 6 ∧ g.last = false ∧ h.last = true ∧ g.payload ++ h.payload = it.bytes) ∧
    (it.type ≠ 0x40 → it.bytes.length ≤ 224 → ∃ g, ((s.sendItem x n urg it).link l).sent = (s.link l).sent ++ [g] ∧ g.type = 3 ∧ g.tag = tag ∧
      g.dst = m.1 ∧ g.urg = urg ∧ g.last = true ∧ g.payload.take it.bytes.length = it.bytes) ∧
    (k ≠ l → (s.sendItem x n urg it).link k = s.link k))) ∧
  (∀ (s : State) (p : Fin 12) (f : Flit),
    let pa := peerAddr f.addr
    let bs := (s.link p).partUnit ++ f.payload
    let s0 : State := s.modLink p (fun l => { l with heard := s.micros })
    let up : State := (s0.modLink p (fun l => { l with rxSeq := l.rxSeq + 1, replays := 0, replayFrom := none })).setUp p true
    let comes := s.exposed = true ∧ f.good = true ∧ f.seq = (s.link p).rxSeq ∧ f.dst = s.peerIndex.1
    let on (i : Fin 12 → Flit → Instr) (ty : Nat) (u : State) := f.type = ty → comes → s0.flitHeld p f = none → exec (i p f) s = .next u
    let n := if f.len = 0 then 64 else f.len
    (∀ i ty, (i, ty) ∈ [(Instr.memoryRequest p f, 1), (.memoryResponse p f, 2), (.queueItem p f, 3), (.acknowledgement p f, 4), (.activeMessage p f, 5),
        (.reductionBlock p f, 6), (.control p f, 7)] →
      (f.type ≠ ty → exec i s = .next s) ∧ (f.type = ty → exec i s = exec (.linkFlitReceive p f) s)) ∧
    ((f.type = 0 ∨ 7 < f.type) → comes → exec (.linkFlitReceive p f) s = .next up) ∧
    (up.inAperture f.src f.addr n = false → up.peerBarred f.src f.addr n = some .perm) ∧
    (∀ c, up.peerBarred f.src f.addr n = some c → on .memoryRequest 1 (up.sendFlit p 2 f [code8 c])) ∧
    (up.peerBarred f.src f.addr n = none →
      (f.len = 0 → plainRange pa 64 = true →
        on .memoryRequest 1 (if up.poisoned pa 64 = true then up.sendFlit p 2 f [code8 .eccerr] else up.sendFlit p 2 f (0 :: up.peek pa 64))) ∧
      (f.len = 0 → plainRange pa 64 = false →
        (∀ x, up.copyRead true pa 64 = .ok x → on .memoryRequest 1 (up.sendFlit p 2 f (0 :: x)).tick) ∧
        (∀ c, up.copyRead true pa 64 = .error c → on .memoryRequest 1 (up.sendFlit p 2 f [code8 c]))) ∧
      (f.len ≠ 0 → plainRange pa f.len = true →
        on .memoryRequest 1 ((up.writePlain pa f.payload).sendFlit p 2 f [0]) ∧
        (∀ u, s0.snoop pa f.len = some u → f.type = 1 → comes → s0.peerBarred f.src f.addr f.len = none → exec (.memoryRequest p f) s = .next u)) ∧
      (f.len ≠ 0 → plainRange pa f.len = false →
        (∀ c, up.copyCheck pa f.len = some c → on .memoryRequest 1 (up.sendFlit p 2 f [code8 c])) ∧
        (up.copyCheck pa f.len = none → on .memoryRequest 1 ((up.copyWrite true pa f.payload).sendFlit p 2 f [0])) ∧
        (f.type = 1 → comes → s0.peerBarred f.src f.addr f.len = none → s0.copyCheck pa f.len = none → s0.copyHeld pa f.len = true →
          exec (.memoryRequest p f) s = .next s0))) ∧
    on .memoryResponse 2 (up.modLink p (fun l => { l with responses := l.responses ++ [(f.tag, f.payload)] })) ∧
    (f.last = false → on .queueItem 3 (up.modLink p (fun l => { l with partUnit := bs })) ∧
      on .reductionBlock 6 (up.modLink p (fun l => { l with partUnit := bs }))) ∧
    (f.last = true → f.type = 3 → comes → ∃ t, exec (.queueItem p f) s = .next t ∧ (t.link p).partUnit = [] ∧
      (∀ x i pr, s.queue? f.tag.toNat = some x → x.far = none → x.mapped.isSome = true → x.prodOf (.peer f.src) = some i → x.prods[i]? = some pr →
        let it := s.unitItem x bs
        t.mem = s.mem ∧ ∃ y, t.queue? f.tag.toNat = some y ∧ y.prods[i]? = some { pr with used := pr.used + x.slotsFor it.kind, link := some p } ∧
        y.inflight = x.inflight ++ [{ port := i, urgent := f.urg && x.urgSlots != 0, kind := Fin.ofNat 4 it.kind, type := it.type, mkid := it.mkid
                                      bytes := it.bytes }])) ∧
    on .acknowledgement 4 { up with queues := up.queues.map (fun e =>
      if e.2.far = some (Fin.ofNat 16 f.src, f.tag) then (e.1, e.2.credit p f.cred) else e) } ∧
    (f.type = 5 → comes → ∃ t, exec (.activeMessage p f) s = .next t ∧ t.mem = s.mem ∧
      (f.last = true → (s.core (f.addr % 4096)).parts = [] → 1 ≤ bitsOf f.addr 16 5 → bitsOf f.addr 16 5 ≤ 16 →
        4 * bitsOf f.addr 16 5 ≤ f.payload.length → f.payload.length ≤ 256 →
        (t.core (f.addr % 4096)).net = (s.core (f.addr % 4096)).net ++ [⟨bitsOf f.addr 24 12, bitsOf f.addr 16 5, f.payload⟩]) ∧
      (f.last = false → (s.core (f.addr % 4096)).parts = [] →
        (t.core (f.addr % 4096)).parts = [{ msg := ⟨bitsOf f.addr 24 12, bitsOf f.addr 16 5, f.payload⟩, port := p, beat := (s.core (f.addr % 4096)).clock }]) ∧
      (∀ c, c ≠ f.addr % 4096 → t.core c = s.core c)) ∧
    (f.last = true → (bs.length ≠ 256 ∨ up.reductionQueues p = []) → on .reductionBlock 6 (up.modLink p (fun l => { l with partUnit := [] }))) ∧
    (f.last = true → bs.length = 256 → s0.reductionQueues p ≠ [] →
      let id := (s0.reductionQueues p).getD (fieldAt bs 132 4 % (s0.reductionQueues p).length) 0
      (s0.roomDevice id false = true → on .reductionBlock 6
        (((up.modLink p (fun l => { l with partUnit := [] })).pushDevice id false ⟨0, 0x40, 0, bs⟩).sendUnit p 4 f.tag f.src false 1 [])) ∧
      (s0.roomDevice id false = false → f.type = 6 → comes → exec (.reductionBlock p f) s = .next (s0.want id))) ∧
    on .control 7 (if f.len = 0 then up.modLink p (fun l => l.replay f.tag) else up))

/-- R407 to R409: a stall takes the next item of its queue while it runs (`v` is the state once the answers that are due have left as far as their queues have
room); a call whose token it recorded is answered from the record, any other stands until it commits. A commit writes the reply of the oldest call into the
completion record once (never for TOKEN 0; where it stands: log entry 42) and makes it due to that call and to the waiting calls of the same client and
token. A restart, be it between a commit and its reply, answers every call taken and not replied to with RESTART, keeps the record, and runs on when none is
left. -/
def Obligations.StallCalls : Prop :=
  ∀ (s : State) (p : Fin 4) (k : Fin 5) (err : BitVec 8) (a b : Dword),
    let s0 := s.stall p.1 k.1
    let v := s.answerCalls p.1 k.1
    let st := v.stall p.1 k.1
    (s0.running = false ∨ s0.answers = [] → v = s) ∧
    (∀ cl tok call r, s0.running = true → s0.answers = [(cl, tok, call, r)] →
      (∀ w, s.sendReply call r = some w → v.mem = w.mem ∧ v.queues = w.queues ∧ st = { s0 with answers := [] }) ∧
      (s.sendReply call r = none → v.mem = s.mem ∧ st = s0)) ∧
    (st.running = false ∨ v.stallHead p.1 k.1 = none → exec (.stallCall p k) s = .next v) ∧
    (∀ c u i ty bs cl, st.running = true → v.stallHead p.1 k.1 = some (c, u, i, ty, bs, cl) →
      let call := dwordsOf 8 bs
      let y := v.take (stallQueue p.1 k.1) c u i
      (ty ≠ 0x60 → exec (.stallCall p k) s = .next y) ∧
      (ty = 0x60 →
        (st.recorded cl (call.getD 0 0) = none → exec (.stallCall p k) s =
          .next (y.modStall p.1 k.1 (fun t => { t with calls := t.calls ++ [(cl, call.getD 0 0, call)] }))) ∧
        (∀ r, st.recorded cl (call.getD 0 0) = some r →
          (∀ w, y.sendReply call r = some w → exec (.stallCall p k) s = .next w) ∧
          (y.sendReply call r = none → exec (.stallCall p k) s = .next (v.want (replyQueue call)))))) ∧
    (st.running = false ∨ st.calls = [] → exec (.stallCommit p k err a b) s = .next v) ∧
    (∀ cl tok call rest, st.running = true → st.calls = (cl, tok, call) :: rest →
      let r : List Dword := [tok, err.setWidth 64, a, b]
      let alike := fun (x : Owner × Dword × List Dword) => x.1 == cl && x.2.1 == tok && tok != 0
      ∃ t, exec (.stallCommit p k err a b) s = .next t ∧ t.queues = v.queues ∧ (t.stall p.1 k.1).running = true ∧
        (t.stall p.1 k.1).calls = rest.filter (fun x => !alike x) ∧
        (t.stall p.1 k.1).answers = st.answers ++ [(cl, tok, call, r)] ++ (rest.filter alike).map (fun x => (x.1, x.2.1, x.2.2, r)) ∧
        (tok ≠ 0 → (cl, tok, r) ∈ (t.stall p.1 k.1).record ∧ t.peek (v.recordAt p.1 k.1 cl) 64 = padTo 64 (replyBytes r) ∧
          ∀ z, (z < v.recordAt p.1 k.1 cl ∨ v.recordAt p.1 k.1 cl + 64 ≤ z) → t.byteAt z = v.byteAt z) ∧
        (tok = 0 → (t.stall p.1 k.1).record = st.record ∧ t.mem = v.mem)) ∧
    (s0.running = false → s0.calls = [] → s0.answers = [] → exec (.stallRestart p k) s = .next s) ∧
    (s0.running = true ∨ s0.calls ≠ [] ∨ s0.answers ≠ [] → ∃ t, exec (.stallRestart p k) s = .next t ∧
      let again := fun (tok : Dword) => ([tok, BitVec.ofNat 64 (causeCode .restart), 0, 0] : List Dword)
      (t.stall p.1 k.1).calls = [] ∧ ((t.stall p.1 k.1).running = true ↔ (t.stall p.1 k.1).answers = []) ∧ (t.stall p.1 k.1).record = s0.record ∧
      (∀ x, x ∈ (t.stall p.1 k.1).answers → x.2.2.2 = again x.2.1) ∧
      (s0.calls = [] → s0.answers = [] → (t.stall p.1 k.1).answers = []) ∧
      (∀ cl tok call, (s0.calls = [(cl, tok, call)] ∧ s0.answers = []) ∨ (s0.calls = [] ∧ ∃ r, s0.answers = [(cl, tok, call, r)]) → k.1 ≠ 2 →
        (∀ w, s.sendReply call (again tok) = some w → t.mem = w.mem ∧ t.queues = w.queues ∧ (t.stall p.1 k.1).answers = []) ∧
        (s.sendReply call (again tok) = none → (t.stall p.1 k.1).answers = [(cl, tok, call, again tok)])))

/-- R410 to R413, R342 to R345, R424: a die's reset clears its cores, takes over PARTID and brings the supply back (what else it keeps: log entry 41), all
dies losing their state where the supply was gone; its first MREG is extended by the boot ROM, which locks the firewall; a die whose Irfin stage is missing
or refused does not start and the module then exposes no more than its mailbox; without an accepted configuration table the fallback map is in force. A
program is loaded to an arbor quad only where its die runs and its stage verifies, at firmware privilege, and a stall's image to a free quad outside the
arbor at stall privilege, measured into MREG4 (log entry 43); anything else is logged. Signatures and keys have the sizes of R413. -/
def Obligations.BootStages : Prop :=
  ∀ (s : State) (d : Fin 4) (cfg : List Stage) (g : Stage) (q : Fin 1024) (o : TileObject),
    (∃ t, exec (.dieReset d cfg) s = .next t ∧ t.powered = true ∧ (∀ c, c / 1024 = d.1 → t.core c = {}) ∧
      (t.die d).part = Fin.ofNat 4 (s.die d).idReg.toNat ∧ (t.die d).frozen = false ∧
      (t.die d).fwLock = true ∧ (s.powered = true → ∀ e, e < 4 → e ≠ d.1 → t.die e = s.die e) ∧
      (s.powered = false → (∀ c, c < 4096 → t.core c = {}) ∧ ∀ e, e < 4 → e ≠ d.1 → (t.die e).started = false ∧ (t.die e).frozen = false) ∧
      (cfg.find? (·.kind == 1) = none → (t.die d).fallback = true ∧ (t.die d).col = 0 ∧ (t.die d).widthM1 = 0 ∧ (t.die d).dbg = false ∧ (t.die d).cfgReg = 16) ∧
      (cfg.find? (·.kind == 2) = none → (t.die d).started = false ∧ (t.die d).stalls = 0 ∧ t.exposed = false ∧
        (t.die d).sec.svnMin = (s.die d).sec.svnMin) ∧
      (cfg = [] → (t.die d).sec.mregs.get 0 = sha384 (List.replicate 48 0 ++ Config.romDigest d.1) ∧
        (t.die d).sec.keys = (s.die d).sec.keys ∧ (t.die d).sec.hssIndex = (s.die d).sec.hssIndex)) ∧
    (∀ x : Sec, x.stageOk g.kind g = true →
      fieldAt g.manifest 0 4 = 0x4D465947 ∧ fieldAt g.manifest 4 2 = g.kind ∧ fieldAt g.manifest 8 8 = g.body.length ∧
      (g.manifest.drop 16).take 48 = sha384 g.body ∧ mapGet 0 x.svnMin g.kind ≤ fieldAt g.manifest 6 2 ∧
      x.revoked (fieldAt g.manifest 64 4) = false ∧ x.signatures (fieldAt g.manifest 64 4) g.manifest = (true, true)) ∧
    ((s.die d).started = false → exec (.firmwareProgramLoad d g q o) s = .next s) ∧
    ((s.die d).started = true →
      (g.kind ≠ 6 → g.kind ≠ 4 → exec (.firmwareProgramLoad d g q o) s = .next (s.logEvent 4 d.1 0 0 0)) ∧
      ((s.die d).sec.stageOk g.kind g = false → exec (.firmwareProgramLoad d g q o) s = .next (s.logEvent 4 d.1 0 0 0)) ∧
      (q.1 / 256 ≠ d.1 → exec (.firmwareProgramLoad d g q o) s = .next (s.logEvent 4 d.1 0 0 0)) ∧
      (∀ u, g.kind = 6 → (s.die d).sec.stageOk 6 g = true → q.1 / 256 = d.1 → objectOk o = true → s.isRoleQuad q = true →
        s.loadProgram (((s.queue? o.exq).map (·.job)).getD 0) q 2 o = .ok u →
        ∃ t, exec (.firmwareProgramLoad d g q o) s = .next t ∧ t.quads = u.quads ∧ t.cores = u.cores ∧ (t.die d).sec = (u.die d).sec.fuse g ∧
          (∃ y, (t.quad q).tile = some y ∧ y.priv = 2 ∧ y.actors.map (·.decl) = o.actors)) ∧
      (∀ u, g.kind = 4 → (s.die d).sec.stageOk 4 g = true → q.1 / 256 = d.1 → objectOk o = true → s.isArbor q = false → (s.quad q).tile = none →
        s.loadProgram (((s.queue? o.exq).map (·.job)).getD 0) q 1 o = .ok u →
        ∃ t, exec (.firmwareProgramLoad d g q o) s = .next t ∧ t.quads = u.quads ∧ t.cores = u.cores ∧ t.mem = u.mem ∧
          (t.die d).sec.mregs.get 4 = sha384 ((u.die d).sec.mregs.get 4 ++ sha384 g.body) ∧
          (∃ y, (t.quad q).tile = some y ∧ y.priv = 1 ∧ y.actors.map (·.decl) = o.actors)) ∧
      (∀ c, (g.kind = 6 ∨ g.kind = 4) → s.loadProgram (((s.queue? o.exq).map (·.job)).getD 0) q (if g.kind = 6 then 2 else 1) o = .error c →
        exec (.firmwareProgramLoad d g q o) s = .next (s.logEvent 4 d.1 0 0 0))) ∧
    (∀ (n : Nat) (m sig key : List Byte), (hssSign d.1 n m).length = 3292 ∧ (hssPublicKey d.1).length = 4 + 48 ∧ hssIndices = 2 ^ 30 ∧
      (hssVerifies key m sig = true → sig.length = 3292 ∧ key.length = 52 ∧ beNat (key.take 4) = 2 ∧ beNat ((key.drop 4).take 4) = 0xC ∧
        beNat ((key.drop 8).take 4) = 7 ∧ beNat ((sig.drop 1624).take 4) = 0xC ∧ beNat ((sig.drop 1628).take 4) = 7))

/-- R414 to R416: the security controller's commands, while one of their OP is in progress: VERIFY gives its RES by the two signatures and the
slot; EXTEND extends an MREG and the log, not MREG0 to MREG3 after the hand-over; SIGN consumes an HSS index and leaves both signatures in
SCBUF, or fails with 5 and an event; READMREG and LMSSTAT give what they name. Completion, once the result is known, shows RES, counts SEQ
and ends BUSY.

R417, R418: attestation. Version (which starts the connection anew), capabilities and algorithms are answered always; digests, certificate, challenge
and measurements only after algorithms were agreed. A signed response consumes an HSS index of its die, carries the HSS signature and public key in an
OpaqueData element and the ECDSA signature of the same transcript digest, and waits while its controller is busy; without an index left it is an error and
an event. The layouts of the messages and how far the transcript runs are the model's (log entry 44). -/
def Obligations.SecurityAndAttestation : Prop :=
  (∀ (s : State) (d : Fin 4) (w : Writer) (off : Fin 4096) (v : Dword),
    let x := (s.die d).sec
    let to_ (i : Instr) (f : Sec → Sec) := exec i s = .next (s.modDie d (fun y => { y with sec := f y.sec }))
    let idle (op : Nat) (i : Instr) := x.doing op = false → exec i s = .next s
    idle 1 (.verify d) ∧ idle 2 (.extend d) ∧ idle 3 (.sign d) ∧ idle 4 (.readmreg d) ∧ idle 5 (.lmsstat d) ∧
    (x.doing 1 = true →
      (3 < x.arg → to_ (.verify d) (fun y => y.result 6 0)) ∧
      (x.arg ≤ 3 → x.revoked x.arg = true → to_ (.verify d) (fun y => y.result 4 0)) ∧
      (∀ a b, x.arg ≤ 3 → x.revoked x.arg = false → x.signatures x.arg (x.bufBytes 3460) = (a, b) →
        to_ (.verify d) (fun y => y.result ((if a then 0 else 1) + (if b then 0 else 2)) 0))) ∧
    (x.doing 2 = true →
      ((7 < x.arg ∨ (x.handedOver = true ∧ x.arg ≤ 3)) → to_ (.extend d) (fun y => y.result 6 0)) ∧
      (x.arg ≤ 7 → (x.handedOver = false ∨ 4 ≤ x.arg) → ∃ t, exec (.extend d) s = .next t ∧
        (t.die d).sec.mregs.get (Fin.ofNat 8 x.arg) = sha384 (x.mregs.get (Fin.ofNat 8 x.arg) ++ x.bufBytes 48) ∧
        (∀ i, i ≠ Fin.ofNat 8 x.arg → (t.die d).sec.mregs.get i = x.mregs.get i) ∧
        (t.die d).sec.log = x.log ++ [(x.bufBytes 48, x.arg, x.seq)] ∧ (t.die d).sec.pendRes = some 0)) ∧
    (x.doing 3 = true →
      (2 ^ 30 ≤ x.hssIndex → exec (.sign d) s =
        .next ((s.modDie d (fun y => { y with sec := y.sec.result 5 0 })).logEvent 7 d.1 0 0 0)) ∧
      (x.hssIndex < 2 ^ 30 → ∃ t, exec (.sign d) s = .next t ∧ (t.die d).sec.hssIndex = x.hssIndex + 1 ∧ (t.die d).sec.pendRes = some 0 ∧
        (t.die d).sec.bufBytes 3388 =
          padTo 96 (Config.ecdsaSign d.1 (x.bufBytes 48)) ++ hssSign d.1 x.hssIndex (x.bufBytes 48) ∧ t.mem = s.mem)) ∧
    (x.doing 4 = true →
      (7 < x.arg → to_ (.readmreg d) (fun y => y.result 6 0)) ∧
      (x.arg ≤ 7 → ∃ t, exec (.readmreg d) s = .next t ∧ (t.die d).sec.bufBytes 48 = padTo 48 (x.mregs.get (Fin.ofNat 8 x.arg)) ∧
        (t.die d).sec.pendRes = some 0)) ∧
    (x.doing 5 = true → to_ (.lmsstat d) (fun y => y.result 0 (BitVec.ofNat 64 x.hssIndex))) ∧
    (x.busy = false → exec (.scCommandComplete d) s = .next (s.modDie d (fun y => y))) ∧
    (x.busy = true → x.pendRes = none → exec (.scCommandComplete d) s = .next (s.modDie d (fun y => y))) ∧
    (∀ r, x.busy = true → x.pendRes = some r → to_ (.scCommandComplete d) (fun y =>
      { y with res := r, seq := x.seq + 1, busy := false, pendRes := none, scres := if x.op = 5 then x.scres else 0 })) ∧
    exec (.scbufWrite w d off v) s = .next (s.agentWrite w (scAddr d.1 (0x1000 + off.1)) v)) ∧
  (∀ (s : State) (d : Fin 4) (a b : BitVec 32) (sl : BitVec 8) (off len : BitVec 16) (g : Bool) (n : List Byte),
    let ok := s.host.spdmAlgs
    let x := (s.die d).sec
    let replies (i : Instr) (m : List Byte) := ∃ t, exec i s = .next t ∧ t.host.spdm = s.host.spdm ++ [m] ∧ t.mem = s.mem ∧ t.cores = s.cores ∧ t.dies = s.dies
    let fresh := Config.spdmFresh s.freeCtr
    let signs (i : Instr) (before m : List Byte) := ∃ t, exec i s = .next t ∧ (t.die d).sec.hssIndex = x.hssIndex + 1 ∧ t.mem = s.mem ∧
      let dg := sha384 (s.host.vca ++ before ++ m ++ padTo 32 fresh)
      let o := opaqueElement (hssSign d.1 x.hssIndex dg ++ hssPublicKey d.1)
      t.host.spdm = s.host.spdm ++ [m ++ padTo 32 fresh ++ leBytes 2 o.length ++ o ++ padTo 8 (fresh.drop 32) ++ padTo 96 (Config.ecdsaSign d.1 dg)]
    let e := fun (k : Nat) => spdmMsg 0x13 0x7F k 0 []
    let meas := fun (total : Nat) (l : List (List Byte)) => spdmMsg 0x13 0x60 total 0 (leBytes 1 l.length ++ leBytes 3 l.flatten.length ++ l.flatten)
    let plain := padTo 32 fresh ++ leBytes 2 0 ++ padTo 8 (fresh.drop 32)
    let dig := sha384 Config.certificate
    let both := a.getLsbD 7 && b.getLsbD 1
    replies .getVersion versionMsg ∧ versionMsg = [0x10, 0x04, 0, 0, 0, 1, 0, 0x13] ∧ (∃ t, exec .getVersion s = .next t ∧ t.host.spdmAlgs = false) ∧
    replies .getCapabilities capabilitiesMsg ∧ (capabilitiesMsg.drop 8).take 4 = leBytes 4 (2 + 4 + 16) ∧
    (replies (.negotiateAlgorithms a b) (algorithmsMsg both) ∧ (∃ t, exec (.negotiateAlgorithms a b) s = .next t ∧ t.host.spdmAlgs = both) ∧
      (algorithmsMsg true).drop 8 = leBytes 4 4 ++ leBytes 4 0x80 ++ leBytes 4 2 ++ List.replicate 16 0) ∧
    (ok = false → replies .getDigests (e 4) ∧ replies (.getCertificate sl off len) (e 4) ∧ replies (.challenge d n) (e 4) ∧ replies (.getMeasurements d g sl n) (e 4)) ∧
    (ok = true →
      replies .getDigests (spdmMsg 0x13 0x01 1 1 dig) ∧
      (sl = 0 → off.toNat < Config.certificate.length →
        let part := (Config.certificate.drop off.toNat).take len.toNat
        replies (.getCertificate sl off len) (spdmMsg 0x13 0x02 0 0
          (leBytes 2 part.length ++ leBytes 2 (Config.certificate.length - off.toNat - part.length) ++ part))) ∧
      ((sl ≠ 0 ∨ Config.certificate.length ≤ off.toNat) → replies (.getCertificate sl off len) (e 1)) ∧
      (x.busy = true → exec (.challenge d n) s = .next s ∧ exec (.getMeasurements d true sl n) s = .next s) ∧
      (x.busy = false → x.hssIndex < 2 ^ 30 →
        signs (.challenge d n) (s.host.spdmB ++ Config.spdmRequest 0x83 n) (spdmMsg 0x13 0x03 0 1 dig) ∧
        (∀ bs, sl ≠ 0 → sl ≠ 255 → s.measurement sl.toNat = some bs → signs (.getMeasurements d true sl n)
          (s.host.spdmL ++ Config.spdmRequest 0xE0 (sl :: n)) (meas 0 [measurementBlock sl.toNat bs]))) ∧
      (x.busy = false → 2 ^ 30 ≤ x.hssIndex → ∃ t, exec (.challenge d n) s = .next t ∧ t.host.spdm = s.host.spdm ++ [e 5] ∧ t.dies = s.dies ∧
        t.events = ((s.spdmError 5).logEvent 7 d.1 0 0 0).events) ∧
      replies (.getMeasurements d false 0 n) (meas 33 [] ++ plain) ∧
      (∀ bs, sl ≠ 0 → sl ≠ 255 → s.measurement sl.toNat = some bs → replies (.getMeasurements d false sl n) (meas 0 [measurementBlock sl.toNat bs] ++ plain)) ∧
      (sl ≠ 0 → sl ≠ 255 → s.measurement sl.toNat = none → replies (.getMeasurements d false sl n) (e 1))))

/-- R419 to R424, R394, R396: ageing, power and cooling as steps of the firmware. A sweep is noted, with what it found, only for an island in an idle window
of 2 ms; a re-plan of an island that is planned for (by its last sweep, or without one for 60 minutes: log entry 96) raises the supply by 5 mV up to 680 mV, then
lowers the margin bin down to 1.80 GHz, then retires the island; a sample, 100 microseconds after the last (log entry 6), above the limit lowers bins from
the given island's on until the draw is down (by how much a step lowers it, and that no bin goes below 1.80 GHz: log entry 97; an island runs at the lesser
of its two bins: log entry 12), and a raise comes at least a millisecond after the last, up to the margin bin; 105 degrees lower every bin of the die and 115 degrees take
the supply and the links away. A host cache's answer merges what it modified and ends the tracking.

R374, R375, R274: a corrected soft error counts, an uncorrected one poisons its bytes of plain memory, an element store or a FIFO; a machine
check freezes the partition 16 cycles later, and role 4 of each of its dies is sent an MCHECK record. -/
def Obligations.HealthAndErrors : Prop :=
  (∀ (s : State) (d : Fin 4) (p : Fin 256) (k : Fin 64) (w l : Nat) (ok : Bool) (bs : List Byte) (wd rt : Nat),
    let i := s.island p.1
    let v := (s.die d).supply
    let n := modulePos d.1 (k.1 % 8) (k.1 / 8)
    let j := s.island n
    ((s.islandIdle p.1 = false ∨ s.micros < i.busyAt + 2000) → exec (.pathSweep p ok) s = .next s) ∧
    (s.islandIdle p.1 = true → i.busyAt + 2000 ≤ s.micros →
      exec (.pathSweep p ok) s = .next (s.modIsland p.1 (fun i => { i with sweptAt := s.micros, sweepOk := some ok }))) ∧
    (j.sweepOk = some true → s.micros < j.sweptAt + 3600000000 → exec (.replan d k) s = .next s) ∧
    ((j.sweepOk ≠ some true ∨ j.sweptAt + 3600000000 ≤ s.micros) →
      (v < 680 → exec (.replan d k) s = .next ((s.modDie d (fun y => { y with supply := min 680 (v + 5) })).logEvent 1 d.1 k.1 v (min 680 (v + 5)))) ∧
      (680 ≤ v → 36 < j.marginBin → exec (.replan d k) s =
        .next ((s.modIsland n (fun i => { i with marginBin := i.marginBin - 1 })).logEvent 2 d.1 k.1 j.marginBin (j.marginBin - 1))) ∧
      (680 ≤ v → j.marginBin ≤ 36 → j.retired = false → exec (.replan d k) s =
        .next ((s.modIsland n (fun i => { i with retired := true })).logEvent 3 d.1 k.1 0 1)) ∧
      (680 ≤ v → j.marginBin ≤ 36 → j.retired = true → exec (.replan d k) s = .next s)) ∧
    (∃ t, exec (.powerSample w p) s = .next t ∧ t.micros = s.micros + 100 ∧ t.mem = s.mem ∧ (w ≤ s.limit → t.islands = s.islands) ∧
      (∀ m, (t.island m).bin ≤ (s.island m).bin ∧ (36 ≤ (s.island m).bin → 36 ≤ (t.island m).bin) ∧ (t.island m).marginBin = (s.island m).marginBin) ∧
      (s.limit < w → 36 < i.bin → (t.island p.1).bin < i.bin ∧
        (w - s.limit ≤ Config.stepSaves p.1 i.bin → t.islands = (s.modIsland p.1 (fun y => { y with powerBin := i.bin - 1 })).islands))) ∧
    (∃ t, exec (.binRaise p) s = .next t ∧
      ((i.powerBin < i.marginBin ∧ i.raisedAt + 1000 ≤ s.micros) → (t.island p.1).powerBin = i.powerBin + 1 ∧ (t.island p.1).raisedAt = s.micros) ∧
      (¬(i.powerBin < i.marginBin ∧ i.raisedAt + 1000 ≤ s.micros) → t = s)) ∧
    (∃ t, exec (.thermalThrottle d) s = .next t ∧ t.mem = s.mem ∧
      (t.die d).peak = max (s.die d).peak 105 ∧
      (∀ m, m < 256 → (t.island m).bin = if dieOfIsland m = d.1 ∧ 36 < (s.island m).bin then (s.island m).bin - 1 else (s.island m).bin)) ∧
    (∃ t, exec (.thermalShutdown d) s = .next t ∧ t.powered = false ∧ t.host.width = 0 ∧ (∀ q, (t.link q).up = false) ∧ t.mem = s.mem ∧
      (t.die d).peak = max (s.die d).peak 115) ∧
    (l ∉ s.host.snooped → exec (.backInvalidateResponse l (some bs)) s = .next s) ∧
    (l ∈ s.host.snooped → ∃ t, exec (.backInvalidateResponse l (some bs)) s = .next t ∧ l ∉ t.host.tracked ∧ l ∉ t.host.snooped ∧
      l ∉ t.host.modified ∧ (l ∈ s.host.modified → bs.length = 64 → t.peek (64 * l) 64 = bs) ∧ (l ∉ s.host.modified → t.mem = s.mem)) ∧
    (wd ∈ [1, 2, 4, 8, 16] → 1 ≤ rt → rt ≤ 6 → ∃ t, exec (.hostPortTraining wd rt) s = .next t ∧ t.host.width = wd ∧ t.host.rate = rt ∧ t.mem = s.mem) ∧
    ((wd ∉ [1, 2, 4, 8, 16] ∨ rt = 0 ∨ 6 < rt) → exec (.hostPortTraining wd rt) s = .next s)) ∧
  (∀ (s : State) (d : Fin 4) (k : Fin 8) (a n e port : Nat) (p : Fin 256),
    (∃ t, exec (.softError (.corrected d k)) s = .next t ∧ t.mem = s.mem ∧
      mapGet 0 t.corrected (correctedKey d.1 k.1) = min (mapGet 0 s.corrected (correctedKey d.1 k.1) + 1) (2 ^ 64 - 1)) ∧
    (isPlain a = true → regionOf a ≤ 2 → n ≤ 64 → ∃ t, exec (.softError (.poison a n)) s = .next t ∧ t.mem = s.mem ∧
      (∀ z, z ∈ t.poison ↔ z ∈ s.poison ∨ (a ≤ z ∧ z < a + n))) ∧
    ((isPlain a = false ∨ 2 < regionOf a ∨ 64 < n) → exec (.softError (.poison a n)) s = .next s) ∧
    (∀ f x, s.fabOf e = some (f, x) → exec (.softError (.elementStore e)) s = .next (s.modFab f (fun t => { t with regraft := setAdd e t.regraft }))) ∧
    (s.fabOf e = none → exec (.softError (.elementStore e)) s = .next s) ∧
    exec (.softError (.fifo e port)) s =
      .next (s.modElement e (fun y => y.spoil (Fin.ofNat 4 port) (s.errorData e y.running .parity))) ∧
    (∃ (t : State) (core : Nat), exec (.machineCheck p) s = .next t ∧
      t = (((s.partDies (dieOfIsland p.1)).foldl (fun (st : State) e => (st.roleQuads e 4).foldl (fun (st : State) q =>
        st.report (.quad q) { cause := .mcheck, src := 7, place := BitVec.ofNat 64 p.1 }) st) (s.askFreeze (dieOfIsland p.1) core)).logEvent 6
          (dieOfIsland p.1) (8 * yOfIsland p.1 + xOfIsland p.1) 0 0) ∧
      ((s.die (dieOfIsland p.1)).frozen = false → ∀ m, m < 4 → m ∈ s.partDies (dieOfIsland p.1) → (s.die m).freezeAt = none →
        (t.die m).freezeAt = some (core, (s.core core).clock + 16))))

/-- R43, R97, R205, R346, Tables 6-6, 12-5, 13-3, 19-3, 21-6: what reset leaves where the spec gives it. No quad holds a tile, no context runs, no
queue, call or engine entry exists, memory lists nothing in its canonical form, every state register reads the reset value of Table 19-3, every matrix
unit is clear, QUIESCETO is 16777216 and no capability has a tag. (Every other register's reset value, the supply and the first turns are the
model's choice, log entries 1, 2, 10 and 12.) -/
def Obligations.ResetValues : Prop :=
  State.reset.mem = [] ∧ State.reset.mem.wf = true ∧ State.reset.tags = [] ∧ State.reset.full = [] ∧ State.reset.poison = [] ∧
  State.reset.queues = [] ∧ State.reset.engines = [] ∧ State.reset.fabrics = [] ∧ State.reset.jobs = [] ∧
  (∀ q, (State.reset.quad q).tile = none ∧ (State.reset.quad q).quiesceTo = 16777216 ∧ (State.reset.quad q).permits = false ∧
    (State.reset.quad q).ctlState = 0 ∧ ∀ i, (State.reset.quad q).trapTbl.get i = 0) ∧
  (∀ c x, (State.reset.ctx c x).run = .free ∧ (State.reset.ctx c x).wait = .none ∧ (State.reset.ctx c x).fpmode = 0 ∧
    (State.reset.ctx c x).fpflags = 0 ∧ (State.reset.ctx c x).stallchk = false ∧ (State.reset.ctx c x).landctl = 0 ∧
    (State.reset.ctx c x).trapCause = 0 ∧ (State.reset.ctx c x).stores = [] ∧ (State.reset.ctx c x).fixed = [] ∧ (State.reset.ctx c x).vars = [] ∧
    (∀ r, ((State.reset.ctx c x).rk r).tag = false) ∧ (State.reset.ctx c x).rg 0 = 0) ∧
  (∀ (c : Nat) (x : Fin 4),
    (∀ i, i ∈ [1, 2, 4, 5, 8, 0xA, 0x100, 0x101, 0x102, 0x120, 0x130, 0x131, 0x132, 0x202] → State.reset.stateReg c x i = some 0) ∧
    State.reset.stateReg c x 9 = some 16777216 ∧ ∀ i, 0x110 ≤ i → i ≤ 0x11F → State.reset.stateReg c x i = some 0) ∧
  (∀ c, (State.reset.core c).mu = {} ∧ (State.reset.core c).mu.acc = [] ∧ (State.reset.core c).mu.ovf = 0 ∧ (State.reset.core c).mu.queue = [] ∧
    (State.reset.core c).mu.nextSeq = 0 ∧ (State.reset.core c).mu.err = 0 ∧ (State.reset.core c).halted = false) ∧
  (∀ e cx, (State.reset.element e).fifos.get cx = [] ∧ ((State.reset.element e).ctxs.get cx).armed = false ∧
    ((State.reset.element e).ctxs.get cx).node0 = noNode ∧ ((State.reset.element e).ctxs.get cx).node1 = noNode)

/-- R16 to R18, R20, R25: the numbering of dies, islands, cores and stack groups, over every die, island and core. A die's island at (x, y) stands at
module column 8 (d mod 2) + x and row 8 (d div 2) + y, is a core island where x + y is even and a fabric island otherwise, 32 of each to a die,
carries the index 4 y + (x div 2) and belongs to stack group 2 d + (y div 4); the parity of X + Y is that of x + y. A core's index holds its die, island, quad and core. -/
def Obligations.Numbering : Prop :=
  (∀ d x y, d < 4 → x < 8 → y < 8 →
    let p := modulePos d x y
    p = (8 * (d % 2) + x) + 16 * (8 * (d / 2) + y) ∧ p < 256 ∧ dieOfIsland p = d ∧ xOfIsland p = x ∧ yOfIsland p = y ∧
    indexOfIsland p = 4 * y + x / 2 ∧ stackOfIsland p = 2 * d + y / 4 ∧ (isCoreIsland p = true ↔ (x + y) % 2 = 0) ∧
    (p % 16 + p / 16) % 2 = (x + y) % 2) ∧
  (∀ d, d < 4 → ((List.range 256).filter (fun p => dieOfIsland p == d && isCoreIsland p)).length = 32 ∧
    ((List.range 256).filter (fun p => dieOfIsland p == d && !isCoreIsland p)).length = 32) ∧
  (∀ c, c < 4096 → dieOfCore c = c / 1024 ∧ isCoreIsland (islandOfCore c) = true ∧ dieOfIsland (islandOfCore c) = c / 1024 ∧
    indexOfIsland (islandOfCore c) = c / 32 % 32 ∧ firstCoreOfIsland (islandOfCore c) = c / 32 * 32) ∧
  (∀ d f, d < 4 → f < 32 → isCoreIsland (islandOfFab d f) = false ∧ dieOfIsland (islandOfFab d f) = d ∧ indexOfIsland (islandOfFab d f) = f) ∧
  (∀ l a b, a < 4096 → b < 4096 → coresWithin l a b = true → coresWithin (l + 1) a b = true)

/-- R137 to R141, R149, Tables 6-1 to 6-6: words written out from their formats (stall, major, fields, MINOR) decode to the instructions that they
stand for, and reserved words are refused. -/
def Obligations.DecodeWords : Prop :=
  decodeCore 0b00100000100101001101111111111101 = .ok (.addi 1 5 6 0x1FFD) ∧
  decodeCore 0b00001100000111001001100000000101 = .ok (.ldD 0 7 2 5) ∧
  decodeCore 0b00001000000011000000111111111101 = .ok (.bne 0 3 0 0x7FD) ∧
  decodeCore 0b00001110100101001100011100111001 = .ok (.amoCas 0 5 6 7 3) ∧
  decodeCore 0b00010001100100001010011010010011 = .ok (.vfma 0 4 5 6 2 2) ∧
  decodeCore 0b00011010000101001100000000100001 = .ok (.qpop 0 5 3 0 33) ∧
  decodeCore 0b00011111100101000000001000010000 = .ok (.sget 0 5 2 0) ∧
  decodeCore 0b00011110011100001000000010000000 = .ok (.cp 0 28 2 4) ∧
  decodeCore 0b00011000000000010100100000000000 = .ok (.mtbl 0 5 2 0) ∧
  decodeElement 0b00000000100010000000000000000011 = .ok (.feAdd 1 0 4 0 3) ∧
  decodeCore 0xFFFFFFFF = .reject .allOnes ∧ decodeCore (2 ^ 23 * 0x0D + 2 ^ 31) = .reject (.reservedMajor 0x0D) ∧
  decodeElement (2 ^ 26 * 0x30) = .reject .cfgFormat

/-- R137, R138, R139, R140: a core's instruction is encoded in 32 bits, and decoding the word of a well-formed instruction gives it back with every
operand at every value.

R148, R149, Table 6-6: the same for element words.

R9, R141: what the decoder gives is well formed, for every number whatever. -/
def Obligations.RoundTrip : Prop :=
  (∀ (i : Instr) (w : Nat), i.wf = true → encodeElement i = none → encode i = some w → w < 2 ^ 32 ∧ decodeCore w = .ok i) ∧
  (∀ (i : Instr) (w : Nat), i.wf = true → encodeElement i = some w → encode i = some w ∧ w < 2 ^ 32 ∧ decodeElement w = .ok i) ∧
  (∀ (w : Nat) (i : Instr), decodeCore w = .ok i ∨ decodeElement w = .ok i → i.wf = true)

/-- R137, R141, R280: a step whose turn is a core's runs the word that its running context fetches: the decoded instruction, or the exception of
a fetch that fails, of too low a privilege or of a word that is no instruction. The cache may give an old word (R125), and the word is
kept for a skip (R373). A step whose turn is an element's runs the decoded word at the WPC of its running context, or its node pair, or sends the
status token that is due, one whose turn is a fabric tile's takes it to its next cycle, and a step whose turn is an event takes it. -/
def Obligations.StepRunsDecoded : Prop :=
  ∀ (s : State) (l : List Turn) (c : Fin 4096) (e : Fin 458752) (i : Instr),
    s.powered = true → s.gateDue = none →
    let u : State := { s with sched := l, cur := c }
    let v : State := { s with sched := l, curEl := e }
    (s.sched = .issue c :: l → u.issuable c = true →
      (∀ f w, (u.keepWord none).fetchAt c u.me u.my.pc.toNat = .word f w →
        let t := f.keepWord (some (BitVec.ofNat 32 w))
        (wordCause (t.privOf t.cur) w = none → decodeCore w = .ok i → step s = exec i t) ∧
        (∀ x, wordCause (t.privOf t.cur) w = some x → step s = .next (t.atIssue.raise x 0)) ∧
        ((∀ x, decodeCore w ≠ .ok x) → wordCause (t.privOf t.cur) w = some .illegal ∨ wordCause (t.privOf t.cur) w = some .priv)) ∧
      (∀ f, (u.keepWord none).fetchAt c u.me u.my.pc.toNat = .miss f →
        step s = .next (f.atIssue.hold .miss (u.my.since.getD u.issueCycle))) ∧
      (∀ f x, (u.keepWord none).fetchAt c u.me u.my.pc.toNat = .fault f x → step s = .next (f.atIssue.raise x (fetchAddr x u.my.pc)))) ∧
    (s.sched = .issue c :: l → u.issuable c = false → u.clocked c = true → step s = .next (u.modCore c (fun k => { k with clock := k.clock + 1 }))) ∧
    (s.sched = .element e :: l → v.dieClocked (elIsland e / 32) = true →
      let x := (v.element e).ctxs.get (v.element e).running
      (v.anyStatus e = none →
        (x.isGrove = false → x.len ≠ 0 → decodeElement (x.words.get (Fin.ofNat 16 x.wpc)).toNat = .ok i → step s = exec i v) ∧
        (x.isGrove = true → step s = exec (.nodePairFire e) v) ∧ (x.isGrove = false → x.len = 0 → step s = .next v)) ∧
      (∀ t, v.anyStatus e = some t → step s = .next t)) ∧
    (∀ f, s.sched = .tile f :: l → (({ s with sched := l } : State).placeClocked (placeOfFab f) = true →
      step s = .next (({ s with sched := l } : State).nextCycle f))) ∧
    (s.sched = .event i :: l → ({ s with sched := l } : State).placeClocked (({ s with sched := l } : State).placeOf i) = true →
      step s = exec i { s with sched := l }) ∧
    (s.sched = [] → step s = s.defaultTurn)

/-- R113: memory is bytes by physical address. In the model it is one list, addresses strictly rising and no entry equal to what an unlisted
address reads as (log entry 2, the model's choice), so that equal memories are equal data. Every step of any agent, from every state whose memory
has that form, leaves memory in it, whatever the step does. -/
def Obligations.StepsKeepMemoryForm : Prop :=
  ∀ (s t : State), s.mem.wf = true → step s = .next t → t.mem.wf = true

/-- R43, R60, R141: no instruction and no event ends a run; a step stops only where the supply is off and the turn is no die's reset (R424).

R142, R143, R144, R145: issue. A word takes its operands in the cycle its stall count allows, with every result of a fixed latency that is due
in its register and no other; a word that reads before a checked result is due, or whose own result would land before it, raises
SHORTSTALL (g0 and k0 have no result pending, log entry 65); one that names a register with a result pending waits, and one that names a v or m
register while its context's repetition sequence runs waits before that check (R203). -/
def Obligations.IssueRules : Prop :=
  ((∀ (i : Instr) (s : State), ∃ t, exec i s = .next t) ∧
  (∀ s : State, (∃ t, step s = .next t) ∨ (step s = .fault .powerOff ∧ s.powered = false)) ∧
  (∀ s : State, s.powered = false → (∀ t r, s.sched = t :: r → t.isReset = false) → step s = .fault .powerOff)) ∧
  (∀ (s : State) (st : Fin 8) (rd wr : List RegId) (lat : Nat) (act : State → Res) (d a b : Fin 32),
    let u := s.atIssue
    let t := s.my.since.getD s.issueCycle
    (u.core u.cur).clock = max (s.core s.cur).clock s.my.readyAt ∧ u.mem = s.mem ∧ u.queues = s.queues ∧
    (∀ p, p ∈ u.my.fixed ↔ p ∈ s.my.fixed ∧ t < p.due) ∧
    (∀ l p r, s.my.fixed.filter (fun p => decide (p.due ≤ t)) = l ++ p :: r → (∀ q, q ∈ r → q.write.reg ≠ p.write.reg ∨ p.write.reg = none) →
      u.my.reads p.write) ∧
    (∀ x, (∀ p, p ∈ s.my.fixed → p.write.reg ≠ some (.g x)) → u.my.rg x = s.my.rg x) ∧
    (∀ x, (∀ p, p ∈ s.my.fixed → p.write.reg ≠ some (.v x)) → u.my.rv x = s.my.rv x) ∧
    (u.my.short rd wr lat t = true ↔ ∃ p, p ∈ s.my.fixed ∧ p.chk = true ∧ t < p.due ∧ ∃ r, p.write.reg = some r ∧ r.real = true ∧
      (r ∈ rd ∨ (lat ≠ 0 ∧ t + lat < p.due ∧ r ∈ wr))) ∧
    (u.repWaits (rd ++ wr) = true → s.run st rd wr lat act = .next (u.hold .resource t)) ∧
    (u.repWaits (rd ++ wr) = false → u.my.short rd wr lat t = true → s.run st rd wr lat act = .next (u.raise .shortstall 0)) ∧
    (u.repWaits (rd ++ wr) = false → u.my.short rd wr lat t = false → ∀ r, u.my.blocker rd wr = some r →
      s.run st rd wr lat act = .next (u.hold (.reg r) t)) ∧
    exec (.mul st d a b) s = s.run st [.g a, .g b] [.g d] 3 (fun w => .regs w [.g d (w.my.rg a * w.my.rg b)]) ∧
    (∀ x, (u.hold (.reg x) t).my.wait = .reg x ∧ (u.hold (.reg x) t).my.pc = u.my.pc ∧ (u.hold (.reg x) t).mem = s.mem))
end

