-- ==== Sys2Proof/Laws/Caps.lean ====
section
/-! SUPPORT. The fields of a number made of fields, and the fields of a capability: what `mkCap` and `Cap.withCursor` put in them. -/
namespace Sys2Proof.Machine

theorem bitsOf_step (x lo k n : Nat) : bitsOf x (lo + k) n = bitsOf (x / 2 ^ lo) k n := by
  simp only [bitsOf, Nat.pow_add, Nat.div_div_eq_div_mul]

theorem bitsOf_low (a b lo n : Nat) (hb : b < 2 ^ lo) : bitsOf (a * 2 ^ lo + b) lo n = a % 2 ^ n := by
  simp only [bitsOf]
  rw [Nat.add_comm, Nat.add_mul_div_right _ _ (Nat.two_pow_pos lo), Nat.div_eq_of_lt hb, Nat.zero_add]

theorem bitsOf_high (a b lo k n : Nat) (hb : b < 2 ^ lo) : bitsOf (a * 2 ^ lo + b) (lo + k) n = bitsOf a k n := by
  rw [bitsOf_step, Nat.add_comm, Nat.add_mul_div_right _ _ (Nat.two_pow_pos lo), Nat.div_eq_of_lt hb, Nat.zero_add]

theorem joined_lt (a b i j : Nat) (ha : a < 2 ^ i) (hb : b < 2 ^ j) : a * 2 ^ j + b < 2 ^ (i + j) :=
  calc a * 2 ^ j + b < a * 2 ^ j + 2 ^ j := Nat.add_lt_add_left hb _
    _ = (a + 1) * 2 ^ j := by rw [Nat.add_mul, Nat.one_mul]
    _ ≤ 2 ^ i * 2 ^ j := Nat.mul_le_mul_right _ ha
    _ = 2 ^ (i + j) := (Nat.pow_add ..).symm

/-- The 128 bits of a capability made from its parts, as fields side by side (Table 5-4). -/
theorem mkCap_bits (p b l e c : Nat) : (mkCap p b l e c).bits.toNat
    = (((p % 2 ^ 8 * 2 ^ 10 + l / 2 ^ e % 2 ^ 10) * 2 ^ 6 + e % 2 ^ 6) * 2 ^ 48 + b / 256 % 2 ^ 48) * 2 ^ 56 + c % 2 ^ 56 := by
  simp only [mkCap, BitVec.toNat_ofNat]
  have h : ∀ P M E B C : Nat, P * 2 ^ 120 + M * 2 ^ 110 + E * 2 ^ 104 + B * 2 ^ 56 + C
      = (((P * 2 ^ 10 + M) * 2 ^ 6 + E) * 2 ^ 48 + B) * 2 ^ 56 + C := by
    intro P M E B C
    simp only [Nat.add_mul, Nat.mul_assoc, ← Nat.pow_add]
  have lt : ∀ x n : Nat, x % 2 ^ n < 2 ^ n := fun x n => Nat.mod_lt _ (Nat.two_pow_pos n)
  have e1 : p % 256 = p % 2 ^ 8 := rfl
  have e2 : l / 2 ^ e % 1024 = l / 2 ^ e % 2 ^ 10 := rfl
  have e3 : e % 64 = e % 2 ^ 6 := rfl
  rw [h, e1, e2, e3]
  exact Nat.mod_eq_of_lt (joined_lt _ _ 72 56 (joined_lt _ _ 24 48 (joined_lt _ _ 18 6 (joined_lt _ _ 8 10 (lt p 8) (lt _ 10)) (lt e 6)) (lt _ 48)) (lt c 56))

theorem mkCap_cursor (p b l e c : Nat) : (mkCap p b l e c).cursor.toNat = c % 2 ^ 56 := by
  rw [Cap.cursor, BitVec.extractLsb'_toNat, mkCap_bits, Nat.shiftRight_zero, Nat.add_comm, Nat.add_mul_mod_self_right]
  exact Nat.mod_mod ..

theorem mkCap_base (p b l e c : Nat) (h : b % 256 = 0) (hb : b < 2 ^ 56) : (mkCap p b l e c).base = b := by
  rw [Cap.base, mkCap_bits, bitsOf_low _ _ _ _ (Nat.mod_lt _ (Nat.two_pow_pos 56)), Nat.add_comm, Nat.add_mul_mod_self_right,
    Nat.mod_mod, Nat.mod_eq_of_lt (by omega), Nat.div_mul_cancel (Nat.dvd_of_mod_eq_zero h)]

theorem mkCap_expo (p b l e c : Nat) (h : e < 2 ^ 6) : (mkCap p b l e c).expo = e := by
  rw [Cap.expo, mkCap_bits, show (104 : Nat) = 56 + 48 from rfl, bitsOf_high _ _ _ _ _ (Nat.mod_lt _ (Nat.two_pow_pos 56)),
    bitsOf_low _ _ _ _ (Nat.mod_lt _ (Nat.two_pow_pos 48)), Nat.add_comm, Nat.add_mul_mod_self_right, Nat.mod_mod, Nat.mod_eq_of_lt h]

theorem mkCap_len (p b l e c : Nat) (he : e < 2 ^ 6) (h : l % 2 ^ e = 0) (hl : l / 2 ^ e < 2 ^ 10) : (mkCap p b l e c).len = l := by
  rw [Cap.len, mkCap_expo _ _ _ _ _ he, mkCap_bits, show (110 : Nat) = 56 + (48 + 6) from rfl,
    bitsOf_high _ _ _ _ _ (Nat.mod_lt _ (Nat.two_pow_pos 56)), bitsOf_high _ _ _ _ _ (Nat.mod_lt _ (Nat.two_pow_pos 48)),
    bitsOf_low _ _ _ _ (Nat.mod_lt _ (Nat.two_pow_pos 6)), Nat.add_comm, Nat.add_mul_mod_self_right, Nat.mod_mod,
    Nat.mod_eq_of_lt hl, Nat.div_mul_cancel (Nat.dvd_of_mod_eq_zero h)]

theorem mkCap_perms (p b l e c : Nat) : (mkCap p b l e c).perms = p % 2 ^ 8 := by
  rw [Cap.perms, mkCap_bits, show (120 : Nat) = 56 + (48 + (6 + 10)) from rfl, bitsOf_high _ _ _ _ _ (Nat.mod_lt _ (Nat.two_pow_pos 56)),
    bitsOf_high _ _ _ _ _ (Nat.mod_lt _ (Nat.two_pow_pos 48)), bitsOf_high _ _ _ _ _ (Nat.mod_lt _ (Nat.two_pow_pos 6)),
    bitsOf_low _ _ _ _ (Nat.mod_lt _ (Nat.two_pow_pos 10)), Nat.mod_mod]

/-- Another cursor leaves the upper 72 bits. -/
theorem withCursor_bits (k : Cap) (c : VAddr) : (k.withCursor c).bits.toNat = k.bits.toNat / 2 ^ 56 * 2 ^ 56 + c.toNat := by
  rw [Cap.withCursor, BitVec.toNat_append, BitVec.extractLsb'_toNat, ← Nat.shiftLeft_add_eq_or_of_lt c.isLt, Nat.shiftLeft_eq,
    Nat.shiftRight_eq_div_pow, Nat.mod_eq_of_lt]
  exact Nat.div_lt_of_lt_mul (by rw [← Nat.pow_add]; exact k.bits.isLt)

theorem withCursor_field (k : Cap) (c : VAddr) (j n : Nat) : bitsOf (k.withCursor c).bits.toNat (56 + j) n = bitsOf k.bits.toNat (56 + j) n := by
  rw [withCursor_bits, bitsOf_high _ _ _ _ _ c.isLt, ← bitsOf_step]

theorem withCursor_cursor (k : Cap) (c : VAddr) : (k.withCursor c).cursor = c := by
  apply BitVec.eq_of_toNat_eq
  rw [Cap.cursor, BitVec.extractLsb'_toNat, withCursor_bits, Nat.shiftRight_zero, Nat.add_comm, Nat.add_mul_mod_self_right,
    Nat.mod_eq_of_lt c.isLt]

theorem withCursor_base (k : Cap) (c : VAddr) : (k.withCursor c).base = k.base := by rw [Cap.base, Cap.base]; rw [withCursor_field k c 0]
theorem withCursor_expo (k : Cap) (c : VAddr) : (k.withCursor c).expo = k.expo := withCursor_field k c 48 6
theorem withCursor_perms (k : Cap) (c : VAddr) : (k.withCursor c).perms = k.perms := withCursor_field k c 64 8
theorem withCursor_len (k : Cap) (c : VAddr) : (k.withCursor c).len = k.len := by
  rw [Cap.len, Cap.len, withCursor_expo]; rw [withCursor_field k c 54 10]

theorem leastFrom_some (p : Nat → Bool) (i n r : Nat) (h : leastFrom p i n = some r) : p r = true ∧ r < i + n := by
  induction n generalizing i with
  | zero => simp [leastFrom] at h
  | succ n ih =>
    simp only [leastFrom] at h
    split at h
    · next hp => cases h; exact ⟨hp, by omega⟩
    · have := ih (i + 1) h; exact ⟨this.1, by omega⟩

theorem bitsOf_and (x y lo n : Nat) : bitsOf (x &&& y) lo n = bitsOf x lo n &&& bitsOf y lo n := by
  simp only [bitsOf, ← Nat.shiftRight_eq_div_pow, Nat.shiftRight_and_distrib, ← Nat.and_two_pow_sub_one_eq_mod]
  apply Nat.eq_of_testBit_eq
  intro i
  simp
  grind

/-- A permission mask leaves every field below the permissions. -/
theorem permMask_field (x : BitVec 128) (m : BitVec 8) (lo n : Nat) (h : lo + n ≤ 120) :
    bitsOf (x &&& (m ++ BitVec.allOnes 120 : BitVec 128)).toNat lo n = bitsOf x.toNat lo n := by
  apply Nat.eq_of_testBit_eq
  intro i
  simp only [bitsOf, ← Nat.shiftRight_eq_div_pow, Nat.testBit_mod_two_pow, Nat.testBit_shiftRight, BitVec.testBit_toNat,
    BitVec.getLsbD_and, BitVec.getLsbD_append, BitVec.getLsbD_allOnes]
  by_cases hi : i < n
  · have : lo + i < 120 := by omega
    simp [this]
  · simp [hi]

end Sys2Proof.Machine
end

