-- ==== Sys2Proof/Laws/Map.lean ====
section
/-! SUPPORT. Maps as lists in their canonical form: what an update reads as, that the form is kept, and that memory's writes keep it. -/
namespace Sys2Proof.Machine

theorem mapGet_mapPut {α : Type} (d x : α) (a b : Nat) (l : List (Nat × α)) :
    mapGet d (mapPut a x l) b = if b = a then x else mapGet d l b := by
  induction l with
  | nil => simp [mapPut, mapGet]
  | cons e r ih =>
    obtain ⟨k, v⟩ := e
    simp only [mapPut]
    split
    · simp [mapGet]
    · split
      · next h => subst h; simp only [mapGet]; split <;> rfl
      · simp only [mapGet, ih]
        split
        · next hk hb => subst hb; rw [if_neg (Ne.symm hk)]
        · rfl

theorem mapFind_mapPut {α : Type} (x : α) (a b : Nat) (l : List (Nat × α)) :
    mapFind (mapPut a x l) b = if b = a then some x else mapFind l b := by
  induction l with
  | nil => simp [mapPut, mapFind]
  | cons e r ih =>
    obtain ⟨k, v⟩ := e
    simp only [mapPut]
    split
    · simp [mapFind]
    · split
      · next h => subst h; simp only [mapFind]; split <;> rfl
      · simp only [mapFind, ih]
        split
        · next hk hb => subst hb; rw [if_neg (Ne.symm hk)]
        · rfl

theorem keysFrom_weaken {α : Type} {b c : Nat} {l : List (Nat × α)} (h : c ≤ b) (hk : keysFrom b l = true) : keysFrom c l = true := by
  cases l with
  | nil => rfl
  | cons e r => simp only [keysFrom, Bool.and_eq_true, decide_eq_true_eq] at *; exact ⟨by omega, hk.2⟩

theorem mapGet_below {α : Type} (d : α) (a b : Nat) (l : List (Nat × α)) (h : keysFrom b l = true) (hab : a < b) : mapGet d l a = d := by
  induction l generalizing b with
  | nil => rfl
  | cons e r ih =>
    simp only [keysFrom, Bool.and_eq_true, decide_eq_true_eq] at h
    simp only [mapGet]
    rw [if_neg (by omega)]
    exact ih (e.1 + 1) h.2 (by omega)

theorem mapGet_mapDel {α : Type} (d : α) (a b : Nat) (l : List (Nat × α)) :
    mapGet d (mapDel a l) b = if b = a then d else mapGet d l b := by
  induction l with
  | nil => simp [mapDel, mapGet]
  | cons e r ih =>
    obtain ⟨k, v⟩ := e
    simp only [mapDel]
    split
    · next h => subst h; rw [ih]; simp only [mapGet]; split <;> simp_all
    · next h =>
      simp only [mapGet, ih]
      by_cases hb : b = k
      · subst hb; simp [Ne.symm h]
      · simp [hb]

theorem keysFrom_mapPut {α : Type} (a : Nat) (x : α) (l : List (Nat × α)) (b : Nat) (h : keysFrom b l = true) (hb : b ≤ a) :
    keysFrom b (mapPut a x l) = true := by
  induction l generalizing b with
  | nil => simp [mapPut, keysFrom, hb]
  | cons e r ih =>
    simp only [keysFrom, Bool.and_eq_true, decide_eq_true_eq] at h
    simp only [mapPut]
    split
    · simp only [keysFrom, Bool.and_eq_true, decide_eq_true_eq]; exact ⟨hb, by omega, h.2⟩
    · split
      · next he => subst he; simp only [keysFrom, Bool.and_eq_true, decide_eq_true_eq]; exact ⟨hb, h.2⟩
      · simp only [keysFrom, Bool.and_eq_true, decide_eq_true_eq]; exact ⟨h.1, ih _ h.2 (by omega)⟩

theorem keysFrom_mapDel {α : Type} (a : Nat) (l : List (Nat × α)) (b : Nat) (h : keysFrom b l = true) : keysFrom b (mapDel a l) = true := by
  induction l generalizing b with
  | nil => rfl
  | cons e r ih =>
    simp only [keysFrom, Bool.and_eq_true, decide_eq_true_eq] at h
    simp only [mapDel]
    split
    · exact ih _ (keysFrom_weaken (by omega) h.2)
    · simp only [keysFrom, Bool.and_eq_true, decide_eq_true_eq]; exact ⟨h.1, ih _ h.2⟩

theorem all_mapDel {α : Type} (p : Nat × α → Bool) (a : Nat) (l : List (Nat × α)) (h : l.all p = true) : (mapDel a l).all p = true := by
  induction l with
  | nil => rfl
  | cons e r ih =>
    simp only [List.all_cons, Bool.and_eq_true] at h
    simp only [mapDel]
    split
    · exact ih h.2
    · simp only [List.all_cons, Bool.and_eq_true]; exact ⟨h.1, ih h.2⟩

theorem all_mapPut {α : Type} (p : Nat × α → Bool) (a : Nat) (x : α) (l : List (Nat × α)) (h : l.all p = true) (hx : p (a, x) = true) :
    (mapPut a x l).all p = true := by
  induction l with
  | nil => simp [mapPut, hx]
  | cons e r ih =>
    simp only [List.all_cons, Bool.and_eq_true] at h
    simp only [mapPut]
    split
    · simp [List.all_cons, hx, h.1, h.2]
    · split
      · simp [List.all_cons, hx, h.2]
      · simp only [List.all_cons, Bool.and_eq_true]; exact ⟨h.1, ih h.2⟩

/-- Every write of a byte keeps memory's canonical form. -/
theorem Memory.write_wf (m : Memory) (a : Nat) (x : Byte) (h : m.wf = true) : (m.write a x).wf = true := by
  simp only [Memory.wf, Bool.and_eq_true] at *
  simp only [Memory.write]
  split
  · exact ⟨keysFrom_mapDel a m 0 h.1, all_mapDel _ a m h.2⟩
  · next hx => exact ⟨keysFrom_mapPut a x m 0 h.1 (Nat.zero_le a), all_mapPut _ a x m h.2 (by simpa using hx)⟩

/-- A read after a write of a byte. -/
theorem Memory.read_write (m : Memory) (a b : Nat) (x : Byte) : (m.write a x).read b = if b = a then x else m.read b := by
  simp only [Memory.write, Memory.read]
  split
  · next hx => rw [mapGet_mapDel]; split <;> simp_all
  · exact mapGet_mapPut ..

/-- What a set has after one number is added. -/
theorem mem_setAdd (a b : Nat) (l : List Nat) : b ∈ setAdd a l ↔ b = a ∨ b ∈ l := by
  induction l with
  | nil => simp [setAdd]
  | cons k r ih => simp only [setAdd]; split <;> (try split) <;> simp_all <;> grind

/-- What a set has after one number is removed. -/
theorem mem_setDel (a b : Nat) (l : List Nat) : b ∈ setDel a l ↔ b ≠ a ∧ b ∈ l := by
  induction l with
  | nil => simp [setDel]
  | cons k r ih => simp only [setDel]; split <;> simp_all <;> grind

theorem vset_get {α : Type} {n : Nat} (v : Vector α n) (i j : Fin n) (x : α) : (vset v i x).get j = if j = i then x else v.get j := by
  show (v.set i.1 x i.2)[j.1] = _
  rw [Vector.getElem_set]
  by_cases h : j = i
  · subst h; simp
  · rw [if_neg h, if_neg (Fin.val_ne_of_ne (Ne.symm h))]; rfl

end Sys2Proof.Machine
end

