-- ==== Sys2Proof/Laws/State.lean ====
section
/-! SUPPORT. What each update of one part of the state leaves as it was, field by field, and what it reads as afterwards. -/
namespace Sys2Proof.Machine

/-! setCore. -/

@[simp] theorem State.setCore_cur (s : State) (c : Nat) (x : Core) : (s.setCore c x).cur = s.cur := rfl
@[simp] theorem State.setCore_curEl (s : State) (c : Nat) (x : Core) : (s.setCore c x).curEl = s.curEl := rfl
@[simp] theorem State.setCore_sched (s : State) (c : Nat) (x : Core) : (s.setCore c x).sched = s.sched := rfl
@[simp] theorem State.setCore_turns (s : State) (c : Nat) (x : Core) : (s.setCore c x).turns = s.turns := rfl
@[simp] theorem State.setCore_nextStep (s : State) (c : Nat) (x : Core) : (s.setCore c x).nextStep = s.nextStep := rfl
@[simp] theorem State.setCore_micros (s : State) (c : Nat) (x : Core) : (s.setCore c x).micros = s.micros := rfl
@[simp] theorem State.setCore_bootAt (s : State) (c : Nat) (x : Core) : (s.setCore c x).bootAt = s.bootAt := rfl
@[simp] theorem State.setCore_quietSince (s : State) (c : Nat) (x : Core) : (s.setCore c x).quietSince = s.quietSince := rfl
@[simp] theorem State.setCore_mappedAt (s : State) (c : Nat) (x : Core) : (s.setCore c x).mappedAt = s.mappedAt := rfl
@[simp] theorem State.setCore_deadlockAt (s : State) (c : Nat) (x : Core) : (s.setCore c x).deadlockAt = s.deadlockAt := rfl
@[simp] theorem State.setCore_freeCtr (s : State) (c : Nat) (x : Core) : (s.setCore c x).freeCtr = s.freeCtr := rfl
@[simp] theorem State.setCore_powered (s : State) (c : Nat) (x : Core) : (s.setCore c x).powered = s.powered := rfl
@[simp] theorem State.setCore_mem (s : State) (c : Nat) (x : Core) : (s.setCore c x).mem = s.mem := rfl
@[simp] theorem State.setCore_tags (s : State) (c : Nat) (x : Core) : (s.setCore c x).tags = s.tags := rfl
@[simp] theorem State.setCore_full (s : State) (c : Nat) (x : Core) : (s.setCore c x).full = s.full := rfl
@[simp] theorem State.setCore_poison (s : State) (c : Nat) (x : Core) : (s.setCore c x).poison = s.poison := rfl
@[simp] theorem State.setCore_quads (s : State) (c : Nat) (x : Core) : (s.setCore c x).quads = s.quads := rfl
@[simp] theorem State.setCore_islands (s : State) (c : Nat) (x : Core) : (s.setCore c x).islands = s.islands := rfl
@[simp] theorem State.setCore_dies (s : State) (c : Nat) (x : Core) : (s.setCore c x).dies = s.dies := rfl
@[simp] theorem State.setCore_jobs (s : State) (c : Nat) (x : Core) : (s.setCore c x).jobs = s.jobs := rfl
@[simp] theorem State.setCore_queues (s : State) (c : Nat) (x : Core) : (s.setCore c x).queues = s.queues := rfl
@[simp] theorem State.setCore_engines (s : State) (c : Nat) (x : Core) : (s.setCore c x).engines = s.engines := rfl
@[simp] theorem State.setCore_fabrics (s : State) (c : Nat) (x : Core) : (s.setCore c x).fabrics = s.fabrics := rfl
@[simp] theorem State.setCore_elements (s : State) (c : Nat) (x : Core) : (s.setCore c x).elements = s.elements := rfl
@[simp] theorem State.setCore_fused (s : State) (c : Nat) (x : Core) : (s.setCore c x).fused = s.fused := rfl
@[simp] theorem State.setCore_arrivals (s : State) (c : Nat) (x : Core) : (s.setCore c x).arrivals = s.arrivals := rfl
@[simp] theorem State.setCore_host (s : State) (c : Nat) (x : Core) : (s.setCore c x).host = s.host := rfl
@[simp] theorem State.setCore_links (s : State) (c : Nat) (x : Core) : (s.setCore c x).links = s.links := rfl
@[simp] theorem State.setCore_peers (s : State) (c : Nat) (x : Core) : (s.setCore c x).peers = s.peers := rfl
@[simp] theorem State.setCore_peerIndex (s : State) (c : Nat) (x : Core) : (s.setCore c x).peerIndex = s.peerIndex := rfl
@[simp] theorem State.setCore_stalls (s : State) (c : Nat) (x : Core) : (s.setCore c x).stalls = s.stalls := rfl
@[simp] theorem State.setCore_notifyBase (s : State) (c : Nat) (x : Core) : (s.setCore c x).notifyBase = s.notifyBase := rfl
@[simp] theorem State.setCore_events (s : State) (c : Nat) (x : Core) : (s.setCore c x).events = s.events := rfl
@[simp] theorem State.setCore_nextEvent (s : State) (c : Nat) (x : Core) : (s.setCore c x).nextEvent = s.nextEvent := rfl
@[simp] theorem State.setCore_corrected (s : State) (c : Nat) (x : Core) : (s.setCore c x).corrected = s.corrected := rfl
@[simp] theorem State.setCore_limit (s : State) (c : Nat) (x : Core) : (s.setCore c x).limit = s.limit := rfl

/-! setCtx. -/

@[simp] theorem State.setCtx_cur (s : State) (c : Nat) (x : Fin 4) (y : Ctx) : (s.setCtx c x y).cur = s.cur := rfl
@[simp] theorem State.setCtx_curEl (s : State) (c : Nat) (x : Fin 4) (y : Ctx) : (s.setCtx c x y).curEl = s.curEl := rfl
@[simp] theorem State.setCtx_sched (s : State) (c : Nat) (x : Fin 4) (y : Ctx) : (s.setCtx c x y).sched = s.sched := rfl
@[simp] theorem State.setCtx_turns (s : State) (c : Nat) (x : Fin 4) (y : Ctx) : (s.setCtx c x y).turns = s.turns := rfl
@[simp] theorem State.setCtx_nextStep (s : State) (c : Nat) (x : Fin 4) (y : Ctx) : (s.setCtx c x y).nextStep = s.nextStep := rfl
@[simp] theorem State.setCtx_micros (s : State) (c : Nat) (x : Fin 4) (y : Ctx) : (s.setCtx c x y).micros = s.micros := rfl
@[simp] theorem State.setCtx_bootAt (s : State) (c : Nat) (x : Fin 4) (y : Ctx) : (s.setCtx c x y).bootAt = s.bootAt := rfl
@[simp] theorem State.setCtx_quietSince (s : State) (c : Nat) (x : Fin 4) (y : Ctx) : (s.setCtx c x y).quietSince = s.quietSince := rfl
@[simp] theorem State.setCtx_mappedAt (s : State) (c : Nat) (x : Fin 4) (y : Ctx) : (s.setCtx c x y).mappedAt = s.mappedAt := rfl
@[simp] theorem State.setCtx_deadlockAt (s : State) (c : Nat) (x : Fin 4) (y : Ctx) : (s.setCtx c x y).deadlockAt = s.deadlockAt := rfl
@[simp] theorem State.setCtx_freeCtr (s : State) (c : Nat) (x : Fin 4) (y : Ctx) : (s.setCtx c x y).freeCtr = s.freeCtr := rfl
@[simp] theorem State.setCtx_powered (s : State) (c : Nat) (x : Fin 4) (y : Ctx) : (s.setCtx c x y).powered = s.powered := rfl
@[simp] theorem State.setCtx_mem (s : State) (c : Nat) (x : Fin 4) (y : Ctx) : (s.setCtx c x y).mem = s.mem := rfl
@[simp] theorem State.setCtx_tags (s : State) (c : Nat) (x : Fin 4) (y : Ctx) : (s.setCtx c x y).tags = s.tags := rfl
@[simp] theorem State.setCtx_full (s : State) (c : Nat) (x : Fin 4) (y : Ctx) : (s.setCtx c x y).full = s.full := rfl
@[simp] theorem State.setCtx_poison (s : State) (c : Nat) (x : Fin 4) (y : Ctx) : (s.setCtx c x y).poison = s.poison := rfl
@[simp] theorem State.setCtx_quads (s : State) (c : Nat) (x : Fin 4) (y : Ctx) : (s.setCtx c x y).quads = s.quads := rfl
@[simp] theorem State.setCtx_islands (s : State) (c : Nat) (x : Fin 4) (y : Ctx) : (s.setCtx c x y).islands = s.islands := rfl
@[simp] theorem State.setCtx_dies (s : State) (c : Nat) (x : Fin 4) (y : Ctx) : (s.setCtx c x y).dies = s.dies := rfl
@[simp] theorem State.setCtx_jobs (s : State) (c : Nat) (x : Fin 4) (y : Ctx) : (s.setCtx c x y).jobs = s.jobs := rfl
@[simp] theorem State.setCtx_queues (s : State) (c : Nat) (x : Fin 4) (y : Ctx) : (s.setCtx c x y).queues = s.queues := rfl
@[simp] theorem State.setCtx_engines (s : State) (c : Nat) (x : Fin 4) (y : Ctx) : (s.setCtx c x y).engines = s.engines := rfl
@[simp] theorem State.setCtx_fabrics (s : State) (c : Nat) (x : Fin 4) (y : Ctx) : (s.setCtx c x y).fabrics = s.fabrics := rfl
@[simp] theorem State.setCtx_elements (s : State) (c : Nat) (x : Fin 4) (y : Ctx) : (s.setCtx c x y).elements = s.elements := rfl
@[simp] theorem State.setCtx_fused (s : State) (c : Nat) (x : Fin 4) (y : Ctx) : (s.setCtx c x y).fused = s.fused := rfl
@[simp] theorem State.setCtx_arrivals (s : State) (c : Nat) (x : Fin 4) (y : Ctx) : (s.setCtx c x y).arrivals = s.arrivals := rfl
@[simp] theorem State.setCtx_host (s : State) (c : Nat) (x : Fin 4) (y : Ctx) : (s.setCtx c x y).host = s.host := rfl
@[simp] theorem State.setCtx_links (s : State) (c : Nat) (x : Fin 4) (y : Ctx) : (s.setCtx c x y).links = s.links := rfl
@[simp] theorem State.setCtx_peers (s : State) (c : Nat) (x : Fin 4) (y : Ctx) : (s.setCtx c x y).peers = s.peers := rfl
@[simp] theorem State.setCtx_peerIndex (s : State) (c : Nat) (x : Fin 4) (y : Ctx) : (s.setCtx c x y).peerIndex = s.peerIndex := rfl
@[simp] theorem State.setCtx_stalls (s : State) (c : Nat) (x : Fin 4) (y : Ctx) : (s.setCtx c x y).stalls = s.stalls := rfl
@[simp] theorem State.setCtx_notifyBase (s : State) (c : Nat) (x : Fin 4) (y : Ctx) : (s.setCtx c x y).notifyBase = s.notifyBase := rfl
@[simp] theorem State.setCtx_events (s : State) (c : Nat) (x : Fin 4) (y : Ctx) : (s.setCtx c x y).events = s.events := rfl
@[simp] theorem State.setCtx_nextEvent (s : State) (c : Nat) (x : Fin 4) (y : Ctx) : (s.setCtx c x y).nextEvent = s.nextEvent := rfl
@[simp] theorem State.setCtx_corrected (s : State) (c : Nat) (x : Fin 4) (y : Ctx) : (s.setCtx c x y).corrected = s.corrected := rfl
@[simp] theorem State.setCtx_limit (s : State) (c : Nat) (x : Fin 4) (y : Ctx) : (s.setCtx c x y).limit = s.limit := rfl

/-! modCtx. -/

@[simp] theorem State.modCtx_cur (s : State) (c : Nat) (x : Fin 4) (f : Ctx → Ctx) : (s.modCtx c x f).cur = s.cur := rfl
@[simp] theorem State.modCtx_curEl (s : State) (c : Nat) (x : Fin 4) (f : Ctx → Ctx) : (s.modCtx c x f).curEl = s.curEl := rfl
@[simp] theorem State.modCtx_sched (s : State) (c : Nat) (x : Fin 4) (f : Ctx → Ctx) : (s.modCtx c x f).sched = s.sched := rfl
@[simp] theorem State.modCtx_turns (s : State) (c : Nat) (x : Fin 4) (f : Ctx → Ctx) : (s.modCtx c x f).turns = s.turns := rfl
@[simp] theorem State.modCtx_nextStep (s : State) (c : Nat) (x : Fin 4) (f : Ctx → Ctx) : (s.modCtx c x f).nextStep = s.nextStep := rfl
@[simp] theorem State.modCtx_micros (s : State) (c : Nat) (x : Fin 4) (f : Ctx → Ctx) : (s.modCtx c x f).micros = s.micros := rfl
@[simp] theorem State.modCtx_bootAt (s : State) (c : Nat) (x : Fin 4) (f : Ctx → Ctx) : (s.modCtx c x f).bootAt = s.bootAt := rfl
@[simp] theorem State.modCtx_quietSince (s : State) (c : Nat) (x : Fin 4) (f : Ctx → Ctx) : (s.modCtx c x f).quietSince = s.quietSince := rfl
@[simp] theorem State.modCtx_mappedAt (s : State) (c : Nat) (x : Fin 4) (f : Ctx → Ctx) : (s.modCtx c x f).mappedAt = s.mappedAt := rfl
@[simp] theorem State.modCtx_deadlockAt (s : State) (c : Nat) (x : Fin 4) (f : Ctx → Ctx) : (s.modCtx c x f).deadlockAt = s.deadlockAt := rfl
@[simp] theorem State.modCtx_freeCtr (s : State) (c : Nat) (x : Fin 4) (f : Ctx → Ctx) : (s.modCtx c x f).freeCtr = s.freeCtr := rfl
@[simp] theorem State.modCtx_powered (s : State) (c : Nat) (x : Fin 4) (f : Ctx → Ctx) : (s.modCtx c x f).powered = s.powered := rfl
@[simp] theorem State.modCtx_mem (s : State) (c : Nat) (x : Fin 4) (f : Ctx → Ctx) : (s.modCtx c x f).mem = s.mem := rfl
@[simp] theorem State.modCtx_tags (s : State) (c : Nat) (x : Fin 4) (f : Ctx → Ctx) : (s.modCtx c x f).tags = s.tags := rfl
@[simp] theorem State.modCtx_full (s : State) (c : Nat) (x : Fin 4) (f : Ctx → Ctx) : (s.modCtx c x f).full = s.full := rfl
@[simp] theorem State.modCtx_poison (s : State) (c : Nat) (x : Fin 4) (f : Ctx → Ctx) : (s.modCtx c x f).poison = s.poison := rfl
@[simp] theorem State.modCtx_quads (s : State) (c : Nat) (x : Fin 4) (f : Ctx → Ctx) : (s.modCtx c x f).quads = s.quads := rfl
@[simp] theorem State.modCtx_islands (s : State) (c : Nat) (x : Fin 4) (f : Ctx → Ctx) : (s.modCtx c x f).islands = s.islands := rfl
@[simp] theorem State.modCtx_dies (s : State) (c : Nat) (x : Fin 4) (f : Ctx → Ctx) : (s.modCtx c x f).dies = s.dies := rfl
@[simp] theorem State.modCtx_jobs (s : State) (c : Nat) (x : Fin 4) (f : Ctx → Ctx) : (s.modCtx c x f).jobs = s.jobs := rfl
@[simp] theorem State.modCtx_queues (s : State) (c : Nat) (x : Fin 4) (f : Ctx → Ctx) : (s.modCtx c x f).queues = s.queues := rfl
@[simp] theorem State.modCtx_engines (s : State) (c : Nat) (x : Fin 4) (f : Ctx → Ctx) : (s.modCtx c x f).engines = s.engines := rfl
@[simp] theorem State.modCtx_fabrics (s : State) (c : Nat) (x : Fin 4) (f : Ctx → Ctx) : (s.modCtx c x f).fabrics = s.fabrics := rfl
@[simp] theorem State.modCtx_elements (s : State) (c : Nat) (x : Fin 4) (f : Ctx → Ctx) : (s.modCtx c x f).elements = s.elements := rfl
@[simp] theorem State.modCtx_fused (s : State) (c : Nat) (x : Fin 4) (f : Ctx → Ctx) : (s.modCtx c x f).fused = s.fused := rfl
@[simp] theorem State.modCtx_arrivals (s : State) (c : Nat) (x : Fin 4) (f : Ctx → Ctx) : (s.modCtx c x f).arrivals = s.arrivals := rfl
@[simp] theorem State.modCtx_host (s : State) (c : Nat) (x : Fin 4) (f : Ctx → Ctx) : (s.modCtx c x f).host = s.host := rfl
@[simp] theorem State.modCtx_links (s : State) (c : Nat) (x : Fin 4) (f : Ctx → Ctx) : (s.modCtx c x f).links = s.links := rfl
@[simp] theorem State.modCtx_peers (s : State) (c : Nat) (x : Fin 4) (f : Ctx → Ctx) : (s.modCtx c x f).peers = s.peers := rfl
@[simp] theorem State.modCtx_peerIndex (s : State) (c : Nat) (x : Fin 4) (f : Ctx → Ctx) : (s.modCtx c x f).peerIndex = s.peerIndex := rfl
@[simp] theorem State.modCtx_stalls (s : State) (c : Nat) (x : Fin 4) (f : Ctx → Ctx) : (s.modCtx c x f).stalls = s.stalls := rfl
@[simp] theorem State.modCtx_notifyBase (s : State) (c : Nat) (x : Fin 4) (f : Ctx → Ctx) : (s.modCtx c x f).notifyBase = s.notifyBase := rfl
@[simp] theorem State.modCtx_events (s : State) (c : Nat) (x : Fin 4) (f : Ctx → Ctx) : (s.modCtx c x f).events = s.events := rfl
@[simp] theorem State.modCtx_nextEvent (s : State) (c : Nat) (x : Fin 4) (f : Ctx → Ctx) : (s.modCtx c x f).nextEvent = s.nextEvent := rfl
@[simp] theorem State.modCtx_corrected (s : State) (c : Nat) (x : Fin 4) (f : Ctx → Ctx) : (s.modCtx c x f).corrected = s.corrected := rfl
@[simp] theorem State.modCtx_limit (s : State) (c : Nat) (x : Fin 4) (f : Ctx → Ctx) : (s.modCtx c x f).limit = s.limit := rfl

/-! modCore. -/

@[simp] theorem State.modCore_cur (s : State) (c : Nat) (f : Core → Core) : (s.modCore c f).cur = s.cur := rfl
@[simp] theorem State.modCore_curEl (s : State) (c : Nat) (f : Core → Core) : (s.modCore c f).curEl = s.curEl := rfl
@[simp] theorem State.modCore_sched (s : State) (c : Nat) (f : Core → Core) : (s.modCore c f).sched = s.sched := rfl
@[simp] theorem State.modCore_turns (s : State) (c : Nat) (f : Core → Core) : (s.modCore c f).turns = s.turns := rfl
@[simp] theorem State.modCore_nextStep (s : State) (c : Nat) (f : Core → Core) : (s.modCore c f).nextStep = s.nextStep := rfl
@[simp] theorem State.modCore_micros (s : State) (c : Nat) (f : Core → Core) : (s.modCore c f).micros = s.micros := rfl
@[simp] theorem State.modCore_bootAt (s : State) (c : Nat) (f : Core → Core) : (s.modCore c f).bootAt = s.bootAt := rfl
@[simp] theorem State.modCore_quietSince (s : State) (c : Nat) (f : Core → Core) : (s.modCore c f).quietSince = s.quietSince := rfl
@[simp] theorem State.modCore_mappedAt (s : State) (c : Nat) (f : Core → Core) : (s.modCore c f).mappedAt = s.mappedAt := rfl
@[simp] theorem State.modCore_deadlockAt (s : State) (c : Nat) (f : Core → Core) : (s.modCore c f).deadlockAt = s.deadlockAt := rfl
@[simp] theorem State.modCore_freeCtr (s : State) (c : Nat) (f : Core → Core) : (s.modCore c f).freeCtr = s.freeCtr := rfl
@[simp] theorem State.modCore_powered (s : State) (c : Nat) (f : Core → Core) : (s.modCore c f).powered = s.powered := rfl
@[simp] theorem State.modCore_mem (s : State) (c : Nat) (f : Core → Core) : (s.modCore c f).mem = s.mem := rfl
@[simp] theorem State.modCore_tags (s : State) (c : Nat) (f : Core → Core) : (s.modCore c f).tags = s.tags := rfl
@[simp] theorem State.modCore_full (s : State) (c : Nat) (f : Core → Core) : (s.modCore c f).full = s.full := rfl
@[simp] theorem State.modCore_poison (s : State) (c : Nat) (f : Core → Core) : (s.modCore c f).poison = s.poison := rfl
@[simp] theorem State.modCore_quads (s : State) (c : Nat) (f : Core → Core) : (s.modCore c f).quads = s.quads := rfl
@[simp] theorem State.modCore_islands (s : State) (c : Nat) (f : Core → Core) : (s.modCore c f).islands = s.islands := rfl
@[simp] theorem State.modCore_dies (s : State) (c : Nat) (f : Core → Core) : (s.modCore c f).dies = s.dies := rfl
@[simp] theorem State.modCore_jobs (s : State) (c : Nat) (f : Core → Core) : (s.modCore c f).jobs = s.jobs := rfl
@[simp] theorem State.modCore_queues (s : State) (c : Nat) (f : Core → Core) : (s.modCore c f).queues = s.queues := rfl
@[simp] theorem State.modCore_engines (s : State) (c : Nat) (f : Core → Core) : (s.modCore c f).engines = s.engines := rfl
@[simp] theorem State.modCore_fabrics (s : State) (c : Nat) (f : Core → Core) : (s.modCore c f).fabrics = s.fabrics := rfl
@[simp] theorem State.modCore_elements (s : State) (c : Nat) (f : Core → Core) : (s.modCore c f).elements = s.elements := rfl
@[simp] theorem State.modCore_fused (s : State) (c : Nat) (f : Core → Core) : (s.modCore c f).fused = s.fused := rfl
@[simp] theorem State.modCore_arrivals (s : State) (c : Nat) (f : Core → Core) : (s.modCore c f).arrivals = s.arrivals := rfl
@[simp] theorem State.modCore_host (s : State) (c : Nat) (f : Core → Core) : (s.modCore c f).host = s.host := rfl
@[simp] theorem State.modCore_links (s : State) (c : Nat) (f : Core → Core) : (s.modCore c f).links = s.links := rfl
@[simp] theorem State.modCore_peers (s : State) (c : Nat) (f : Core → Core) : (s.modCore c f).peers = s.peers := rfl
@[simp] theorem State.modCore_peerIndex (s : State) (c : Nat) (f : Core → Core) : (s.modCore c f).peerIndex = s.peerIndex := rfl
@[simp] theorem State.modCore_stalls (s : State) (c : Nat) (f : Core → Core) : (s.modCore c f).stalls = s.stalls := rfl
@[simp] theorem State.modCore_notifyBase (s : State) (c : Nat) (f : Core → Core) : (s.modCore c f).notifyBase = s.notifyBase := rfl
@[simp] theorem State.modCore_events (s : State) (c : Nat) (f : Core → Core) : (s.modCore c f).events = s.events := rfl
@[simp] theorem State.modCore_nextEvent (s : State) (c : Nat) (f : Core → Core) : (s.modCore c f).nextEvent = s.nextEvent := rfl
@[simp] theorem State.modCore_corrected (s : State) (c : Nat) (f : Core → Core) : (s.modCore c f).corrected = s.corrected := rfl
@[simp] theorem State.modCore_limit (s : State) (c : Nat) (f : Core → Core) : (s.modCore c f).limit = s.limit := rfl

/-! modMy. -/

@[simp] theorem State.modMy_cur (s : State) (f : Ctx → Ctx) : (s.modMy f).cur = s.cur := rfl
@[simp] theorem State.modMy_curEl (s : State) (f : Ctx → Ctx) : (s.modMy f).curEl = s.curEl := rfl
@[simp] theorem State.modMy_sched (s : State) (f : Ctx → Ctx) : (s.modMy f).sched = s.sched := rfl
@[simp] theorem State.modMy_turns (s : State) (f : Ctx → Ctx) : (s.modMy f).turns = s.turns := rfl
@[simp] theorem State.modMy_nextStep (s : State) (f : Ctx → Ctx) : (s.modMy f).nextStep = s.nextStep := rfl
@[simp] theorem State.modMy_micros (s : State) (f : Ctx → Ctx) : (s.modMy f).micros = s.micros := rfl
@[simp] theorem State.modMy_bootAt (s : State) (f : Ctx → Ctx) : (s.modMy f).bootAt = s.bootAt := rfl
@[simp] theorem State.modMy_quietSince (s : State) (f : Ctx → Ctx) : (s.modMy f).quietSince = s.quietSince := rfl
@[simp] theorem State.modMy_mappedAt (s : State) (f : Ctx → Ctx) : (s.modMy f).mappedAt = s.mappedAt := rfl
@[simp] theorem State.modMy_deadlockAt (s : State) (f : Ctx → Ctx) : (s.modMy f).deadlockAt = s.deadlockAt := rfl
@[simp] theorem State.modMy_freeCtr (s : State) (f : Ctx → Ctx) : (s.modMy f).freeCtr = s.freeCtr := rfl
@[simp] theorem State.modMy_powered (s : State) (f : Ctx → Ctx) : (s.modMy f).powered = s.powered := rfl
@[simp] theorem State.modMy_mem (s : State) (f : Ctx → Ctx) : (s.modMy f).mem = s.mem := rfl
@[simp] theorem State.modMy_tags (s : State) (f : Ctx → Ctx) : (s.modMy f).tags = s.tags := rfl
@[simp] theorem State.modMy_full (s : State) (f : Ctx → Ctx) : (s.modMy f).full = s.full := rfl
@[simp] theorem State.modMy_poison (s : State) (f : Ctx → Ctx) : (s.modMy f).poison = s.poison := rfl
@[simp] theorem State.modMy_quads (s : State) (f : Ctx → Ctx) : (s.modMy f).quads = s.quads := rfl
@[simp] theorem State.modMy_islands (s : State) (f : Ctx → Ctx) : (s.modMy f).islands = s.islands := rfl
@[simp] theorem State.modMy_dies (s : State) (f : Ctx → Ctx) : (s.modMy f).dies = s.dies := rfl
@[simp] theorem State.modMy_jobs (s : State) (f : Ctx → Ctx) : (s.modMy f).jobs = s.jobs := rfl
@[simp] theorem State.modMy_queues (s : State) (f : Ctx → Ctx) : (s.modMy f).queues = s.queues := rfl
@[simp] theorem State.modMy_engines (s : State) (f : Ctx → Ctx) : (s.modMy f).engines = s.engines := rfl
@[simp] theorem State.modMy_fabrics (s : State) (f : Ctx → Ctx) : (s.modMy f).fabrics = s.fabrics := rfl
@[simp] theorem State.modMy_elements (s : State) (f : Ctx → Ctx) : (s.modMy f).elements = s.elements := rfl
@[simp] theorem State.modMy_fused (s : State) (f : Ctx → Ctx) : (s.modMy f).fused = s.fused := rfl
@[simp] theorem State.modMy_arrivals (s : State) (f : Ctx → Ctx) : (s.modMy f).arrivals = s.arrivals := rfl
@[simp] theorem State.modMy_host (s : State) (f : Ctx → Ctx) : (s.modMy f).host = s.host := rfl
@[simp] theorem State.modMy_links (s : State) (f : Ctx → Ctx) : (s.modMy f).links = s.links := rfl
@[simp] theorem State.modMy_peers (s : State) (f : Ctx → Ctx) : (s.modMy f).peers = s.peers := rfl
@[simp] theorem State.modMy_peerIndex (s : State) (f : Ctx → Ctx) : (s.modMy f).peerIndex = s.peerIndex := rfl
@[simp] theorem State.modMy_stalls (s : State) (f : Ctx → Ctx) : (s.modMy f).stalls = s.stalls := rfl
@[simp] theorem State.modMy_notifyBase (s : State) (f : Ctx → Ctx) : (s.modMy f).notifyBase = s.notifyBase := rfl
@[simp] theorem State.modMy_events (s : State) (f : Ctx → Ctx) : (s.modMy f).events = s.events := rfl
@[simp] theorem State.modMy_nextEvent (s : State) (f : Ctx → Ctx) : (s.modMy f).nextEvent = s.nextEvent := rfl
@[simp] theorem State.modMy_corrected (s : State) (f : Ctx → Ctx) : (s.modMy f).corrected = s.corrected := rfl
@[simp] theorem State.modMy_limit (s : State) (f : Ctx → Ctx) : (s.modMy f).limit = s.limit := rfl

/-! modQuad. -/

@[simp] theorem State.modQuad_cur (s : State) (q : Nat) (f : Quad → Quad) : (s.modQuad q f).cur = s.cur := rfl
@[simp] theorem State.modQuad_curEl (s : State) (q : Nat) (f : Quad → Quad) : (s.modQuad q f).curEl = s.curEl := rfl
@[simp] theorem State.modQuad_sched (s : State) (q : Nat) (f : Quad → Quad) : (s.modQuad q f).sched = s.sched := rfl
@[simp] theorem State.modQuad_turns (s : State) (q : Nat) (f : Quad → Quad) : (s.modQuad q f).turns = s.turns := rfl
@[simp] theorem State.modQuad_nextStep (s : State) (q : Nat) (f : Quad → Quad) : (s.modQuad q f).nextStep = s.nextStep := rfl
@[simp] theorem State.modQuad_micros (s : State) (q : Nat) (f : Quad → Quad) : (s.modQuad q f).micros = s.micros := rfl
@[simp] theorem State.modQuad_bootAt (s : State) (q : Nat) (f : Quad → Quad) : (s.modQuad q f).bootAt = s.bootAt := rfl
@[simp] theorem State.modQuad_quietSince (s : State) (q : Nat) (f : Quad → Quad) : (s.modQuad q f).quietSince = s.quietSince := rfl
@[simp] theorem State.modQuad_mappedAt (s : State) (q : Nat) (f : Quad → Quad) : (s.modQuad q f).mappedAt = s.mappedAt := rfl
@[simp] theorem State.modQuad_deadlockAt (s : State) (q : Nat) (f : Quad → Quad) : (s.modQuad q f).deadlockAt = s.deadlockAt := rfl
@[simp] theorem State.modQuad_freeCtr (s : State) (q : Nat) (f : Quad → Quad) : (s.modQuad q f).freeCtr = s.freeCtr := rfl
@[simp] theorem State.modQuad_powered (s : State) (q : Nat) (f : Quad → Quad) : (s.modQuad q f).powered = s.powered := rfl
@[simp] theorem State.modQuad_mem (s : State) (q : Nat) (f : Quad → Quad) : (s.modQuad q f).mem = s.mem := rfl
@[simp] theorem State.modQuad_tags (s : State) (q : Nat) (f : Quad → Quad) : (s.modQuad q f).tags = s.tags := rfl
@[simp] theorem State.modQuad_full (s : State) (q : Nat) (f : Quad → Quad) : (s.modQuad q f).full = s.full := rfl
@[simp] theorem State.modQuad_poison (s : State) (q : Nat) (f : Quad → Quad) : (s.modQuad q f).poison = s.poison := rfl
@[simp] theorem State.modQuad_cores (s : State) (q : Nat) (f : Quad → Quad) : (s.modQuad q f).cores = s.cores := rfl
@[simp] theorem State.modQuad_islands (s : State) (q : Nat) (f : Quad → Quad) : (s.modQuad q f).islands = s.islands := rfl
@[simp] theorem State.modQuad_dies (s : State) (q : Nat) (f : Quad → Quad) : (s.modQuad q f).dies = s.dies := rfl
@[simp] theorem State.modQuad_jobs (s : State) (q : Nat) (f : Quad → Quad) : (s.modQuad q f).jobs = s.jobs := rfl
@[simp] theorem State.modQuad_queues (s : State) (q : Nat) (f : Quad → Quad) : (s.modQuad q f).queues = s.queues := rfl
@[simp] theorem State.modQuad_engines (s : State) (q : Nat) (f : Quad → Quad) : (s.modQuad q f).engines = s.engines := rfl
@[simp] theorem State.modQuad_fabrics (s : State) (q : Nat) (f : Quad → Quad) : (s.modQuad q f).fabrics = s.fabrics := rfl
@[simp] theorem State.modQuad_elements (s : State) (q : Nat) (f : Quad → Quad) : (s.modQuad q f).elements = s.elements := rfl
@[simp] theorem State.modQuad_fused (s : State) (q : Nat) (f : Quad → Quad) : (s.modQuad q f).fused = s.fused := rfl
@[simp] theorem State.modQuad_arrivals (s : State) (q : Nat) (f : Quad → Quad) : (s.modQuad q f).arrivals = s.arrivals := rfl
@[simp] theorem State.modQuad_host (s : State) (q : Nat) (f : Quad → Quad) : (s.modQuad q f).host = s.host := rfl
@[simp] theorem State.modQuad_links (s : State) (q : Nat) (f : Quad → Quad) : (s.modQuad q f).links = s.links := rfl
@[simp] theorem State.modQuad_peers (s : State) (q : Nat) (f : Quad → Quad) : (s.modQuad q f).peers = s.peers := rfl
@[simp] theorem State.modQuad_peerIndex (s : State) (q : Nat) (f : Quad → Quad) : (s.modQuad q f).peerIndex = s.peerIndex := rfl
@[simp] theorem State.modQuad_stalls (s : State) (q : Nat) (f : Quad → Quad) : (s.modQuad q f).stalls = s.stalls := rfl
@[simp] theorem State.modQuad_notifyBase (s : State) (q : Nat) (f : Quad → Quad) : (s.modQuad q f).notifyBase = s.notifyBase := rfl
@[simp] theorem State.modQuad_events (s : State) (q : Nat) (f : Quad → Quad) : (s.modQuad q f).events = s.events := rfl
@[simp] theorem State.modQuad_nextEvent (s : State) (q : Nat) (f : Quad → Quad) : (s.modQuad q f).nextEvent = s.nextEvent := rfl
@[simp] theorem State.modQuad_corrected (s : State) (q : Nat) (f : Quad → Quad) : (s.modQuad q f).corrected = s.corrected := rfl
@[simp] theorem State.modQuad_limit (s : State) (q : Nat) (f : Quad → Quad) : (s.modQuad q f).limit = s.limit := rfl

/-! modIsland. -/

@[simp] theorem State.modIsland_cur (s : State) (p : Nat) (f : Island → Island) : (s.modIsland p f).cur = s.cur := rfl
@[simp] theorem State.modIsland_curEl (s : State) (p : Nat) (f : Island → Island) : (s.modIsland p f).curEl = s.curEl := rfl
@[simp] theorem State.modIsland_sched (s : State) (p : Nat) (f : Island → Island) : (s.modIsland p f).sched = s.sched := rfl
@[simp] theorem State.modIsland_turns (s : State) (p : Nat) (f : Island → Island) : (s.modIsland p f).turns = s.turns := rfl
@[simp] theorem State.modIsland_nextStep (s : State) (p : Nat) (f : Island → Island) : (s.modIsland p f).nextStep = s.nextStep := rfl
@[simp] theorem State.modIsland_micros (s : State) (p : Nat) (f : Island → Island) : (s.modIsland p f).micros = s.micros := rfl
@[simp] theorem State.modIsland_bootAt (s : State) (p : Nat) (f : Island → Island) : (s.modIsland p f).bootAt = s.bootAt := rfl
@[simp] theorem State.modIsland_quietSince (s : State) (p : Nat) (f : Island → Island) : (s.modIsland p f).quietSince = s.quietSince := rfl
@[simp] theorem State.modIsland_mappedAt (s : State) (p : Nat) (f : Island → Island) : (s.modIsland p f).mappedAt = s.mappedAt := rfl
@[simp] theorem State.modIsland_deadlockAt (s : State) (p : Nat) (f : Island → Island) : (s.modIsland p f).deadlockAt = s.deadlockAt := rfl
@[simp] theorem State.modIsland_freeCtr (s : State) (p : Nat) (f : Island → Island) : (s.modIsland p f).freeCtr = s.freeCtr := rfl
@[simp] theorem State.modIsland_powered (s : State) (p : Nat) (f : Island → Island) : (s.modIsland p f).powered = s.powered := rfl
@[simp] theorem State.modIsland_mem (s : State) (p : Nat) (f : Island → Island) : (s.modIsland p f).mem = s.mem := rfl
@[simp] theorem State.modIsland_tags (s : State) (p : Nat) (f : Island → Island) : (s.modIsland p f).tags = s.tags := rfl
@[simp] theorem State.modIsland_full (s : State) (p : Nat) (f : Island → Island) : (s.modIsland p f).full = s.full := rfl
@[simp] theorem State.modIsland_poison (s : State) (p : Nat) (f : Island → Island) : (s.modIsland p f).poison = s.poison := rfl
@[simp] theorem State.modIsland_cores (s : State) (p : Nat) (f : Island → Island) : (s.modIsland p f).cores = s.cores := rfl
@[simp] theorem State.modIsland_quads (s : State) (p : Nat) (f : Island → Island) : (s.modIsland p f).quads = s.quads := rfl
@[simp] theorem State.modIsland_dies (s : State) (p : Nat) (f : Island → Island) : (s.modIsland p f).dies = s.dies := rfl
@[simp] theorem State.modIsland_jobs (s : State) (p : Nat) (f : Island → Island) : (s.modIsland p f).jobs = s.jobs := rfl
@[simp] theorem State.modIsland_queues (s : State) (p : Nat) (f : Island → Island) : (s.modIsland p f).queues = s.queues := rfl
@[simp] theorem State.modIsland_engines (s : State) (p : Nat) (f : Island → Island) : (s.modIsland p f).engines = s.engines := rfl
@[simp] theorem State.modIsland_fabrics (s : State) (p : Nat) (f : Island → Island) : (s.modIsland p f).fabrics = s.fabrics := rfl
@[simp] theorem State.modIsland_elements (s : State) (p : Nat) (f : Island → Island) : (s.modIsland p f).elements = s.elements := rfl
@[simp] theorem State.modIsland_fused (s : State) (p : Nat) (f : Island → Island) : (s.modIsland p f).fused = s.fused := rfl
@[simp] theorem State.modIsland_arrivals (s : State) (p : Nat) (f : Island → Island) : (s.modIsland p f).arrivals = s.arrivals := rfl
@[simp] theorem State.modIsland_host (s : State) (p : Nat) (f : Island → Island) : (s.modIsland p f).host = s.host := rfl
@[simp] theorem State.modIsland_links (s : State) (p : Nat) (f : Island → Island) : (s.modIsland p f).links = s.links := rfl
@[simp] theorem State.modIsland_peers (s : State) (p : Nat) (f : Island → Island) : (s.modIsland p f).peers = s.peers := rfl
@[simp] theorem State.modIsland_peerIndex (s : State) (p : Nat) (f : Island → Island) : (s.modIsland p f).peerIndex = s.peerIndex := rfl
@[simp] theorem State.modIsland_stalls (s : State) (p : Nat) (f : Island → Island) : (s.modIsland p f).stalls = s.stalls := rfl
@[simp] theorem State.modIsland_notifyBase (s : State) (p : Nat) (f : Island → Island) : (s.modIsland p f).notifyBase = s.notifyBase := rfl
@[simp] theorem State.modIsland_events (s : State) (p : Nat) (f : Island → Island) : (s.modIsland p f).events = s.events := rfl
@[simp] theorem State.modIsland_nextEvent (s : State) (p : Nat) (f : Island → Island) : (s.modIsland p f).nextEvent = s.nextEvent := rfl
@[simp] theorem State.modIsland_corrected (s : State) (p : Nat) (f : Island → Island) : (s.modIsland p f).corrected = s.corrected := rfl
@[simp] theorem State.modIsland_limit (s : State) (p : Nat) (f : Island → Island) : (s.modIsland p f).limit = s.limit := rfl

/-! modDie. -/

@[simp] theorem State.modDie_cur (s : State) (d : Nat) (f : Die → Die) : (s.modDie d f).cur = s.cur := rfl
@[simp] theorem State.modDie_curEl (s : State) (d : Nat) (f : Die → Die) : (s.modDie d f).curEl = s.curEl := rfl
@[simp] theorem State.modDie_sched (s : State) (d : Nat) (f : Die → Die) : (s.modDie d f).sched = s.sched := rfl
@[simp] theorem State.modDie_turns (s : State) (d : Nat) (f : Die → Die) : (s.modDie d f).turns = s.turns := rfl
@[simp] theorem State.modDie_nextStep (s : State) (d : Nat) (f : Die → Die) : (s.modDie d f).nextStep = s.nextStep := rfl
@[simp] theorem State.modDie_micros (s : State) (d : Nat) (f : Die → Die) : (s.modDie d f).micros = s.micros := rfl
@[simp] theorem State.modDie_bootAt (s : State) (d : Nat) (f : Die → Die) : (s.modDie d f).bootAt = s.bootAt := rfl
@[simp] theorem State.modDie_quietSince (s : State) (d : Nat) (f : Die → Die) : (s.modDie d f).quietSince = s.quietSince := rfl
@[simp] theorem State.modDie_mappedAt (s : State) (d : Nat) (f : Die → Die) : (s.modDie d f).mappedAt = s.mappedAt := rfl
@[simp] theorem State.modDie_deadlockAt (s : State) (d : Nat) (f : Die → Die) : (s.modDie d f).deadlockAt = s.deadlockAt := rfl
@[simp] theorem State.modDie_freeCtr (s : State) (d : Nat) (f : Die → Die) : (s.modDie d f).freeCtr = s.freeCtr := rfl
@[simp] theorem State.modDie_powered (s : State) (d : Nat) (f : Die → Die) : (s.modDie d f).powered = s.powered := rfl
@[simp] theorem State.modDie_mem (s : State) (d : Nat) (f : Die → Die) : (s.modDie d f).mem = s.mem := rfl
@[simp] theorem State.modDie_tags (s : State) (d : Nat) (f : Die → Die) : (s.modDie d f).tags = s.tags := rfl
@[simp] theorem State.modDie_full (s : State) (d : Nat) (f : Die → Die) : (s.modDie d f).full = s.full := rfl
@[simp] theorem State.modDie_poison (s : State) (d : Nat) (f : Die → Die) : (s.modDie d f).poison = s.poison := rfl
@[simp] theorem State.modDie_cores (s : State) (d : Nat) (f : Die → Die) : (s.modDie d f).cores = s.cores := rfl
@[simp] theorem State.modDie_quads (s : State) (d : Nat) (f : Die → Die) : (s.modDie d f).quads = s.quads := rfl
@[simp] theorem State.modDie_islands (s : State) (d : Nat) (f : Die → Die) : (s.modDie d f).islands = s.islands := rfl
@[simp] theorem State.modDie_jobs (s : State) (d : Nat) (f : Die → Die) : (s.modDie d f).jobs = s.jobs := rfl
@[simp] theorem State.modDie_queues (s : State) (d : Nat) (f : Die → Die) : (s.modDie d f).queues = s.queues := rfl
@[simp] theorem State.modDie_engines (s : State) (d : Nat) (f : Die → Die) : (s.modDie d f).engines = s.engines := rfl
@[simp] theorem State.modDie_fabrics (s : State) (d : Nat) (f : Die → Die) : (s.modDie d f).fabrics = s.fabrics := rfl
@[simp] theorem State.modDie_elements (s : State) (d : Nat) (f : Die → Die) : (s.modDie d f).elements = s.elements := rfl
@[simp] theorem State.modDie_fused (s : State) (d : Nat) (f : Die → Die) : (s.modDie d f).fused = s.fused := rfl
@[simp] theorem State.modDie_arrivals (s : State) (d : Nat) (f : Die → Die) : (s.modDie d f).arrivals = s.arrivals := rfl
@[simp] theorem State.modDie_host (s : State) (d : Nat) (f : Die → Die) : (s.modDie d f).host = s.host := rfl
@[simp] theorem State.modDie_links (s : State) (d : Nat) (f : Die → Die) : (s.modDie d f).links = s.links := rfl
@[simp] theorem State.modDie_peers (s : State) (d : Nat) (f : Die → Die) : (s.modDie d f).peers = s.peers := rfl
@[simp] theorem State.modDie_peerIndex (s : State) (d : Nat) (f : Die → Die) : (s.modDie d f).peerIndex = s.peerIndex := rfl
@[simp] theorem State.modDie_stalls (s : State) (d : Nat) (f : Die → Die) : (s.modDie d f).stalls = s.stalls := rfl
@[simp] theorem State.modDie_notifyBase (s : State) (d : Nat) (f : Die → Die) : (s.modDie d f).notifyBase = s.notifyBase := rfl
@[simp] theorem State.modDie_events (s : State) (d : Nat) (f : Die → Die) : (s.modDie d f).events = s.events := rfl
@[simp] theorem State.modDie_nextEvent (s : State) (d : Nat) (f : Die → Die) : (s.modDie d f).nextEvent = s.nextEvent := rfl
@[simp] theorem State.modDie_corrected (s : State) (d : Nat) (f : Die → Die) : (s.modDie d f).corrected = s.corrected := rfl
@[simp] theorem State.modDie_limit (s : State) (d : Nat) (f : Die → Die) : (s.modDie d f).limit = s.limit := rfl

/-! setQueue. -/

@[simp] theorem State.setQueue_cur (s : State) (q : Nat) (x : Queue) : (s.setQueue q x).cur = s.cur := rfl
@[simp] theorem State.setQueue_curEl (s : State) (q : Nat) (x : Queue) : (s.setQueue q x).curEl = s.curEl := rfl
@[simp] theorem State.setQueue_sched (s : State) (q : Nat) (x : Queue) : (s.setQueue q x).sched = s.sched := rfl
@[simp] theorem State.setQueue_turns (s : State) (q : Nat) (x : Queue) : (s.setQueue q x).turns = s.turns := rfl
@[simp] theorem State.setQueue_nextStep (s : State) (q : Nat) (x : Queue) : (s.setQueue q x).nextStep = s.nextStep := rfl
@[simp] theorem State.setQueue_micros (s : State) (q : Nat) (x : Queue) : (s.setQueue q x).micros = s.micros := rfl
@[simp] theorem State.setQueue_bootAt (s : State) (q : Nat) (x : Queue) : (s.setQueue q x).bootAt = s.bootAt := rfl
@[simp] theorem State.setQueue_quietSince (s : State) (q : Nat) (x : Queue) : (s.setQueue q x).quietSince = s.quietSince := rfl
@[simp] theorem State.setQueue_mappedAt (s : State) (q : Nat) (x : Queue) : (s.setQueue q x).mappedAt = s.mappedAt := rfl
@[simp] theorem State.setQueue_deadlockAt (s : State) (q : Nat) (x : Queue) : (s.setQueue q x).deadlockAt = s.deadlockAt := rfl
@[simp] theorem State.setQueue_freeCtr (s : State) (q : Nat) (x : Queue) : (s.setQueue q x).freeCtr = s.freeCtr := rfl
@[simp] theorem State.setQueue_powered (s : State) (q : Nat) (x : Queue) : (s.setQueue q x).powered = s.powered := rfl
@[simp] theorem State.setQueue_mem (s : State) (q : Nat) (x : Queue) : (s.setQueue q x).mem = s.mem := rfl
@[simp] theorem State.setQueue_tags (s : State) (q : Nat) (x : Queue) : (s.setQueue q x).tags = s.tags := rfl
@[simp] theorem State.setQueue_full (s : State) (q : Nat) (x : Queue) : (s.setQueue q x).full = s.full := rfl
@[simp] theorem State.setQueue_poison (s : State) (q : Nat) (x : Queue) : (s.setQueue q x).poison = s.poison := rfl
@[simp] theorem State.setQueue_cores (s : State) (q : Nat) (x : Queue) : (s.setQueue q x).cores = s.cores := rfl
@[simp] theorem State.setQueue_quads (s : State) (q : Nat) (x : Queue) : (s.setQueue q x).quads = s.quads := rfl
@[simp] theorem State.setQueue_islands (s : State) (q : Nat) (x : Queue) : (s.setQueue q x).islands = s.islands := rfl
@[simp] theorem State.setQueue_dies (s : State) (q : Nat) (x : Queue) : (s.setQueue q x).dies = s.dies := rfl
@[simp] theorem State.setQueue_jobs (s : State) (q : Nat) (x : Queue) : (s.setQueue q x).jobs = s.jobs := rfl
@[simp] theorem State.setQueue_engines (s : State) (q : Nat) (x : Queue) : (s.setQueue q x).engines = s.engines := rfl
@[simp] theorem State.setQueue_fabrics (s : State) (q : Nat) (x : Queue) : (s.setQueue q x).fabrics = s.fabrics := rfl
@[simp] theorem State.setQueue_elements (s : State) (q : Nat) (x : Queue) : (s.setQueue q x).elements = s.elements := rfl
@[simp] theorem State.setQueue_fused (s : State) (q : Nat) (x : Queue) : (s.setQueue q x).fused = s.fused := rfl
@[simp] theorem State.setQueue_arrivals (s : State) (q : Nat) (x : Queue) : (s.setQueue q x).arrivals = s.arrivals := rfl
@[simp] theorem State.setQueue_host (s : State) (q : Nat) (x : Queue) : (s.setQueue q x).host = s.host := rfl
@[simp] theorem State.setQueue_links (s : State) (q : Nat) (x : Queue) : (s.setQueue q x).links = s.links := rfl
@[simp] theorem State.setQueue_peers (s : State) (q : Nat) (x : Queue) : (s.setQueue q x).peers = s.peers := rfl
@[simp] theorem State.setQueue_peerIndex (s : State) (q : Nat) (x : Queue) : (s.setQueue q x).peerIndex = s.peerIndex := rfl
@[simp] theorem State.setQueue_stalls (s : State) (q : Nat) (x : Queue) : (s.setQueue q x).stalls = s.stalls := rfl
@[simp] theorem State.setQueue_notifyBase (s : State) (q : Nat) (x : Queue) : (s.setQueue q x).notifyBase = s.notifyBase := rfl
@[simp] theorem State.setQueue_events (s : State) (q : Nat) (x : Queue) : (s.setQueue q x).events = s.events := rfl
@[simp] theorem State.setQueue_nextEvent (s : State) (q : Nat) (x : Queue) : (s.setQueue q x).nextEvent = s.nextEvent := rfl
@[simp] theorem State.setQueue_corrected (s : State) (q : Nat) (x : Queue) : (s.setQueue q x).corrected = s.corrected := rfl
@[simp] theorem State.setQueue_limit (s : State) (q : Nat) (x : Queue) : (s.setQueue q x).limit = s.limit := rfl

/-! tick. -/

@[simp] theorem State.tick_cur (s : State) : (s.tick).cur = s.cur := rfl
@[simp] theorem State.tick_curEl (s : State) : (s.tick).curEl = s.curEl := rfl
@[simp] theorem State.tick_sched (s : State) : (s.tick).sched = s.sched := rfl
@[simp] theorem State.tick_turns (s : State) : (s.tick).turns = s.turns := rfl
@[simp] theorem State.tick_nextStep (s : State) : (s.tick).nextStep = s.nextStep := rfl
@[simp] theorem State.tick_micros (s : State) : (s.tick).micros = s.micros := rfl
@[simp] theorem State.tick_bootAt (s : State) : (s.tick).bootAt = s.bootAt := rfl
@[simp] theorem State.tick_quietSince (s : State) : (s.tick).quietSince = s.quietSince := rfl
@[simp] theorem State.tick_mappedAt (s : State) : (s.tick).mappedAt = s.mappedAt := rfl
@[simp] theorem State.tick_deadlockAt (s : State) : (s.tick).deadlockAt = s.deadlockAt := rfl
@[simp] theorem State.tick_powered (s : State) : (s.tick).powered = s.powered := rfl
@[simp] theorem State.tick_mem (s : State) : (s.tick).mem = s.mem := rfl
@[simp] theorem State.tick_tags (s : State) : (s.tick).tags = s.tags := rfl
@[simp] theorem State.tick_full (s : State) : (s.tick).full = s.full := rfl
@[simp] theorem State.tick_poison (s : State) : (s.tick).poison = s.poison := rfl
@[simp] theorem State.tick_cores (s : State) : (s.tick).cores = s.cores := rfl
@[simp] theorem State.tick_quads (s : State) : (s.tick).quads = s.quads := rfl
@[simp] theorem State.tick_islands (s : State) : (s.tick).islands = s.islands := rfl
@[simp] theorem State.tick_dies (s : State) : (s.tick).dies = s.dies := rfl
@[simp] theorem State.tick_jobs (s : State) : (s.tick).jobs = s.jobs := rfl
@[simp] theorem State.tick_queues (s : State) : (s.tick).queues = s.queues := rfl
@[simp] theorem State.tick_engines (s : State) : (s.tick).engines = s.engines := rfl
@[simp] theorem State.tick_fabrics (s : State) : (s.tick).fabrics = s.fabrics := rfl
@[simp] theorem State.tick_elements (s : State) : (s.tick).elements = s.elements := rfl
@[simp] theorem State.tick_fused (s : State) : (s.tick).fused = s.fused := rfl
@[simp] theorem State.tick_arrivals (s : State) : (s.tick).arrivals = s.arrivals := rfl
@[simp] theorem State.tick_host (s : State) : (s.tick).host = s.host := rfl
@[simp] theorem State.tick_links (s : State) : (s.tick).links = s.links := rfl
@[simp] theorem State.tick_peers (s : State) : (s.tick).peers = s.peers := rfl
@[simp] theorem State.tick_peerIndex (s : State) : (s.tick).peerIndex = s.peerIndex := rfl
@[simp] theorem State.tick_stalls (s : State) : (s.tick).stalls = s.stalls := rfl
@[simp] theorem State.tick_notifyBase (s : State) : (s.tick).notifyBase = s.notifyBase := rfl
@[simp] theorem State.tick_events (s : State) : (s.tick).events = s.events := rfl
@[simp] theorem State.tick_nextEvent (s : State) : (s.tick).nextEvent = s.nextEvent := rfl
@[simp] theorem State.tick_corrected (s : State) : (s.tick).corrected = s.corrected := rfl
@[simp] theorem State.tick_limit (s : State) : (s.tick).limit = s.limit := rfl

/-! modQueue. -/

@[simp] theorem State.modQueue_cur (s : State) (q : Nat) (f : Queue → Queue) : (s.modQueue q f).cur = s.cur := by unfold State.modQueue; split <;> rfl
@[simp] theorem State.modQueue_curEl (s : State) (q : Nat) (f : Queue → Queue) : (s.modQueue q f).curEl = s.curEl := by unfold State.modQueue; split <;> rfl
@[simp] theorem State.modQueue_sched (s : State) (q : Nat) (f : Queue → Queue) : (s.modQueue q f).sched = s.sched := by unfold State.modQueue; split <;> rfl
@[simp] theorem State.modQueue_turns (s : State) (q : Nat) (f : Queue → Queue) : (s.modQueue q f).turns = s.turns := by unfold State.modQueue; split <;> rfl
@[simp] theorem State.modQueue_nextStep (s : State) (q : Nat) (f : Queue → Queue) : (s.modQueue q f).nextStep = s.nextStep := by unfold State.modQueue; split <;> rfl
@[simp] theorem State.modQueue_micros (s : State) (q : Nat) (f : Queue → Queue) : (s.modQueue q f).micros = s.micros := by unfold State.modQueue; split <;> rfl
@[simp] theorem State.modQueue_bootAt (s : State) (q : Nat) (f : Queue → Queue) : (s.modQueue q f).bootAt = s.bootAt := by unfold State.modQueue; split <;> rfl
@[simp] theorem State.modQueue_quietSince (s : State) (q : Nat) (f : Queue → Queue) : (s.modQueue q f).quietSince = s.quietSince := by unfold State.modQueue; split <;> rfl
@[simp] theorem State.modQueue_mappedAt (s : State) (q : Nat) (f : Queue → Queue) : (s.modQueue q f).mappedAt = s.mappedAt := by unfold State.modQueue; split <;> rfl
@[simp] theorem State.modQueue_deadlockAt (s : State) (q : Nat) (f : Queue → Queue) : (s.modQueue q f).deadlockAt = s.deadlockAt := by unfold State.modQueue; split <;> rfl
@[simp] theorem State.modQueue_freeCtr (s : State) (q : Nat) (f : Queue → Queue) : (s.modQueue q f).freeCtr = s.freeCtr := by unfold State.modQueue; split <;> rfl
@[simp] theorem State.modQueue_powered (s : State) (q : Nat) (f : Queue → Queue) : (s.modQueue q f).powered = s.powered := by unfold State.modQueue; split <;> rfl
@[simp] theorem State.modQueue_mem (s : State) (q : Nat) (f : Queue → Queue) : (s.modQueue q f).mem = s.mem := by unfold State.modQueue; split <;> rfl
@[simp] theorem State.modQueue_tags (s : State) (q : Nat) (f : Queue → Queue) : (s.modQueue q f).tags = s.tags := by unfold State.modQueue; split <;> rfl
@[simp] theorem State.modQueue_full (s : State) (q : Nat) (f : Queue → Queue) : (s.modQueue q f).full = s.full := by unfold State.modQueue; split <;> rfl
@[simp] theorem State.modQueue_poison (s : State) (q : Nat) (f : Queue → Queue) : (s.modQueue q f).poison = s.poison := by unfold State.modQueue; split <;> rfl
@[simp] theorem State.modQueue_cores (s : State) (q : Nat) (f : Queue → Queue) : (s.modQueue q f).cores = s.cores := by unfold State.modQueue; split <;> rfl
@[simp] theorem State.modQueue_quads (s : State) (q : Nat) (f : Queue → Queue) : (s.modQueue q f).quads = s.quads := by unfold State.modQueue; split <;> rfl
@[simp] theorem State.modQueue_islands (s : State) (q : Nat) (f : Queue → Queue) : (s.modQueue q f).islands = s.islands := by unfold State.modQueue; split <;> rfl
@[simp] theorem State.modQueue_dies (s : State) (q : Nat) (f : Queue → Queue) : (s.modQueue q f).dies = s.dies := by unfold State.modQueue; split <;> rfl
@[simp] theorem State.modQueue_jobs (s : State) (q : Nat) (f : Queue → Queue) : (s.modQueue q f).jobs = s.jobs := by unfold State.modQueue; split <;> rfl
@[simp] theorem State.modQueue_engines (s : State) (q : Nat) (f : Queue → Queue) : (s.modQueue q f).engines = s.engines := by unfold State.modQueue; split <;> rfl
@[simp] theorem State.modQueue_fabrics (s : State) (q : Nat) (f : Queue → Queue) : (s.modQueue q f).fabrics = s.fabrics := by unfold State.modQueue; split <;> rfl
@[simp] theorem State.modQueue_elements (s : State) (q : Nat) (f : Queue → Queue) : (s.modQueue q f).elements = s.elements := by unfold State.modQueue; split <;> rfl
@[simp] theorem State.modQueue_fused (s : State) (q : Nat) (f : Queue → Queue) : (s.modQueue q f).fused = s.fused := by unfold State.modQueue; split <;> rfl
@[simp] theorem State.modQueue_arrivals (s : State) (q : Nat) (f : Queue → Queue) : (s.modQueue q f).arrivals = s.arrivals := by unfold State.modQueue; split <;> rfl
@[simp] theorem State.modQueue_host (s : State) (q : Nat) (f : Queue → Queue) : (s.modQueue q f).host = s.host := by unfold State.modQueue; split <;> rfl
@[simp] theorem State.modQueue_links (s : State) (q : Nat) (f : Queue → Queue) : (s.modQueue q f).links = s.links := by unfold State.modQueue; split <;> rfl
@[simp] theorem State.modQueue_peers (s : State) (q : Nat) (f : Queue → Queue) : (s.modQueue q f).peers = s.peers := by unfold State.modQueue; split <;> rfl
@[simp] theorem State.modQueue_peerIndex (s : State) (q : Nat) (f : Queue → Queue) : (s.modQueue q f).peerIndex = s.peerIndex := by unfold State.modQueue; split <;> rfl
@[simp] theorem State.modQueue_stalls (s : State) (q : Nat) (f : Queue → Queue) : (s.modQueue q f).stalls = s.stalls := by unfold State.modQueue; split <;> rfl
@[simp] theorem State.modQueue_notifyBase (s : State) (q : Nat) (f : Queue → Queue) : (s.modQueue q f).notifyBase = s.notifyBase := by unfold State.modQueue; split <;> rfl
@[simp] theorem State.modQueue_events (s : State) (q : Nat) (f : Queue → Queue) : (s.modQueue q f).events = s.events := by unfold State.modQueue; split <;> rfl
@[simp] theorem State.modQueue_nextEvent (s : State) (q : Nat) (f : Queue → Queue) : (s.modQueue q f).nextEvent = s.nextEvent := by unfold State.modQueue; split <;> rfl
@[simp] theorem State.modQueue_corrected (s : State) (q : Nat) (f : Queue → Queue) : (s.modQueue q f).corrected = s.corrected := by unfold State.modQueue; split <;> rfl
@[simp] theorem State.modQueue_limit (s : State) (q : Nat) (f : Queue → Queue) : (s.modQueue q f).limit = s.limit := by unfold State.modQueue; split <;> rfl

/-! modFab. -/

@[simp] theorem State.modFab_cur (s : State) (f : Nat) (g : FabTile → FabTile) : (s.modFab f g).cur = s.cur := by unfold State.modFab; split <;> rfl
@[simp] theorem State.modFab_curEl (s : State) (f : Nat) (g : FabTile → FabTile) : (s.modFab f g).curEl = s.curEl := by unfold State.modFab; split <;> rfl
@[simp] theorem State.modFab_sched (s : State) (f : Nat) (g : FabTile → FabTile) : (s.modFab f g).sched = s.sched := by unfold State.modFab; split <;> rfl
@[simp] theorem State.modFab_turns (s : State) (f : Nat) (g : FabTile → FabTile) : (s.modFab f g).turns = s.turns := by unfold State.modFab; split <;> rfl
@[simp] theorem State.modFab_nextStep (s : State) (f : Nat) (g : FabTile → FabTile) : (s.modFab f g).nextStep = s.nextStep := by unfold State.modFab; split <;> rfl
@[simp] theorem State.modFab_micros (s : State) (f : Nat) (g : FabTile → FabTile) : (s.modFab f g).micros = s.micros := by unfold State.modFab; split <;> rfl
@[simp] theorem State.modFab_bootAt (s : State) (f : Nat) (g : FabTile → FabTile) : (s.modFab f g).bootAt = s.bootAt := by unfold State.modFab; split <;> rfl
@[simp] theorem State.modFab_quietSince (s : State) (f : Nat) (g : FabTile → FabTile) : (s.modFab f g).quietSince = s.quietSince := by unfold State.modFab; split <;> rfl
@[simp] theorem State.modFab_mappedAt (s : State) (f : Nat) (g : FabTile → FabTile) : (s.modFab f g).mappedAt = s.mappedAt := by unfold State.modFab; split <;> rfl
@[simp] theorem State.modFab_deadlockAt (s : State) (f : Nat) (g : FabTile → FabTile) : (s.modFab f g).deadlockAt = s.deadlockAt := by unfold State.modFab; split <;> rfl
@[simp] theorem State.modFab_freeCtr (s : State) (f : Nat) (g : FabTile → FabTile) : (s.modFab f g).freeCtr = s.freeCtr := by unfold State.modFab; split <;> rfl
@[simp] theorem State.modFab_powered (s : State) (f : Nat) (g : FabTile → FabTile) : (s.modFab f g).powered = s.powered := by unfold State.modFab; split <;> rfl
@[simp] theorem State.modFab_mem (s : State) (f : Nat) (g : FabTile → FabTile) : (s.modFab f g).mem = s.mem := by unfold State.modFab; split <;> rfl
@[simp] theorem State.modFab_tags (s : State) (f : Nat) (g : FabTile → FabTile) : (s.modFab f g).tags = s.tags := by unfold State.modFab; split <;> rfl
@[simp] theorem State.modFab_full (s : State) (f : Nat) (g : FabTile → FabTile) : (s.modFab f g).full = s.full := by unfold State.modFab; split <;> rfl
@[simp] theorem State.modFab_poison (s : State) (f : Nat) (g : FabTile → FabTile) : (s.modFab f g).poison = s.poison := by unfold State.modFab; split <;> rfl
@[simp] theorem State.modFab_cores (s : State) (f : Nat) (g : FabTile → FabTile) : (s.modFab f g).cores = s.cores := by unfold State.modFab; split <;> rfl
@[simp] theorem State.modFab_quads (s : State) (f : Nat) (g : FabTile → FabTile) : (s.modFab f g).quads = s.quads := by unfold State.modFab; split <;> rfl
@[simp] theorem State.modFab_islands (s : State) (f : Nat) (g : FabTile → FabTile) : (s.modFab f g).islands = s.islands := by unfold State.modFab; split <;> rfl
@[simp] theorem State.modFab_dies (s : State) (f : Nat) (g : FabTile → FabTile) : (s.modFab f g).dies = s.dies := by unfold State.modFab; split <;> rfl
@[simp] theorem State.modFab_jobs (s : State) (f : Nat) (g : FabTile → FabTile) : (s.modFab f g).jobs = s.jobs := by unfold State.modFab; split <;> rfl
@[simp] theorem State.modFab_queues (s : State) (f : Nat) (g : FabTile → FabTile) : (s.modFab f g).queues = s.queues := by unfold State.modFab; split <;> rfl
@[simp] theorem State.modFab_engines (s : State) (f : Nat) (g : FabTile → FabTile) : (s.modFab f g).engines = s.engines := by unfold State.modFab; split <;> rfl
@[simp] theorem State.modFab_elements (s : State) (f : Nat) (g : FabTile → FabTile) : (s.modFab f g).elements = s.elements := by unfold State.modFab; split <;> rfl
@[simp] theorem State.modFab_fused (s : State) (f : Nat) (g : FabTile → FabTile) : (s.modFab f g).fused = s.fused := by unfold State.modFab; split <;> rfl
@[simp] theorem State.modFab_arrivals (s : State) (f : Nat) (g : FabTile → FabTile) : (s.modFab f g).arrivals = s.arrivals := by unfold State.modFab; split <;> rfl
@[simp] theorem State.modFab_host (s : State) (f : Nat) (g : FabTile → FabTile) : (s.modFab f g).host = s.host := by unfold State.modFab; split <;> rfl
@[simp] theorem State.modFab_links (s : State) (f : Nat) (g : FabTile → FabTile) : (s.modFab f g).links = s.links := by unfold State.modFab; split <;> rfl
@[simp] theorem State.modFab_peers (s : State) (f : Nat) (g : FabTile → FabTile) : (s.modFab f g).peers = s.peers := by unfold State.modFab; split <;> rfl
@[simp] theorem State.modFab_peerIndex (s : State) (f : Nat) (g : FabTile → FabTile) : (s.modFab f g).peerIndex = s.peerIndex := by unfold State.modFab; split <;> rfl
@[simp] theorem State.modFab_stalls (s : State) (f : Nat) (g : FabTile → FabTile) : (s.modFab f g).stalls = s.stalls := by unfold State.modFab; split <;> rfl
@[simp] theorem State.modFab_notifyBase (s : State) (f : Nat) (g : FabTile → FabTile) : (s.modFab f g).notifyBase = s.notifyBase := by unfold State.modFab; split <;> rfl
@[simp] theorem State.modFab_events (s : State) (f : Nat) (g : FabTile → FabTile) : (s.modFab f g).events = s.events := by unfold State.modFab; split <;> rfl
@[simp] theorem State.modFab_nextEvent (s : State) (f : Nat) (g : FabTile → FabTile) : (s.modFab f g).nextEvent = s.nextEvent := by unfold State.modFab; split <;> rfl
@[simp] theorem State.modFab_corrected (s : State) (f : Nat) (g : FabTile → FabTile) : (s.modFab f g).corrected = s.corrected := by unfold State.modFab; split <;> rfl
@[simp] theorem State.modFab_limit (s : State) (f : Nat) (g : FabTile → FabTile) : (s.modFab f g).limit = s.limit := by unfold State.modFab; split <;> rfl

/-! poke. -/

@[simp] theorem State.poke_cur (s : State) (a : Nat) (bs : List Byte) : (s.poke a bs).cur = s.cur := rfl
@[simp] theorem State.poke_curEl (s : State) (a : Nat) (bs : List Byte) : (s.poke a bs).curEl = s.curEl := rfl
@[simp] theorem State.poke_sched (s : State) (a : Nat) (bs : List Byte) : (s.poke a bs).sched = s.sched := rfl
@[simp] theorem State.poke_turns (s : State) (a : Nat) (bs : List Byte) : (s.poke a bs).turns = s.turns := rfl
@[simp] theorem State.poke_nextStep (s : State) (a : Nat) (bs : List Byte) : (s.poke a bs).nextStep = s.nextStep := rfl
@[simp] theorem State.poke_micros (s : State) (a : Nat) (bs : List Byte) : (s.poke a bs).micros = s.micros := rfl
@[simp] theorem State.poke_bootAt (s : State) (a : Nat) (bs : List Byte) : (s.poke a bs).bootAt = s.bootAt := rfl
@[simp] theorem State.poke_quietSince (s : State) (a : Nat) (bs : List Byte) : (s.poke a bs).quietSince = s.quietSince := rfl
@[simp] theorem State.poke_mappedAt (s : State) (a : Nat) (bs : List Byte) : (s.poke a bs).mappedAt = s.mappedAt := rfl
@[simp] theorem State.poke_deadlockAt (s : State) (a : Nat) (bs : List Byte) : (s.poke a bs).deadlockAt = s.deadlockAt := rfl
@[simp] theorem State.poke_freeCtr (s : State) (a : Nat) (bs : List Byte) : (s.poke a bs).freeCtr = s.freeCtr := rfl
@[simp] theorem State.poke_powered (s : State) (a : Nat) (bs : List Byte) : (s.poke a bs).powered = s.powered := rfl
@[simp] theorem State.poke_full (s : State) (a : Nat) (bs : List Byte) : (s.poke a bs).full = s.full := rfl
@[simp] theorem State.poke_cores (s : State) (a : Nat) (bs : List Byte) : (s.poke a bs).cores = s.cores := rfl
@[simp] theorem State.poke_quads (s : State) (a : Nat) (bs : List Byte) : (s.poke a bs).quads = s.quads := rfl
@[simp] theorem State.poke_islands (s : State) (a : Nat) (bs : List Byte) : (s.poke a bs).islands = s.islands := rfl
@[simp] theorem State.poke_dies (s : State) (a : Nat) (bs : List Byte) : (s.poke a bs).dies = s.dies := rfl
@[simp] theorem State.poke_jobs (s : State) (a : Nat) (bs : List Byte) : (s.poke a bs).jobs = s.jobs := rfl
@[simp] theorem State.poke_queues (s : State) (a : Nat) (bs : List Byte) : (s.poke a bs).queues = s.queues := rfl
@[simp] theorem State.poke_engines (s : State) (a : Nat) (bs : List Byte) : (s.poke a bs).engines = s.engines := rfl
@[simp] theorem State.poke_fabrics (s : State) (a : Nat) (bs : List Byte) : (s.poke a bs).fabrics = s.fabrics := rfl
@[simp] theorem State.poke_elements (s : State) (a : Nat) (bs : List Byte) : (s.poke a bs).elements = s.elements := rfl
@[simp] theorem State.poke_fused (s : State) (a : Nat) (bs : List Byte) : (s.poke a bs).fused = s.fused := rfl
@[simp] theorem State.poke_arrivals (s : State) (a : Nat) (bs : List Byte) : (s.poke a bs).arrivals = s.arrivals := rfl
@[simp] theorem State.poke_host (s : State) (a : Nat) (bs : List Byte) : (s.poke a bs).host = s.host := rfl
@[simp] theorem State.poke_links (s : State) (a : Nat) (bs : List Byte) : (s.poke a bs).links = s.links := rfl
@[simp] theorem State.poke_peers (s : State) (a : Nat) (bs : List Byte) : (s.poke a bs).peers = s.peers := rfl
@[simp] theorem State.poke_peerIndex (s : State) (a : Nat) (bs : List Byte) : (s.poke a bs).peerIndex = s.peerIndex := rfl
@[simp] theorem State.poke_stalls (s : State) (a : Nat) (bs : List Byte) : (s.poke a bs).stalls = s.stalls := rfl
@[simp] theorem State.poke_notifyBase (s : State) (a : Nat) (bs : List Byte) : (s.poke a bs).notifyBase = s.notifyBase := rfl
@[simp] theorem State.poke_events (s : State) (a : Nat) (bs : List Byte) : (s.poke a bs).events = s.events := rfl
@[simp] theorem State.poke_nextEvent (s : State) (a : Nat) (bs : List Byte) : (s.poke a bs).nextEvent = s.nextEvent := rfl
@[simp] theorem State.poke_corrected (s : State) (a : Nat) (bs : List Byte) : (s.poke a bs).corrected = s.corrected := rfl
@[simp] theorem State.poke_limit (s : State) (a : Nat) (bs : List Byte) : (s.poke a bs).limit = s.limit := rfl

/-! Reading back. -/

@[simp] theorem State.core_setCore (s : State) (c d : Nat) (x : Core) :
    (s.setCore c x).core d = if d = c then x else s.core d := mapGet_mapPut ..

@[simp] theorem State.core_modCore (s : State) (c d : Nat) (f : Core → Core) :
    (s.modCore c f).core d = if d = c then f (s.core c) else s.core d := mapGet_mapPut ..

@[simp] theorem State.core_modCtx (s : State) (c d : Nat) (x : Fin 4) (f : Ctx → Ctx) :
    (s.modCtx c x f).core d = if d = c then (s.core c).setCtx x (f (s.ctx c x)) else s.core d := mapGet_mapPut ..

@[simp] theorem State.core_modMy (s : State) (d : Nat) (f : Ctx → Ctx) :
    (s.modMy f).core d = if d = s.cur.1 then (s.core s.cur).setCtx s.me (f s.my) else s.core d := mapGet_mapPut ..

@[simp] theorem Core.setCtx_get (k : Core) (x z : Fin 4) (y : Ctx) :
    (k.setCtx x y).ctxs.get z = if z = x then y else k.ctxs.get z := vset_get ..

@[simp] theorem Core.setCtx_running (k : Core) (x : Fin 4) (y : Ctx) : (k.setCtx x y).running = k.running := rfl
@[simp] theorem Core.setCtx_clock (k : Core) (x : Fin 4) (y : Ctx) : (k.setCtx x y).clock = k.clock := rfl
@[simp] theorem Core.setCtx_rep (k : Core) (x : Fin 4) (y : Ctx) : (k.setCtx x y).rep = k.rep := rfl

@[simp] theorem State.me_modMy (s : State) (f : Ctx → Ctx) : (s.modMy f).me = s.me := by
  simp [State.me]

@[simp] theorem State.my_modMy (s : State) (f : Ctx → Ctx) : (s.modMy f).my = f s.my := by
  show ((s.modMy f).core s.cur).ctxs.get (s.modMy f).me = f s.my
  rw [State.me_modMy]; simp

/-- The clock of a core set to a cycle. -/
theorem State.my_clock (s : State) (n : Nat) : (s.modCore s.cur (fun k => { k with clock := n })).my = s.my := by
  simp [State.my, State.ctx, State.me]

theorem State.me_clock (s : State) (n : Nat) : (s.modCore s.cur (fun k => { k with clock := n })).me = s.me := by
  simp [State.me]

end Sys2Proof.Machine
end

