-- ==== Sys2Proof/Laws/Issue.lean ====
section
/-! SUPPORT. What issuing a core's word does, said once: a word that issues unhindered is done as its own operation says, and what
retiring leaves of every register, list and part of the state. -/
namespace Sys2Proof.Machine

/-! Registers and their results. -/

@[simp] theorem RegWrite.reg_g (r : Fin 32) (x : Dword) : (RegWrite.g r x).reg = some (.g r) := rfl
@[simp] theorem RegWrite.reg_v (r : Fin 32) (x : VReg) : (RegWrite.v r x).reg = some (.v r) := rfl
@[simp] theorem RegWrite.reg_vlo (r : Fin 32) (x : BitVec 512) : (RegWrite.vlo r x).reg = some (.v r) := rfl
@[simp] theorem RegWrite.reg_m (r : Fin 8) (x : Mask) : (RegWrite.m r x).reg = some (.m r) := rfl
@[simp] theorem RegWrite.reg_k (r : Fin 16) (c : Cap) : (RegWrite.k r c).reg = some (.k r) := rfl
@[simp] theorem RegWrite.reg_flags (x : BitVec 5) : (RegWrite.flags x).reg = none := rfl

/-- A write goes to `ws`, or to FPFLAGS where that may change. -/
def RegWrite.within (w : RegWrite) (ws : List RegId) (fp : Bool) : Prop := (∃ r ∈ ws, w.reg = some r) ∨ (fp = true ∧ w.reg = none)

theorem SameContext.refl (x : Ctx) (ws : List RegId) (fp : Bool) : SameContext x x ws fp where
  g _ _ := rfl
  v _ _ := rfl
  m _ _ := rfl
  k _ _ := rfl
  rest := rfl
  flags _ := rfl
  fixedKept _ h _ := h
  fixedNew _ h := .inl h
  varsKept _ h := h
  varsNew _ h := .inl h

theorem SameContext.trans {x y z : Ctx} {ws : List RegId} {fp : Bool} (h : SameContext x y ws fp) (j : SameContext y z ws fp) :
    SameContext x z ws fp where
  g r n := (j.g r n).trans (h.g r n)
  v r n := (j.v r n).trans (h.v r n)
  m r n := (j.m r n).trans (h.m r n)
  k r n := (j.k r n).trans (h.k r n)
  rest := by rw [j.rest, h.rest]
  flags f := (j.flags f).trans (h.flags f)
  fixedKept p hp n := j.fixedKept p (h.fixedKept p hp n) n
  fixedNew p hp := (j.fixedNew p hp).elim (h.fixedNew p) .inr
  varsKept p hp := j.varsKept p (h.varsKept p hp)
  varsNew p hp := (j.varsNew p hp).elim (h.varsNew p) .inr

/-- What a result written in its register changes. -/
theorem Ctx.apply_same (x : Ctx) (w : RegWrite) (ws : List RegId) (fp : Bool) (h : w.within ws fp) : SameContext x (x.apply w) ws fp := by
  have key : ∀ (y : Ctx), y.fixed = x.fixed → y.vars = x.vars →
      (∀ p ∈ x.fixed, (∀ r ∈ ws, p.write.reg ≠ some r) → p ∈ y.fixed) ∧
      (∀ p ∈ y.fixed, p ∈ x.fixed ∨ (∃ r ∈ ws, p.write.reg = some r) ∨ (fp = true ∧ p.write.reg = none)) ∧
      (∀ p ∈ x.vars, p ∈ y.vars) ∧ (∀ p ∈ y.vars, p ∈ x.vars ∨ p.reg ∈ ws) := by
    intro y hf hv; rw [hf, hv]; exact ⟨fun p hp _ => hp, fun p hp => .inl hp, fun p hp => hp, fun p hp => .inl hp⟩
  cases w with
  | flags f =>
    have hfp : fp = true := by rcases h with ⟨r, _, h⟩ | h; cases h; exact h.1
    obtain ⟨a, b, c, d⟩ := key (x.apply (.flags f)) rfl rfl
    exact ⟨fun _ _ => rfl, fun _ _ => rfl, fun _ _ => rfl, fun _ _ => rfl, rfl, by simp [hfp], a, b, c, d⟩
  | g r v =>
    have hr : .g r ∈ ws := by rcases h with ⟨q, hq, h⟩ | ⟨_, h⟩; cases h; exact hq; cases h
    simp only [Ctx.apply]
    split
    · exact .refl x ws fp
    · obtain ⟨a, b, c, d⟩ := key { x with g := vset x.g r v } rfl rfl
      exact ⟨fun q hq => by simp only [vset_get]; rw [if_neg]; rintro rfl; exact hq hr, fun _ _ => rfl, fun _ _ => rfl, fun _ _ => rfl,
        rfl, fun _ => rfl, a, b, c, d⟩
  | v r v =>
    have hr : .v r ∈ ws := by rcases h with ⟨q, hq, h⟩ | ⟨_, h⟩; cases h; exact hq; cases h
    obtain ⟨a, b, c, d⟩ := key (x.apply (.v r v)) rfl rfl
    exact ⟨fun _ _ => rfl, fun q hq => by simp only [Ctx.apply, vset_get]; rw [if_neg]; rintro rfl; exact hq hr, fun _ _ => rfl,
      fun _ _ => rfl, rfl, fun _ => rfl, a, b, c, d⟩
  | vlo r v =>
    have hr : .v r ∈ ws := by rcases h with ⟨q, hq, h⟩ | ⟨_, h⟩; cases h; exact hq; cases h
    obtain ⟨a, b, c, d⟩ := key (x.apply (.vlo r v)) rfl rfl
    exact ⟨fun _ _ => rfl, fun q hq => by simp only [Ctx.apply, vset_get]; rw [if_neg]; rintro rfl; exact hq hr, fun _ _ => rfl,
      fun _ _ => rfl, rfl, fun _ => rfl, a, b, c, d⟩
  | m r v =>
    have hr : .m r ∈ ws := by rcases h with ⟨q, hq, h⟩ | ⟨_, h⟩; cases h; exact hq; cases h
    obtain ⟨a, b, c, d⟩ := key (x.apply (.m r v)) rfl rfl
    exact ⟨fun _ _ => rfl, fun _ _ => rfl, fun q hq => by simp only [Ctx.apply, vset_get]; rw [if_neg]; rintro rfl; exact hq hr,
      fun _ _ => rfl, rfl, fun _ => rfl, a, b, c, d⟩
  | k r v =>
    have hr : .k r ∈ ws := by rcases h with ⟨q, hq, h⟩ | ⟨_, h⟩; cases h; exact hq; cases h
    simp only [Ctx.apply]
    split
    · exact .refl x ws fp
    · obtain ⟨a, b, c, d⟩ := key { x with k := vset x.k r v } rfl rfl
      exact ⟨fun _ _ => rfl, fun _ _ => rfl, fun _ _ => rfl, fun q hq => by simp only [vset_get]; rw [if_neg]; rintro rfl; exact hq hr,
        rfl, fun _ => rfl, a, b, c, d⟩

theorem mem_insertPend (p q : FixedPend) (l : List FixedPend) : q ∈ insertPend p l ↔ q = p ∨ q ∈ l := by
  induction l with
  | nil => simp [insertPend]
  | cons a r ih =>
    simp only [insertPend]
    split
    · simp
    · simp only [List.mem_cons, ih]; grind

/-- What a result of a fixed latency changes. -/
theorem Ctx.result_same (lat t : Nat) (x : Ctx) (w : RegWrite) (ws : List RegId) (fp : Bool) (h : w.within ws fp) :
    SameContext x (Ctx.result lat t x w) ws fp := by
  simp only [Ctx.result]
  split
  · refine SameContext.trans (y := { x with fixed := x.fixed.filter (fun p => decide (t + 1 < p.due) || p.write.reg != w.reg || w.reg == none) }) ⟨fun _ _ => rfl, fun _ _ => rfl, fun _ _ => rfl, fun _ _ => rfl, rfl, fun _ => rfl, ?_, ?_,
      fun _ hp => hp, fun _ hp => .inl hp⟩ (Ctx.apply_same _ w ws fp h)
    · intro p hp hn
      simp only [List.mem_filter, Bool.or_eq_true, decide_eq_true_eq, bne_iff_ne, beq_iff_eq]
      refine ⟨hp, ?_⟩
      rcases h with ⟨r, hr, hw⟩ | ⟨_, hw⟩
      · exact .inl (.inr (by rw [hw]; exact hn r hr))
      · exact .inr hw
    · intro p hp; exact .inl (List.mem_filter.1 hp).1
  · refine ⟨fun _ _ => rfl, fun _ _ => rfl, fun _ _ => rfl, fun _ _ => rfl, rfl, fun _ => rfl, ?_, ?_, fun _ hp => hp, fun _ hp => .inl hp⟩
    · intro p hp _; simp [mem_insertPend, hp]
    · intro p hp
      rcases (mem_insertPend ..).1 hp with rfl | hp
      · exact .inr h
      · exact .inl hp

/-- What a result of variable latency changes. -/
theorem Ctx.pend_same (x : Ctx) (w : RegWrite) (ws : List RegId) (fp : Bool) (h : w.within ws fp) : SameContext x (x.pend w) ws fp := by
  simp only [Ctx.pend]
  split
  · next r hr =>
    split
    · refine ⟨fun _ _ => rfl, fun _ _ => rfl, fun _ _ => rfl, fun _ _ => rfl, rfl, fun _ => rfl, fun _ hp _ => hp, fun _ hp => .inl hp,
        fun _ hp => by simp [hp], ?_⟩
      intro p hp
      simp only [List.mem_append, List.mem_singleton] at hp
      rcases hp with hp | rfl
      · exact .inl hp
      · rcases h with ⟨q, hq, h⟩ | ⟨_, h⟩
        · rw [hr] at h; cases h; exact .inr hq
        · rw [hr] at h; cases h
    · exact .refl x ws fp
  · exact Ctx.apply_same x w ws fp h

theorem foldl_same (f : Ctx → RegWrite → Ctx) (ws : List RegId) (fp : Bool) (hf : ∀ x w, w.within ws fp → SameContext x (f x w) ws fp)
    (l : List RegWrite) (x : Ctx) (h : ∀ w ∈ l, w.within ws fp) : SameContext x (l.foldl f x) ws fp := by
  induction l generalizing x with
  | nil => exact .refl x ws fp
  | cons w r ih => exact (hf x w (h w (by simp))).trans (ih _ (fun v hv => h v (by simp [hv])))

/-! Retiring. -/

/-- The context that a word leaves when it is done. -/
def Ctx.retired (x : Ctx) (t : Nat) (st lat : Nat) (fixed vars : List RegWrite) (npc : Option VAddr) : Ctx :=
  { (vars.foldl Ctx.pend (fixed.foldl (Ctx.result lat t) x)).met with
    pc := npc.getD (x.pc + 4), readyAt := t + 1 + st + (if npc.isSome then 1 else 0), since := none, waited := 0 }

theorem State.retire_eq (s : State) (st lat : Nat) (fixed vars : List RegWrite) (npc : Option VAddr) :
    s.retire st lat fixed vars npc
      = (s.modMy (fun x => x.retired s.now st lat fixed vars npc)).modCore s.cur (fun k => { k with clock := s.now + 1 }) := rfl

theorem State.retire_my (s : State) (st lat : Nat) (fixed vars : List RegWrite) (npc : Option VAddr) :
    (s.retire st lat fixed vars npc).my = s.my.retired s.now st lat fixed vars npc :=
  (State.my_clock (s.modMy _) _).trans (State.my_modMy ..)

theorem State.retire_core (s : State) (st lat : Nat) (fixed vars : List RegWrite) (npc : Option VAddr) :
    (s.retire st lat fixed vars npc).core s.cur
      = { (s.core s.cur).setCtx s.me (s.my.retired s.now st lat fixed vars npc) with clock := s.now + 1 } := by
  rw [State.retire_eq]; simp

/-- A word that is done, whatever it wrote, leaves everything else as `Done` says. -/
theorem State.retire_done (u : State) (st : Fin 8) (lat : Nat) (fixed vars : List RegWrite) (npc : Option VAddr) (ws : List RegId)
    (fp : Bool) (hf : ∀ w ∈ fixed, w.within ws fp) (hv : ∀ w ∈ vars, w.within ws fp) :
    Done u (u.retire st.1 lat fixed vars npc) st npc ws fp where
  outside :=
    { others := by simp [State.retire, State.modMy, State.modCtx, State.setCtx, State.setCore, State.modCore]
      cores := fun c hc => by simp [State.retire, hc]
      core := by rw [State.retire_core]; rfl
      ctxs := fun x hx => by
        show ((u.retire st.1 lat fixed vars npc).core u.cur).ctxs.get x = _
        rw [State.retire_core]
        show (Core.setCtx _ _ _).ctxs.get x = _
        rw [Core.setCtx_get, if_neg hx]; rfl
      memory := fun a => rfl }
  context := by
    rw [State.retire_my]
    have h1 := foldl_same (Ctx.result lat u.now) ws fp (fun x w h => Ctx.result_same lat u.now x w ws fp h) fixed u.my hf
    have h2 := h1.trans (foldl_same Ctx.pend ws fp (fun x w h => Ctx.pend_same x w ws fp h) vars _ hv)
    exact ⟨h2.g, h2.v, h2.m, h2.k, by simp only [Ctx.retired, Ctx.met]; rw [h2.rest], h2.flags, h2.fixedKept, h2.fixedNew, h2.varsKept, h2.varsNew⟩
  pc := by rw [State.retire_my]; rfl
  clock := by
    show ((u.retire st.1 lat fixed vars npc).core u.cur).clock = _
    rw [State.retire_core]
  next := by rw [State.retire_my]; rfl

/-- A word that issues unhindered does what its operation says. -/
theorem State.run_done (s : State) (st : Fin 8) (rd wr : List RegId) (lat : Nat) (act : State → Res) (h : s.canIssue rd wr lat = true)
    {s2 : State} {fixed vars : List RegWrite} {npc : Option VAddr} (ha : act s.atIssue = .done s2 fixed vars npc) :
    s.run st rd wr lat act = .next (s2.retire st.1 lat fixed vars npc) := by
  simp only [State.canIssue, Bool.and_eq_true, Bool.not_eq_true', Option.isNone_iff_eq_none] at h
  obtain ⟨⟨h1, h2⟩, h3⟩ := h
  simp [State.run, State.issue, h1, h2, h3, ha]

/-- A word that issues unhindered and raises a cause takes that exception. -/
theorem State.run_raise (s : State) (st : Fin 8) (rd wr : List RegId) (lat : Nat) (act : State → Res) (h : s.canIssue rd wr lat = true)
    {c : Cause} {addr : Dword} (ha : act s.atIssue = .raise c addr) :
    s.run st rd wr lat act = .next (s.atIssue.raise c addr) := by
  simp only [State.canIssue, Bool.and_eq_true, Bool.not_eq_true', Option.isNone_iff_eq_none] at h
  obtain ⟨⟨h1, h2⟩, h3⟩ := h
  simp [State.run, State.issue, h1, h2, h3, ha]

/-- The same where the checks have changed something that stays. -/
theorem State.run_raiseIn (s : State) (st : Fin 8) (rd wr : List RegId) (lat : Nat) (act : State → Res) (h : s.canIssue rd wr lat = true)
    {u : State} {c : Cause} {addr : Dword} (ha : act s.atIssue = .raiseIn u c addr) :
    s.run st rd wr lat act = .next (u.raise c addr) := by
  simp only [State.canIssue, Bool.and_eq_true, Bool.not_eq_true', Option.isNone_iff_eq_none] at h
  obtain ⟨⟨h1, h2⟩, h3⟩ := h
  simp [State.run, State.issue, h1, h2, h3, ha]

/-- A word that issues unhindered and waits is issued again later. -/
theorem State.run_wait (s : State) (st : Fin 8) (rd wr : List RegId) (lat : Nat) (act : State → Res) (h : s.canIssue rd wr lat = true)
    {w : Wait} {s2 : State} (ha : act s.atIssue = .wait w s2) :
    s.run st rd wr lat act = .next (s2.hold w (s.my.since.getD s.issueCycle)) := by
  simp only [State.canIssue, Bool.and_eq_true, Bool.not_eq_true', Option.isNone_iff_eq_none] at h
  obtain ⟨⟨h1, h2⟩, h3⟩ := h
  simp [State.run, State.issue, h1, h2, h3, ha]

/-! Where results are found. -/

theorem Ctx.apply_reads (x : Ctx) (w : RegWrite) : (x.apply w).reads w := by
  cases w with
  | g r v => simp only [Ctx.apply, Ctx.reads, Ctx.rg]; split <;> simp_all [vset_get]
  | v r v => simp [Ctx.apply, Ctx.reads, Ctx.rv, vset_get]
  | vlo r v =>
    simp only [Ctx.apply, Ctx.reads, Ctx.rv, vset_get, if_true]
    ext i hi
    rw [BitVec.getElem_extractLsb', Nat.zero_add, BitVec.getLsbD_append, if_pos hi, BitVec.getLsbD_eq_getElem hi]
  | m r v => simp [Ctx.apply, Ctx.reads, Ctx.rm, vset_get]
  | k r v => simp only [Ctx.apply, Ctx.reads, Ctx.rk]; split <;> simp_all [vset_get]
  | flags f =>
    simp only [Ctx.apply, Ctx.reads]
    ext i hi
    simp
    intro h; exact .inr h

theorem Ctx.reads_congr {x y : Ctx} (hg : y.g = x.g) (hv : y.v = x.v) (hm : y.m = x.m) (hk : y.k = x.k) (hf : y.fpflags = x.fpflags)
    (w : RegWrite) : y.reads w ↔ x.reads w := by
  cases w <;> simp [Ctx.reads, Ctx.rg, Ctx.rv, Ctx.rm, Ctx.rk, *]

theorem Ctx.result_has (lat t : Nat) (x : Ctx) (w : RegWrite) : (Ctx.result lat t x w).has t lat w := by
  simp only [Ctx.result, Ctx.has]
  split
  · exact Ctx.apply_reads _ w
  · exact ⟨⟨w, t + lat, x.stallchk, lat⟩, by simp [mem_insertPend], rfl, rfl⟩

/-- A word's one result of fixed latency is where R143 puts it. -/
theorem State.retire_has (u : State) (st lat : Nat) (w : RegWrite) (npc : Option VAddr) :
    (u.retire st lat [w] [] npc).my.has u.now lat w := by
  rw [State.retire_my]
  have h := Ctx.result_has lat u.now u.my w
  simp only [Ctx.has] at h ⊢
  by_cases hl : lat ≤ 1
  · rw [if_pos hl] at h ⊢
    exact (Ctx.reads_congr rfl rfl rfl rfl rfl w).2 h
  · rw [if_neg hl] at h ⊢
    exact h

/-- A word's one result of variable latency is on its way. -/
theorem State.retire_pends (u : State) (st lat : Nat) (r : RegId) (w : RegWrite) (npc : Option VAddr) (hw : w.reg = some r) :
    (u.retire st lat [] [w] npc).my.pends r w := by
  intro hr
  rw [State.retire_my]
  show _ ∈ (Ctx.pend _ w).vars
  simp [Ctx.pend, hw, hr]

/-! The four ways in which an instruction's own effect is stated, from what its operation answers. -/

theorem State.gives_of_run {s : State} {i : Instr} {st : Fin 8} {rd : List RegId} {r : RegId} {lat : Nat} {act : State → Res} {w : RegWrite}
    (he : exec i s = s.run st rd [r] lat act) (h : s.canIssue rd [r] lat = true)
    (ha : act s.atIssue = .done s.atIssue [w] [] none) (hw : w.reg = some r) : s.gives i st lat r w := by
  refine ⟨_, he.trans (State.run_done s st rd [r] lat act h ha), State.retire_done _ st lat [w] [] none [r] false ?_ ?_, State.retire_has ..⟩
  · intro v hv; simp only [List.mem_singleton] at hv; subst hv; exact .inl ⟨r, by simp, hw⟩
  · intro v hv; simp at hv

theorem State.givesLater_of_run {s u : State} {i : Instr} {st : Fin 8} {rd wr : List RegId} {r : RegId} {lat : Nat} {act : State → Res}
    {w : RegWrite} (he : exec i s = s.run st rd wr lat act) (h : s.canIssue rd wr lat = true)
    (ha : act s.atIssue = .done u [] [w] none) (hw : w.reg = some r) : s.givesLater u i st r w := by
  refine ⟨_, he.trans (State.run_done s st rd wr lat act h ha), State.retire_done _ st lat [] [w] none [r] false ?_ ?_,
    State.retire_pends _ _ _ r w none hw⟩
  · intro v hv; simp at hv
  · intro v hv; simp only [List.mem_singleton] at hv; subst hv; exact .inl ⟨r, by simp, hw⟩

theorem State.does_of_run {s u : State} {i : Instr} {st : Fin 8} {rd wr : List RegId} {lat : Nat} {act : State → Res} {npc : Option VAddr}
    (he : exec i s = s.run st rd wr lat act) (h : s.canIssue rd wr lat = true) (ha : act s.atIssue = .done u [] [] npc) :
    s.does u i st npc :=
  ⟨_, he.trans (State.run_done s st rd wr lat act h ha),
    State.retire_done _ st lat [] [] npc [] false (fun _ hv => by simp at hv) (fun _ hv => by simp at hv)⟩

theorem State.traps_of_run {s : State} {i : Instr} {st : Fin 8} {rd wr : List RegId} {lat : Nat} {act : State → Res} {c : Cause} {a : Dword}
    (he : exec i s = s.run st rd wr lat act) (h : s.canIssue rd wr lat = true) (ha : act s.atIssue = .raise c a) : s.traps i c a :=
  he.trans (State.run_raise s st rd wr lat act h ha)

theorem State.trapsIn_of_run {s u : State} {i : Instr} {st : Fin 8} {rd wr : List RegId} {lat : Nat} {act : State → Res} {c : Cause}
    {a : Dword} (he : exec i s = s.run st rd wr lat act) (h : s.canIssue rd wr lat = true) (ha : act s.atIssue = .raiseIn u c a) :
    s.trapsIn u i c a :=
  he.trans (State.run_raiseIn s st rd wr lat act h ha)

theorem State.branchesOn_of_branch {s : State} {i : Instr} {st : Fin 8} {a b : Fin 32} {o : Fin 2048} {p : Dword → Dword → Bool}
    (he : exec i s = s.branch st a b o p) (h : s.canIssue [.g a, .g b] [] 1 = true) :
    s.BranchesOn i st o (p (s.atIssue.my.rg a) (s.atIssue.my.rg b) = true) where
  notTaken hp := State.does_of_run he h (by simp [hp, Res.regs])
  taken hp hg := State.does_of_run he h (by simp [hp, Ctx.rel, hg])
  barred hp hg := State.traps_of_run he h (by simp [hp, Ctx.rel, hg])

theorem State.BranchesOn.congr {s : State} {i : Instr} {st : Fin 8} {o : Fin 2048} {p q : Prop} (h : s.BranchesOn i st o p) (e : p ↔ q) :
    s.BranchesOn i st o q where
  notTaken n := h.notTaken (fun hp => n (e.1 hp))
  taken n := h.taken (e.2 n)
  barred n := h.barred (e.2 n)

theorem State.jumps_of_run {s : State} {i : Instr} {st : Fin 8} {rd : List RegId} {r : Fin 32} {act : State → Res} {target : VAddr}
    (he : exec i s = s.run st rd [.g r] 1 act) (h : s.canIssue rd [.g r] 1 = true)
    (ha : act s.atIssue = .done s.atIssue [.g r (s.atIssue.my.pc.setWidth 64 + 4)] [] (some target)) : s.jumps i st r target := by
  refine ⟨_, he.trans (State.run_done s st rd [.g r] 1 act h ha), State.retire_done _ st 1 _ [] _ [.g r] false ?_ ?_, State.retire_has ..⟩
  · intro v hv; simp only [List.mem_singleton] at hv; subst hv; exact .inl ⟨.g r, by simp, rfl⟩
  · intro v hv; simp at hv

theorem State.loads_of_run {s : State} {i : Instr} {st : Fin 8} {m : MemOp} {r : RegId} {n need : Nat} {w : List Byte → RegWrite}
    (he : exec i s = s.run st m.regs [r] 0 (fun s1 => s1.load (m.cap s1.my) (m.addr s1.my n) n n need (fun _ bs => w bs)))
    (h : s.canIssue m.regs [r] 0 = true) (hw : ∀ bs, (w bs).reg = some r) : s.Loads i st m r n need w where
  given u pa eff v bs hc hr := State.givesLater_of_run he h (by simp only [State.load, hc, hr]; rfl) (hw bs)
  refused u c a hc := State.trapsIn_of_run he h (by simp only [State.load, hc])
  barred u pa eff c hc hr := State.trapsIn_of_run he h (by simp only [State.load, hc, hr])
  held u pa eff v hc hr := he.trans (State.run_wait s st m.regs [r] 0 _ h (by simp only [State.load, hc, hr]))
  missed u hc := he.trans (State.run_wait s st m.regs [r] 0 _ h (by simp only [State.load, hc]))

theorem State.stores_of_run {s : State} {i : Instr} {st : Fin 8} {m : MemOp} {rd : List RegId} {need n : Nat} {tag : Bool} {rel : Option Nat}
    {f : Ctx → List Byte} (hn : (f s.atIssue.my).length = n)
    (he : exec i s = s.run st rd [] 1 (fun s1 => s1.store (m.cap s1.my) (m.addr s1.my n) n n need tag rel (f s1.my)))
    (h : s.canIssue rd [] 1 = true) : s.Stores i st m need tag rel (f s.atIssue.my) where
  done u pa eff hc hr := by
    subst hn
    exact State.does_of_run he h (by simp only [State.store, hc, hr]; rfl)
  refused u c a hc := by subst hn; exact State.trapsIn_of_run he h (by simp only [State.store, hc])
  barred u pa eff c hc hr := by subst hn; exact State.trapsIn_of_run he h (by simp only [State.store, hc, hr])

theorem State.waits_of_run {s u : State} {i : Instr} {st : Fin 8} {rd wr : List RegId} {lat : Nat} {act : State → Res} {w : Wait}
    (he : exec i s = s.run st rd wr lat act) (h : s.canIssue rd wr lat = true) (ha : act s.atIssue = .wait w u) : s.waits u i w :=
  he.trans (State.run_wait s st rd wr lat act h ha)

theorem Ctx.pend_keeps (x : Ctx) (w : RegWrite) (r : RegId) (v : RegWrite) (h : x.pends r v) : (x.pend w).pends r v := by
  intro hr
  have := h hr
  simp only [Ctx.pend]
  split
  · split
    · simp [this]
    · exact this
  · cases w <;> simp only [Ctx.apply] <;> (try split) <;> exact this

theorem Ctx.pend_pends (x : Ctx) (w : RegWrite) (r : RegId) (hw : w.reg = some r) : (x.pend w).pends r w := by
  intro hr; simp [Ctx.pend, hw, hr]

theorem foldl_pends (ws : List RegWrite) (x : Ctx) :
    (∀ r v, x.pends r v → (ws.foldl Ctx.pend x).pends r v) ∧ ∀ w ∈ ws, ∀ r, w.reg = some r → (ws.foldl Ctx.pend x).pends r w := by
  induction ws generalizing x with
  | nil => exact ⟨fun _ _ h => h, by simp⟩
  | cons a l ih =>
    refine ⟨fun r v h => (ih _).1 r v (Ctx.pend_keeps x a r v h), fun w hw r hr => ?_⟩
    rcases List.mem_cons.1 hw with rfl | hw
    · exact (ih _).1 r w (Ctx.pend_pends x w r hr)
    · exact (ih _).2 w hw r hr

theorem State.givesAll_of_run {s u : State} {i : Instr} {st : Fin 8} {rd wr : List RegId} {lat : Nat} {act : State → Res}
    {ws : List RegWrite} (he : exec i s = s.run st rd wr lat act) (h : s.canIssue rd wr lat = true)
    (ha : act s.atIssue = .done u [] ws none) (hr : ∀ w ∈ ws, w.reg.isSome = true) : s.givesAll u i st ws := by
  refine ⟨_, he.trans (State.run_done s st rd wr lat act h ha), State.retire_done _ st lat [] ws none _ false (by simp) ?_, ?_⟩
  · intro v hv
    obtain ⟨r, hr'⟩ := Option.isSome_iff_exists.1 (hr v hv)
    exact .inl ⟨r, List.mem_filterMap.2 ⟨v, hv, hr'⟩, hr'⟩
  · intro w hw r hwr
    rw [State.retire_my]
    exact (foldl_pends ws _).2 w hw r hwr

end Sys2Proof.Machine
end

