-- ==== Sys2Proof/Laws/Lanes.lean ====
section
/-! SUPPORT. Lanes, mask bits and flags of vector results, and what a vector word answers. -/
namespace Sys2Proof.Machine

/-! Fields side by side. -/

theorem fieldSum_lt (b n : Nat) (v : Nat → Nat) (h : ∀ i, v i < 2 ^ b) :
    (List.range n).foldl (fun acc i => acc + v i * 2 ^ (i * b)) 0 < 2 ^ (n * b) := by
  induction n with
  | zero => simp
  | succ n ih =>
    rw [List.range_succ, List.foldl_append, List.foldl_cons, List.foldl_nil]
    have h1 : v n * 2 ^ (n * b) + 2 ^ (n * b) ≤ 2 ^ b * 2 ^ (n * b) := by
      rw [← Nat.succ_mul]; exact Nat.mul_le_mul_right _ (h n)
    have h2 : 2 ^ ((n + 1) * b) = 2 ^ b * 2 ^ (n * b) := by rw [← Nat.pow_add, Nat.succ_mul, Nat.add_comm]
    omega

theorem fieldSum_field (b n : Nat) (v : Nat → Nat) (h : ∀ i, v i < 2 ^ b) (k : Nat) (hk : k < n) :
    bitsOf ((List.range n).foldl (fun acc i => acc + v i * 2 ^ (i * b)) 0) (k * b) b = v k := by
  induction n with
  | zero => omega
  | succ n ih =>
    rw [List.range_succ, List.foldl_append, List.foldl_cons, List.foldl_nil]
    generalize hS : (List.range n).foldl (fun acc i => acc + v i * 2 ^ (i * b)) 0 = S at *
    have hlt : S < 2 ^ (n * b) := hS ▸ fieldSum_lt b n v h
    by_cases hkn : k = n
    · subst hkn
      simp only [bitsOf]
      rw [Nat.add_mul_div_right _ _ (Nat.two_pow_pos _), Nat.div_eq_of_lt hlt, Nat.zero_add, Nat.mod_eq_of_lt (h k)]
    · have hk' : k < n := by omega
      rw [← ih hk']
      simp only [bitsOf]
      have he : v n * 2 ^ (n * b) = v n * 2 ^ ((n - k - 1) * b) * 2 ^ b * 2 ^ (k * b) := by
        rw [Nat.mul_assoc, Nat.mul_assoc, ← Nat.pow_add, ← Nat.pow_add]
        congr 2
        have hn : n = (n - k - 1) + (1 + k) := by omega
        calc n * b = ((n - k - 1) + (1 + k)) * b := congrArg (· * b) hn
          _ = _ := by rw [Nat.add_mul, Nat.add_mul 1, Nat.one_mul]
      rw [he, Nat.add_mul_div_right _ _ (Nat.two_pow_pos _), Nat.add_mul_mod_self_right]

theorem laneOf_mod (b : Nat) (x : VReg) (i : Nat) : laneOf b x i % 2 ^ b = laneOf b x i := by
  simp only [laneOf, bitsOf, Nat.mod_mod]

/-- Each lane of a register made lane by lane. -/
theorem laneOf_fromLanes (b n : Nat) (old : VReg) (f : Nat → Option Nat) (k : Nat) (hn : n * b ≤ 1024) (hk : k < n) :
    laneOf b (fromLanes b n old f) k = ((f k).getD (laneOf b old k)) % 2 ^ b := by
  have hlt := fieldSum_lt b n (fun i => ((f i).getD (laneOf b old i)) % 2 ^ b) (fun i => Nat.mod_lt _ (Nat.two_pow_pos b))
  show bitsOf (BitVec.toNat (BitVec.ofNat 1024 _)) (k * b) b = _
  rw [BitVec.toNat_ofNat, Nat.mod_eq_of_lt (Nat.lt_of_lt_of_le hlt (Nat.pow_le_pow_right (by omega) hn))]
  exact fieldSum_field b n (fun i => ((f i).getD (laneOf b old i)) % 2 ^ b) (fun i => Nat.mod_lt _ (Nat.two_pow_pos b)) k hk

theorem laneBits_lanes (w : Fin 4) : 1024 / laneBits w * laneBits w ≤ 1024 := Nat.div_mul_le_self ..

/-- Each bit of a mask made lane by lane. -/
theorem maskLanes_bit (b : Nat) (old : Mask) (act hit : Nat → Bool) (k : Nat) (hk : k < 128) :
    (maskLanes b old act hit).getLsbD k = if act (k / (b / 8)) then hit (k / (b / 8)) else old.getLsbD k := by
  let v : Nat → Nat := fun k => if (if act (k / (b / 8)) then hit (k / (b / 8)) else old.getLsbD k) then 1 else 0
  have hv : ∀ i, v i < 2 ^ 1 := fun i => by show (if (if act (i / (b / 8)) then hit (i / (b / 8)) else old.getLsbD i) = true then 1 else 0) < 2; generalize (if act (i / (b / 8)) then hit (i / (b / 8)) else old.getLsbD i) = c; cases c <;> decide
  have he : (List.range 128).foldl (fun acc k =>
      acc + (if (if act (k / (b / 8)) then hit (k / (b / 8)) else old.getLsbD k) then 2 ^ k else 0)) 0
      = (List.range 128).foldl (fun acc i => acc + v i * 2 ^ (i * 1)) 0 := by
    congr 1; funext acc i; simp only [v, Nat.mul_one]
    generalize (if act (i / (b / 8)) then hit (i / (b / 8)) else old.getLsbD i) = c
    cases c <;> simp
  have hf := fieldSum_field 1 128 v hv k hk
  have hlt := fieldSum_lt 1 128 v hv
  simp only [maskLanes]
  rw [he, BitVec.getLsbD_ofNat]
  simp only [bitsOf, Nat.mul_one] at hf
  rw [Nat.testBit, Nat.shiftRight_eq_div_pow, Nat.and_comm, Nat.and_one_is_mod]
  simp only [Nat.mul_one] at hlt ⊢
  rw [show (2 : Nat) ^ 1 = 2 from rfl] at hf
  rw [hf]
  simp only [hk, decide_true, Bool.true_and, v]
  generalize (if act (k / (b / 8)) then hit (k / (b / 8)) else old.getLsbD k) = c
  cases c <;> rfl

/-- Each flag that the active lanes raise. -/
theorem unionFlags_bit (n : Nat) (act : Nat → Bool) (f : Nat → FRes) (j : Nat) :
    (unionFlags n act f).getLsbD j = true ↔ ∃ k, k < n ∧ act k = true ∧ (f k).flags.getLsbD j = true := by
  induction n with
  | zero => simp [unionFlags]
  | succ n ih =>
    simp only [unionFlags] at ih ⊢
    rw [List.range_succ, List.foldl_append, List.foldl_cons, List.foldl_nil]
    by_cases ha : act n = true
    · rw [if_pos ha, BitVec.getLsbD_or, Bool.or_eq_true, ih]
      constructor
      · rintro (⟨k, h1, h2⟩ | h)
        · exact ⟨k, by omega, h2⟩
        · exact ⟨n, by omega, ha, h⟩
      · rintro ⟨k, h1, h2, h3⟩
        by_cases hk : k = n
        · subst hk; exact .inr h3
        · exact .inl ⟨k, by omega, h2, h3⟩
    · rw [if_neg ha, ih]
      constructor
      · rintro ⟨k, h1, h2⟩; exact ⟨k, by omega, h2⟩
      · rintro ⟨k, h1, h2, h3⟩
        have : k ≠ n := by rintro rfl; exact ha h2
        exact ⟨k, by omega, h2, h3⟩

/-! What a vector word answers. -/

theorem State.gives_of_vrun {s : State} {i : Instr} {st : Fin 8} {v : VBody} {r : RegId} {w : RegWrite}
    (he : exec i s = s.vrun st v) (hw : v.writes = [r]) (h : s.canIssue v.reads [r] v.lat = true) (hv : s.atIssue.vectorHeld = false)
    (ha : v.act s.atIssue = .ok [w]) (hr : w.reg = some r) : s.gives i st v.lat r w := by
  refine State.gives_of_run (rd := v.reads) (act := fun s1 => if s1.vectorHeld then .wait .resource s1
      else match v.act s1 with
        | .ok ws => .regs s1 ws
        | .error c => .raise c 0) (he.trans ?_) h ?_ hr
  · rw [State.vrun, hw] <;> rfl
  · simp [hv, ha, Res.regs]

/-- A vector word that waits for a repetition sequence of another context (R203). -/
theorem State.held_of_vrun {s : State} {i : Instr} {st : Fin 8} {v : VBody} (he : exec i s = s.vrun st v)
    (h : s.canIssue v.reads v.writes v.lat = true) (hv : s.atIssue.vectorHeld = true) :
    exec i s = .next (s.atIssue.hold .resource (s.my.since.getD s.issueCycle)) :=
  he.trans (State.run_wait s st _ _ _ _ h (by simp [hv]))

theorem State.traps_of_vrun {s : State} {i : Instr} {st : Fin 8} {v : VBody} {c : Cause} (he : exec i s = s.vrun st v)
    (h : s.canIssue v.reads v.writes v.lat = true) (hv : s.atIssue.vectorHeld = false) (ha : v.act s.atIssue = .error c) :
    s.traps i c 0 :=
  State.traps_of_run he h (by simp [hv, ha])

theorem Ctx.result_keeps (lat t : Nat) (x : Ctx) (w : RegWrite) (n : Nat) (v : RegWrite) (hl : 1 < lat) (h : x.has n lat v) :
    (Ctx.result lat t x w).has n lat v := by
  have hn : ¬ lat ≤ 1 := by omega
  simp only [Ctx.has, hn, if_false] at h ⊢
  obtain ⟨p, hp, h1, h2⟩ := h
  exact ⟨p, by simp [Ctx.result, hn, mem_insertPend, hp], h1, h2⟩

/-- Two results of one fixed latency above 1 are both on their way. -/
theorem State.retire_has2 (u : State) (st lat : Nat) (w v : RegWrite) (npc : Option VAddr) (hl : 1 < lat) :
    (u.retire st lat [w, v] [] npc).my.has u.now lat w ∧ (u.retire st lat [w, v] [] npc).my.has u.now lat v := by
  rw [State.retire_my]
  have h1 := Ctx.result_has lat u.now u.my w
  have h2 := Ctx.result_keeps lat u.now _ v _ _ hl h1
  have h3 := Ctx.result_has lat u.now (Ctx.result lat u.now u.my w) v
  have hn : ¬ lat ≤ 1 := by omega
  simp only [Ctx.has, hn, if_false] at *
  exact ⟨h2, h3⟩

/-- Two results of a vector word, the second of them perhaps flags. -/
theorem State.done2_of_vrun {s : State} {i : Instr} {st : Fin 8} {v : VBody} {w y : RegWrite} (fp : Bool)
    (he : exec i s = s.vrun st v) (h : s.canIssue v.reads v.writes v.lat = true) (hv : s.atIssue.vectorHeld = false)
    (ha : v.act s.atIssue = .ok [w, y]) (hl : 1 < v.lat) (hw : w.within v.writes fp) (hy : y.within v.writes fp) :
    ∃ t, exec i s = .next t ∧ Done s.atIssue t st none v.writes fp ∧
      t.my.has s.atIssue.now v.lat w ∧ t.my.has s.atIssue.now v.lat y := by
  have hr := State.run_done s st v.reads v.writes v.lat (fun s1 => if s1.vectorHeld then .wait .resource s1
      else match v.act s1 with
        | .ok ws => .regs s1 ws
        | .error c => .raise c 0) h (s2 := s.atIssue) (fixed := [w, y]) (vars := []) (npc := none) (by simp [hv, ha, Res.regs])
  refine ⟨_, he.trans hr, State.retire_done _ st v.lat [w, y] [] none v.writes fp ?_ (by simp), State.retire_has2 _ _ _ w y _ hl⟩
  intro z hz
  simp only [List.mem_cons, List.not_mem_nil, or_false] at hz
  rcases hz with rfl | rfl <;> assumption

/-! The integer and floating-point forms. -/

theorem State.laneResult_of_vrun {s : State} {i : Instr} {st : Fin 8} {d : Fin 32} {m : Fin 8} {w : Fin 4} {srcs : List RegId}
    {f : Ctx → Nat → Nat} (he : exec i s = s.vrun st (.lanes d m srcs 2 (laneBits w) f)) :
    s.LaneResult i st d m (laneBits w) 2 srcs (f s.atIssue.my) := by
  intro h hv
  refine ⟨_, State.gives_of_vrun he rfl h hv rfl rfl, fun k hk => ?_⟩
  rw [laneOf_fromLanes _ _ _ _ _ (laneBits_lanes w) hk]
  split <;> simp [laneOf_mod]

theorem Fmt.width_lanes (w : Fin 4) : 1024 / (laneFmt w).width * (laneFmt w).width ≤ 1024 := Nat.div_mul_le_self ..

theorem State.floatResult_of_vrun {s : State} {i : Instr} {st : Fin 8} {d : Fin 32} {m : Fin 8} {b : Nat} {srcs : List RegId}
    {f : Ctx → Nat → FRes} (he : exec i s = s.vrun st (.flt d m srcs b f)) :
    s.FloatResult i st d m b srcs (f s.atIssue.my) := by
  intro h hv
  obtain ⟨t, h1, h2, h3, h4⟩ := State.done2_of_vrun true he h hv rfl (by simp [VBody.flt]) (.inl ⟨.v d, by simp [VBody.flt], rfl⟩) (.inr ⟨rfl, rfl⟩)
  refine ⟨_, _, t, h1, h2, h3, h4, fun k hk => ?_, fun j => unionFlags_bit ..⟩
  rw [laneOf_fromLanes _ _ _ _ _ (Nat.div_mul_le_self ..) hk]
  split <;> simp [laneOf_mod]

theorem State.floatResult_of_flt2 {s : State} {i : Instr} {st : Fin 8} {d a b : Fin 32} {w : Fin 4} {m : Fin 8}
    {f : Fmt → Nat → Nat → Nat → FRes} (he : exec i s = s.vrun st (.flt2 d a b w m f)) :
    s.FloatResult i st d m (laneFmt w).width [.v a, .v b] (fun k => f (laneFmt w) s.atIssue.my.rmode
      (laneOf (laneFmt w).width (s.atIssue.my.rv a) k) (laneOf (laneFmt w).width (s.atIssue.my.rv b) k)) :=
  State.floatResult_of_vrun (f := fun x i => f (laneFmt w) x.rmode (laneOf (laneFmt w).width (x.rv a) i) (laneOf (laneFmt w).width (x.rv b) i)) he

theorem State.floatResult_of_flt1 {s : State} {i : Instr} {st : Fin 8} {d a : Fin 32} {w : Fin 4} {m : Fin 8}
    {f : Fmt → Nat → Nat → FRes} (he : exec i s = s.vrun st (.flt1 d a w m f)) :
    s.FloatResult i st d m (laneFmt w).width [.v a] (fun k => f (laneFmt w) s.atIssue.my.rmode
      (laneOf (laneFmt w).width (s.atIssue.my.rv a) k)) :=
  State.floatResult_of_vrun (f := fun x i => f (laneFmt w) x.rmode (laneOf (laneFmt w).width (x.rv a) i)) he

theorem State.floatResult_of_fused {s : State} {i : Instr} {st : Fin 8} {d a b : Fin 32} {w : Fin 4} {m : Fin 8}
    {f : Fmt → Nat → Nat → Nat → Nat → FRes} (he : exec i s = s.vrun st (.fused d a b w m f)) :
    s.FloatResult i st d m (laneFmt w).width [.v a, .v b, .v d] (fun k => f (laneFmt w) s.atIssue.my.rmode
      (laneOf (laneFmt w).width (s.atIssue.my.rv a) k) (laneOf (laneFmt w).width (s.atIssue.my.rv b) k)
      (laneOf (laneFmt w).width (s.atIssue.my.rv d) k)) :=
  State.floatResult_of_vrun (f := fun x i => f (laneFmt w) x.rmode (laneOf (laneFmt w).width (x.rv a) i)
    (laneOf (laneFmt w).width (x.rv b) i) (laneOf (laneFmt w).width (x.rv d) i)) he

end Sys2Proof.Machine
end

