-- ==== Sys2Proof/Laws/Memory.lean ====
section
/-! SUPPORT. Bytes of memory: what a write of several reads as, that the canonical form is kept, and what a context sees. -/
namespace Sys2Proof.Machine

@[simp] theorem leBytes_length (n x : Nat) : (leBytes n x).length = n := by
  induction n generalizing x with
  | zero => rfl
  | succ n ih => simp [leBytes, ih]

@[simp] theorem dwordBytes_length (x : Dword) : (dwordBytes x).length = 8 := leBytes_length ..

theorem writeMem_wf (m : Memory) (a : Nat) (bs : List Byte) (h : m.wf = true) : (writeMem m a bs).wf = true := by
  induction bs generalizing m a with
  | nil => exact h
  | cons b r ih => exact ih _ _ (Memory.write_wf m a b h)

/-- Every byte written reads as written and every other as before. -/
theorem writeMem_read (m : Memory) (a : Nat) (bs : List Byte) (x : Nat) :
    (writeMem m a bs).read x = if a ≤ x ∧ x < a + bs.length then bs.getD (x - a) 0 else m.read x := by
  induction bs generalizing m a with
  | nil => simp only [writeMem, List.length_nil]; rw [if_neg (by omega)]
  | cons b r ih =>
    rw [writeMem, ih, Memory.read_write]
    simp only [List.length_cons]
    by_cases h1 : x = a
    · subst h1; rw [if_neg (by omega), if_pos rfl, if_pos (by omega), Nat.sub_self]; rfl
    · by_cases h2 : a + 1 ≤ x ∧ x < a + 1 + r.length
      · rw [if_pos h2, if_pos (by omega), show x - a = (x - (a + 1)) + 1 by omega]; rfl
      · rw [if_neg h2, if_neg h1, if_neg (by omega)]

@[simp] theorem readMem_length (m : Memory) (a n : Nat) : (readMem m a n).length = n := by
  induction n generalizing a with
  | zero => rfl
  | succ n ih => simp [readMem, ih]

theorem readMem_getElem? (m : Memory) (a n i : Nat) (h : i < n) : (readMem m a n)[i]? = some (m.read (a + i)) := by
  induction n generalizing a i with
  | zero => omega
  | succ n ih =>
    cases i with
    | zero => simp [readMem]
    | succ i => simp only [readMem, List.getElem?_cons_succ]; rw [ih _ _ (by omega), show a + 1 + i = a + (i + 1) by omega]

theorem State.peek_poke (s : State) (pa : Nat) (bs : List Byte) : (s.poke pa bs).peek pa bs.length = bs := by
  apply List.ext_getElem?
  intro i
  show (readMem (writeMem s.mem pa bs) pa bs.length)[i]? = _
  by_cases hi : i < bs.length
  · rw [readMem_getElem? _ _ _ _ hi, writeMem_read, if_pos (by omega), show pa + i - pa = i by omega]
    simp [hi]
  · rw [List.getElem?_eq_none (by simp; omega), List.getElem?_eq_none (by omega)]

theorem keysFrom_filter {α : Type} (p : Nat × α → Bool) (l : List (Nat × α)) (b : Nat) (h : keysFrom b l = true) :
    keysFrom b (l.filter p) = true := by
  induction l generalizing b with
  | nil => rfl
  | cons e r ih =>
    simp only [keysFrom, Bool.and_eq_true, decide_eq_true_eq] at h
    simp only [List.filter]
    split
    · simp only [keysFrom, Bool.and_eq_true, decide_eq_true_eq]; exact ⟨h.1, ih _ h.2⟩
    · exact ih _ (keysFrom_weaken (by omega) h.2)

theorem mapGet_filter {α : Type} (d : α) (p : Nat → Bool) (l : List (Nat × α)) (a : Nat) :
    mapGet d (l.filter (fun e => p e.1)) a = if p a then mapGet d l a else d := by
  induction l with
  | nil => simp [mapGet]
  | cons e r ih =>
    obtain ⟨k, v⟩ := e
    simp only [List.filter]
    by_cases hk : a = k
    · subst hk
      cases hp : p a <;> simp [mapGet, ih, hp]
    · split <;> simp [mapGet, ih, hk]

theorem State.zero_wf (s : State) (a n : Nat) (h : s.mem.wf = true) : (s.zero a n).mem.wf = true := by
  simp only [Memory.wf, Bool.and_eq_true] at h ⊢
  refine ⟨keysFrom_filter _ _ _ h.1, ?_⟩
  simp only [State.zero, List.all_eq_true, List.mem_filter] at *
  exact fun x hx => h.2 x hx.1

/-- A line's full/empty bit set and cleared (R80). -/
theorem State.isFull_setFull (s : State) (pa a : Nat) (f : Bool) : (s.setFull pa f).isFull a = if a / 128 = pa / 128 then f else s.isFull a := by
  rw [Bool.eq_iff_iff]
  simp only [State.isFull, State.setFull, List.contains_iff_mem]
  cases f
  · simp only [Bool.false_eq_true, if_false, mem_setDel]; split <;> simp_all [State.isFull]
  · simp only [if_true, mem_setAdd]; split <;> simp_all [State.isFull]

/-- A granule's tag set and cleared (R120). -/
theorem State.tagAt_setTag (s : State) (pa a : Nat) (f : Bool) : (s.setTag pa f).tagAt a = if a / 16 = pa / 16 then f else s.tagAt a := by
  rw [Bool.eq_iff_iff]
  simp only [State.tagAt, State.setTag, List.contains_iff_mem]
  cases f
  · simp only [Bool.false_eq_true, if_false, mem_setDel]; split <;> simp_all [State.tagAt]
  · simp only [if_true, mem_setAdd]; split <;> simp_all [State.tagAt]

theorem viewBytes_length (s : State) (b : List StoreEntry) (a n : Nat) : (s.viewBytes b a n).length = n := by
  induction n generalizing a with
  | zero => rfl
  | succ n ih => simp [State.viewBytes, ih]

theorem viewBytes_getElem? (s : State) (b : List StoreEntry) (a n i : Nat) (h : i < n) :
    (s.viewBytes b a n)[i]? = some ((bufferedByte (a + i) b).getD (s.mem.read (a + i))) := by
  induction n generalizing a i with
  | zero => omega
  | succ n ih =>
    cases i with
    | zero => simp [State.viewBytes]
    | succ i => simp only [State.viewBytes, List.getElem?_cons_succ]; rw [ih _ _ (by omega), show a + 1 + i = a + (i + 1) by omega]

/-- Without stores of its own a context sees memory. -/
theorem viewBytes_nil (s : State) (a n : Nat) : s.viewBytes [] a n = s.peek a n := by
  induction n generalizing a with
  | zero => rfl
  | succ n ih => simp only [State.viewBytes, bufferedByte, State.peek, readMem]; rw [ih]; rfl

end Sys2Proof.Machine
end

