-- ==== Sys2Proof/Tests/Slice0.lean ====
section
/-! SUPPORT. Tests: what WellFormed refuses, words decoded, and for each statement a state that meets its hypotheses. Words are
written out from the encodings of chapter 6; values come from the rules named. -/
namespace Sys2Proof.Tests
open Sys2Proof Sys2Proof.Machine
set_option Elab.async false

/-! An ill-formed term for each check of WellFormed. -/

/-- R160: W 3. -/
theorem test_wf_refuses_ext : (Instr.sext 0 1 2 3).wf = false ∧ (Instr.zext 0 1 2 3).wf = false := by decide
/-- R164: a field that passes bit 63. -/
theorem test_wf_refuses_bext : (Instr.bext 0 1 2 63 1).wf = false ∧ (Instr.bins 0 1 2 1 63).wf = false := by decide
/-- R170: field 6. -/
theorem test_wf_refuses_capGet : (Instr.capGet 0 1 2 6).wf = false := by decide
/-- R174: scope 7. -/
theorem test_wf_refuses_scope : (Instr.ldDAcq 0 1 2 3 0 7).wf = false ∧ (Instr.stBRel 0 1 2 3 0 7).wf = false := by decide
/-- R180: kind 4, scope 7. -/
theorem test_wf_refuses_fence : (Instr.fence 0 4 0).wf = false ∧ (Instr.fence 0 0 7).wf = false := by decide
/-- R189: a reserved format; a part that does not exist. -/
theorem test_wf_refuses_vcvt : (Instr.vcvt 0 1 2 13 2 0).wf = false ∧ (Instr.vcvt 0 1 2 2 4 2).wf = false := by decide
/-- R190: a part beyond the register. -/
theorem test_wf_refuses_vdec : (Instr.vdec 0 1 2 0 0 2 0).wf = false ∧ (Instr.venc 0 1 2 0 0 3 0).wf = false := by decide
/-- R192: a distance beyond the lanes. -/
theorem test_wf_refuses_vbfly : (Instr.vbfly 0 1 2 3 3 4).wf = false := by decide
/-- R198: operation 11. -/
theorem test_wf_refuses_vred : (Instr.vred 0 1 2 11 0 0).wf = false := by decide
/-- R199: an odd pair. -/
theorem test_wf_refuses_vmrg : (Instr.vmrg 0 1 2 3 0 0).wf = false ∧ (Instr.vmrgp 0 1 2 3 0 0).wf = false := by decide
/-- R201: a window past v31. -/
theorem test_wf_refuses_vrep : (Instr.vrep 0 31 5 1 0 2).wf = false := by decide
/-- R255: k0 and a pair past k15. -/
theorem test_wf_refuses_engine : (Instr.cp 0 1 0 4).wf = false ∧ (Instr.cp 0 1 15 4).wf = false ∧ (Instr.dcmp 0 1 15 4).wf = false := by decide
/-- R259: engine 3. -/
theorem test_wf_refuses_engSt : (Instr.engSt 0 1 3 0).wf = false ∧ (Instr.engSt 0 1 1 4).wf = false := by decide
/-- R296, R310: registers past k15, k0. -/
theorem test_wf_refuses_fabric : (Instr.fabCall 0 1 13 2).wf = false ∧ (Instr.grLoad 0 1 0 2).wf = false := by decide
/-- Table 19-5: trap 16. -/
theorem test_wf_refuses_trap : (Instr.trap 0 16).wf = false := by decide
/-- R149: K as a destination, L with K, CTL 3. -/
theorem test_wf_refuses_ports :
    (Instr.feAdd 5 0 1 0 0).wf = false ∧ (Instr.feAdd 4 5 1 0 0).wf = false ∧ (Instr.feAdd 0 1 2 3 0).wf = false := by decide
/-- Table 12-3 and the entries of the words: VAR and IMM out of range. -/
theorem test_wf_refuses_variants :
    (Instr.feMul 0 1 2 0 3 0).wf = false ∧ (Instr.feCmp 0 1 2 0 6 0).wf = false ∧ (Instr.feFma 0 1 5 0 1 0).wf = false ∧
    (Instr.feCvt 0 1 2 0 7 0).wf = false ∧ (Instr.feSteer 0 1 2 4).wf = false ∧ (Instr.feCarry 0 1 2 2 0).wf = false ∧
    (Instr.feGen 0 1 2 0 0 30).wf = false ∧ (Instr.feGen 0 1 2 0 2 0).wf = false ∧ (Instr.feSt 0 1 2 0 4 0).wf = false ∧
    (Instr.feNop 0 1 2 3 0).wf = false ∧ (Instr.feSink 0 1 2 0 2 0).wf = false := by decide
/-- R210: a command of seven dwords. -/
theorem test_wf_refuses_command : (Instr.muCommandAccept 0 0 (List.replicate 7 0)).wf = false := by decide

/-! Words written out from the formats of Table 6-1: STALL, MAJOR, then the fields. -/

/-- Format I, `addi g5, g6, -3` with stall count 1: 001 000001 00101 00110 1111111111101. -/
theorem test_decode_addi : decodeCore 0b00100000100101001101111111111101 = .ok (.addi 1 5 6 0x1FFD) := by decide +kernel
/-- Format A, `div g1, g2, g3`: 000 000000 00001 00010 00011 00000110. -/
theorem test_decode_div : decodeCore 0b00000000000001000100001100000110 = .ok (.div 0 1 2 3) := by decide +kernel
/-- Format B, `bne g3, g0, -12`. -/
theorem test_decode_bne : decodeCore 0b00001000000011000000111111111101 = .ok (.bne 0 3 0 0x7FD) := by decide +kernel
/-- Format M, `ld.d g7, [k2 + 40]`. -/
theorem test_decode_ldD : decodeCore 0b00001100000111001001100000000101 = .ok (.ldD 0 7 2 5) := by decide +kernel
/-- `ld.d.acq g4, [k3 + g0]` with scope 5. -/
theorem test_decode_ldDAcq : decodeCore 0b00001101000100001110000000101110 = .ok (.ldDAcq 0 4 3 0 0 5) := by decide +kernel
/-- `amo.cas g5, g6, g7, k3`. -/
theorem test_decode_amoCas : decodeCore 0b00001110100101001100011100111001 = .ok (.amoCas 0 5 6 7 3) := by decide +kernel
/-- `fence` of kind 0 and scope 4. -/
theorem test_decode_fence : decodeCore 0b00001111000000000010000000100111 = .ok (.fence 0 0 4) := by decide +kernel
/-- `vfma`. -/
theorem test_decode_vfma : decodeCore 0b00010001100100001010011010010011 = .ok (.vfma 0 4 5 6 2 2) := by decide +kernel
/-- `vcvt`. -/
theorem test_decode_vcvt : decodeCore 0b00010011000011001111010001001000 = .ok (.vcvt 0 3 7 10 2 1) := by decide +kernel
/-- `vrep`. -/
theorem test_decode_vrep : decodeCore 0b00010111000000001010011100000010 = .ok (.vrep 0 0 5 7 0 2) := by decide +kernel
/-- `mtbl`. -/
theorem test_decode_mtbl : decodeCore 0b00011000000000010100100000000000 = .ok (.mtbl 0 5 2 0) := by decide +kernel
/-- `mseq`. -/
theorem test_decode_mseq : decodeCore 0b00011001111100000000110001100000 = .ok (.mseq 0 28 0 12 6) := by decide +kernel
/-- Format Q, `qpop`. -/
theorem test_decode_qpop : decodeCore 0b00011010000101001100000000100001 = .ok (.qpop 0 5 3 0 33) := by decide +kernel
/-- `cp`. -/
theorem test_decode_cp : decodeCore 0b00011110011100001000000010000000 = .ok (.cp 0 28 2 4) := by decide +kernel
/-- `fab.call`. -/
theorem test_decode_fabCall : decodeCore 0b00011111000101010000000001000000 = .ok (.fabCall 0 5 4 2) := by decide +kernel
/-- `gr.load`. -/
theorem test_decode_grLoad : decodeCore 0b00011111011100010000100001000000 = .ok (.grLoad 0 28 4 2) := by decide +kernel
/-- `sget g5, 2`: 000 111111 00101 00000 00010 00010000. -/
theorem test_decode_sget : decodeCore 0b00011111100101000000001000010000 = .ok (.sget 0 5 2 0) := by decide +kernel
/-- `trap 3`. -/
theorem test_decode_trap : decodeCore 0b00011111100000000110000000000001 = .ok (.trap 0 3) := by decide +kernel
/-- `cap.mint k6, g4, g5`. -/
theorem test_decode_capMint : decodeCore 0b00011111100110001000010100001011 = .ok (.capMint 0 6 4 5) := by decide +kernel
/-- Table 6-6, an element word: OP 0, DST E, SRCA N, SRCB L, CTL 0, VAR 0, IMM 3. -/
theorem test_decode_feAdd : decodeElement 0b00000000100010000000000000000011 = .ok (.feAdd 1 0 4 0 3) := by decide +kernel
/-- Element `steer`. -/
theorem test_decode_feSteer : decodeElement 0b01100000101111100000000000000010 = .ok (.feSteer 1 3 7 2) := by decide +kernel
/-- R9, R141: reserved words are refused by name. -/
theorem test_decode_refuses :
    decodeCore 0xFFFFFFFF = .reject .allOnes ∧ decodeCore (0x0D * 2 ^ 23) = .reject (.reservedMajor 0x0D) ∧
    decodeCore (0xFF + 0x3F * 2 ^ 23) ≠ .ok (.trap 0 0) ∧ decodeElement (0x30 * 2 ^ 26) = .reject .cfgFormat := by decide +kernel
/-- Fewer than four bytes are no word. -/
theorem test_decode_needs_bytes : decodeBytes [1, 2, 3] = (.reject .notWhole, [1, 2, 3]) := by decide +kernel

/-! For each statement with hypotheses, states and operands that meet them, with boundary values of the operands. -/

/-- Core 0 about to run word `w`: a tile, a translated page at 0x400000 and the pc on it; k1 covers the page with every permission. -/
def demoAt (w : Nat) : State :=
  (State.reset.placeCore w).modMy (fun y => { y with k := vset y.k 1 (mkCap 0xDF probePc 4096 3 probePc) })
/-- The same with an ill word. -/
def demo : State := demoAt 0
/-- Core 0 with g registers set. -/
def demoG (l : List (Fin 32 × Dword)) : State :=
  demo.modMy (fun y => { y with g := l.foldl (fun v p => vset v p.1 p.2) y.g })

/-- ScalarResults, Division, BranchesAndJumps, CapabilityInstructions: words issue unhindered at reset, with g0, g31, k0 and k15. -/
theorem test_witness_issue :
    State.reset.canIssue [.g 0, .g 31] [.g 0] 1 = true ∧ State.reset.canIssue [.g 31, .g 31] [.g 31] 3 = true ∧
    State.reset.canIssue [.g 1, .g 2] [.g 3] 0 = true ∧ State.reset.canIssue [] [.g 31] 1 = true ∧
    State.reset.canIssue [.k 0, .g 31] [.k 15] 1 = true ∧ State.reset.canIssue [.k 15] [.g 0] 1 = true ∧
    State.reset.atIssue.vectorHeld = false := by decide +kernel
/-- BranchesAndJumps: both kinds of target outside a handler; an aligned and an unaligned one. -/
theorem test_witness_targets :
    State.reset.atIssue.my.mayGo 0xFFFFFFFFFFFFFC = true ∧ ((0xFFFFFFFFFFFFFC : VAddr).toNat % 4 = 0) ∧ ((3 : VAddr).toNat % 4 ≠ 0) ∧
    ({ run := .handler 0 1 0 {}, pc := 0 } : Ctx).mayGo 0xFFFFFFFFFFFFFC = false := by decide +kernel
/-- CapabilityInstructions: a well-formed capability over all of the address space. -/
theorem test_witness_capability : (mkCap 0xFF 0 (2 ^ 55) 46 0).wellFormed = true ∧ demo.my.rk 1 = mkCap 0xDF probePc 4096 3 probePc := by
  decide +kernel
/-- AccessChecks, Loads, StoresReachMemory: an access that passes (at the last byte of the page too), one past its end, one untranslated. -/
theorem test_witness_checked :
    (match demo.atIssue.checked demo.atIssue.myAccess (demo.my.rk 1) probePc 8 8 permR 0 with
      | .ok u pa eff => pa == 0 && !eff && (match u.readAt pa 8 eff with
        | .bytes _ bs => bs.length == 8
        | _ => false)
      | _ => false) = true ∧
    (match demo.atIssue.checked demo.atIssue.myAccess (demo.my.rk 1) (probePc + 4095) 1 1 permW 1 with
      | .ok u pa _ => pa == 4095 && (u.writeBarred pa 1).isNone
      | _ => false) = true ∧
    (match demo.atIssue.checked demo.atIssue.myAccess (demo.my.rk 1) (probePc + 4096) 1 1 permR 0 with
      | .fault _ c a => c == .bounds && a == probePc + 4096
      | _ => false) = true ∧
    (match State.reset.atIssue.checked State.reset.atIssue.myAccess (mkCap 0xFF 0 4096 3 0) 0 8 8 permR 0 with
      | .miss _ => true
      | _ => false) = true := by decide +kernel

/-- Core 0 with a second page, at 0x401000, translated to `pa`, and k2 over it. -/
def demoMap (pa : Nat) : State :=
  (demo.modCore 0 (fun k => { k with tlb := k.tlb ++ [⟨0, probePc + 4096, 4096, pa, false, false, 0⟩] })).modMy
    (fun y => { y with k := vset y.k 2 (mkCap 0xDF (probePc + 4096) 4096 3 (probePc + 4096)) })

/-- StoresReachMemory: a buffered store to plain memory, at the last bytes of the first page. -/
theorem test_witness_store :
    let e : StoreEntry := ⟨4088, leBytes 8 7, fullMask 8, false, 0, 0, none⟩
    let s := demo.modMy (fun y => { y with stores := [e] })
    (s.ctx 0 s.me).stores = [e] ∧ isPlain e.pa = true ∧ regionOf e.pa < 0x20 ∧ (s.snoop e.pa e.bytes.length).isNone = true ∧
      e.mask = fullMask e.bytes.length ∧ s.notifyAt e.pa e.bytes.length = [] := by decide +kernel
/-- FullEmptyAndCapabilityTransfers: an empty line of the scratchpad for `st.fe`, a full one for `ld.fe`. -/
theorem test_witness_full_empty :
    (match (demoMap (scratchBase 0)).atIssue.fullEmptyAt ((demoMap (scratchBase 0)).my.rk 2) (probePc + 4096 + 4088) permW 1 false with
      | .ok _ pa => pa == scratchBase 0 + 4088
      | _ => false) = true ∧
    (match ((demoMap (scratchBase 0)).setFull (scratchBase 0) true).atIssue.fullEmptyAt ((demoMap (scratchBase 0)).my.rk 2) (probePc + 4096)
        permR 0 true with
      | .ok _ pa => pa == scratchBase 0
      | _ => false) = true := by decide +kernel
/-- FullEmptyAndCapabilityTransfers: a granule for `ld.cap` and `st.cap`. -/
theorem test_witness_granule :
    (match demo.atIssue.checked demo.atIssue.myAccess (demo.my.rk 1) (probePc + 4080) 16 16 (permR + permL) 0 with
      | .ok u pa _ => isPlain pa && decide (regionOf pa ≤ 2) && !u.ringBarred pa && u.drainMine.2 && (u.drainMine.1.readBarred pa 16).isNone
      | _ => false) = true ∧
    (match demo.atIssue.checked demo.atIssue.myAccess (demo.my.rk 1) probePc 16 16 (permW + permS) 1 with
      | .ok u _ _ => (match u.checked u.myAccess (demo.my.rk 1) probePc 16 16 (permW + permS) 1 with
        | .ok v pb _ => (v.writeBarred pb 16).isNone
        | _ => false)
      | _ => false) = true := by decide +kernel
/-- AtomicsAndFence: an atomic's address that passes, on no tracked line, and one that fails; a fence with nothing left to perform. -/
theorem test_witness_atomic :
    (match demo.atIssue.atomicAt (demo.my.rk 1) (probePc + 4088) true with
      | .ok u pa => pa == 4088 && (u.snoop pa 8).isNone
      | _ => false) = true ∧
    (match demo.atIssue.atomicAt (demo.my.rk 1) (probePc + 4) true with
      | .fault _ c => c == .align
      | _ => false) = true ∧ State.reset.atIssue.drainMine.2 = true := by decide +kernel
/-- VectorIntegerCompareAndMask, VectorFloat, VectorMovementAndReduction: vector words issue at reset, under masks 0 and 7. -/
theorem test_witness_vector :
    State.reset.canIssue ([.v 0, .v 31] ++ maskReads 7 (.v 31)) [.v 31] 2 = true ∧
    State.reset.canIssue ([.v 0, .v 31] ++ maskReads 0 (.v 0)) [.v 0] 4 = true ∧
    State.reset.canIssue ([.v 1, .v 2] ++ maskReads 7 (.m 7)) [.m 7] 4 = true ∧ State.reset.canIssue [.m 0, .m 7] [.m 7] 2 = true ∧
    State.reset.canIssue [.m 7] [.g 0] 2 = true ∧ State.reset.canIssue (.v 31 :: [.m 7]) [.g 0] 4 = true ∧
    State.reset.canIssue [.v 0, .v 1, .g 2] [.v 0, .g 2] 6 = true ∧ State.reset.canIssue [.v 1, .v 2] [.v 30, .v 31] 4 = true := by decide +kernel
/-- VectorConversions: widening, narrowing and equal formats; a table of class NONE and one of another. -/
theorem test_witness_conversion :
    (fmtBits 0 ≤ fmtBits 0) ∧ (∃ t f : Fin 16, fmtBits f.1 < fmtBits t.1) ∧ (∃ t f : Fin 16, fmtBits t.1 < fmtBits f.1) ∧
    (({} : Mu).table 0).cls ≠ .none ∧ ((({} : Mu).setEntry 0 0 0x80000).table 0).cls = .none := by decide +kernel
/-- VectorMemory: every part of an aligned `vld` and `vst` passes; an unaligned address. -/
theorem test_witness_parts :
    (match demo.atIssue.place (demo.my.rk 1) false false (demo.atIssue.my.parts 0 (probePc + 3968)) [] with
      | .ok _ pl => pl.length == 16 && pl.all (fun q => isPlain q.2.1 && !q.2.2)
      | _ => false) = true ∧
    (match demo.atIssue.place (demo.my.rk 1) true false (demo.atIssue.my.parts 0 probePc) [] with
      | .ok _ pl => pl.length == 16
      | _ => false) = true ∧
    (match demo.atIssue.place (demo.my.rk 1) true false (demo.atIssue.my.parts 0 (probePc + 3976)) [] with
      | .fault _ c a => c == .bounds && a == probePc + 4096
      | _ => false) = true ∧ (demo.atIssue.my.memDisp 1 0 128) % 8 = 0 := by decide +kernel
/-- The word at the pc is `vrep` and the one behind it `vadd v1, v2, v3`. -/
def demoRep : State := (demoAt 0).poke 4 (leBytes 4 (0x20 * 2 ^ 23 + 1 * 2 ^ 18 + 2 * 2 ^ 13 + 3 * 2 ^ 8))
/-- Repetition: a word is captured; a sequence that runs, with its instruction, one that has reached its count, one that is stopped. -/
theorem test_witness_repetition :
    (match demoRep.atIssue.capture 1 (demoRep.atIssue.my.pc + 4) [] with
      | .ok _ ws => ws.length == 1
      | _ => false) = true ∧
    (match demo.atIssue.capture 1 (demo.atIssue.my.pc + 4) [] with
      | .fault _ c va => c == .illegal && va == 0
      | _ => false) = true ∧
    (let r : RepSeq := ⟨0, 0, [0x20 * 2 ^ 23 + 1 * 2 ^ 18 + 2 * 2 ^ 13 + 3 * 2 ^ 8], 2, 1, 3, 1, 0, 0, false, false, 0⟩
     r.rep < r.count ∧ (match r.body with
      | some v => let u := ((State.reset.focus 0 r.ctx).modCore 0 (fun k => { k with clock := 0 })).modMy (fun x => x.land 0)
                  !u.my.short v.reads v.writes v.lat 0 && (u.my.blocker v.reads v.writes).isNone && (match v.act u with
        | .ok _ => true
        | _ => false)
      | none => false) = true ∧ ({ r with rep := 2 } : RepSeq).count ≤ ({ r with rep := 2 } : RepSeq).rep ∧ r.base + r.len ≤ 32 ∧
      ({ r with base := 1, len := 31 } : RepSeq).base + ({ r with base := 1, len := 31 } : RepSeq).len ≤ 32) := by decide +kernel

/-- The dwords of a command of OPC `o` with the rest of C0 and C1. -/
def command (o c0 c1 : Nat) : List Dword := [BitVec.ofNat 64 (o + c0), BitVec.ofNat 64 c1, 0, 0, 0, 0, 0, 0]
/-- Core 0's matrix unit with one command at its head. -/
def demoMu (ws : List Dword) (begun : Bool) : State := demo.setMu 0 { queue := [⟨0, ws, 0, begun⟩] }
/-- MatrixCommands: a command that is accepted, one that is refused, one that waits; commands of a list for `mseq`. -/
theorem test_witness_commands :
    parseMu (command 0x30 0 0) = some .mfence ∧ (demo.core 0).mu.check (demo.ringOf 0) (command 0x30 0 0) = none ∧
    (demo.ctx 0 0).msigBlocked (command 0x30 0 0) = false ∧ (demo.ctx 0 0).stores = [] ∧ parseMu (command 0x30 0 1) = none ∧
    (match demo.offer 0 0 [command 0x30 0 0, command 0x31 (31 * 2 ^ 19) 0] with
      | .ok _ => true
      | _ => false) = true ∧
    (match demo.offer 0 0 [command 0xFF 0 0] with
      | .fault c => c == .mucmd
      | _ => false) = true ∧
    (match (demo.setMu 0 { queue := List.replicate 32 ⟨0, command 0x30 0 0, 0, false⟩ }).offer 0 0 [command 0x30 0 0] with
      | .wait _ => true
      | _ => false) = true ∧
    (match demo.atIssue.readRange (demo.my.rk 1) (probePc + 4032) 64 with
      | .ok u _ e => !e && u.drainMine.2
      | _ => false) = true := by decide +kernel
/-- MatrixCommands: the page of core 0's own command queue for `st.x`. -/
theorem test_witness_command_page :
    (match (demoMap (scratchBase 0 + 0x100000 + 0xD000)).atIssue.checked (demoMap (scratchBase 0 + 0x100000 + 0xD000)).atIssue.myAccess
        ((demoMap 0).my.rk 2) (probePc + 4096) 64 64 permW 1 with
      | .ok u pa _ => u.ownCommandPage pa && u.drainMine.2
      | _ => false) = true := by decide +kernel
/-- MatrixRegisters: a tile in no command and one in a command; an address for `mtbl`. -/
theorem test_witness_matrix_registers :
    (demo.core 0).mu.busyTile 7 = false ∧ ((demoMu (command 0x10 (7 * 256) 0) false).core 0).mu.busyTile 7 = true ∧
    (match demo.atIssue.readRange (demo.my.rk 1) (probePc + 3072) 1024 with
      | .ok u _ e => !e && (u.core u.cur).mu.queue.isEmpty
      | _ => false) = true ∧ (probePc + 3072) % 128 = 0 := by decide +kernel
/-- SelectionCommands, TileZeroAndLoad, MatrixSteps: each command at the head, with fields at the ends of their ranges. -/
theorem test_witness_heads :
    ((demoMu (command 0x10 (7 * 256) 0) false).core 0).mu.queue = [⟨0, command 0x10 (7 * 256) 0, 0, false⟩] ∧
    parseMu (command 0x20 (7 * 65536 + 131071 * 2 ^ 32) 0) = some (.bsel 7 131071) ∧
    parseMu (command 0x21 (65536 + 4095 * 2 ^ 20) 131071) = some (.bfill true 4095 0 131071) ∧
    parseMu (command 0x22 (3 * 65536 + 2 ^ 19 + 2 * 2 ^ 22) 0) = some (.tblsel 3 1 2) ∧
    parseMu (command 0x10 (7 * 256) 0) = some (.azero 7) ∧
    parseMu (command 0x11 (7 * 256 + 2 * 65536 + 1048575 * 2 ^ 32) 1048575) = some (.aload 7 2 1048575 1048575) ∧
    parseMu (command 0x12 (2 ^ 20 + 2 ^ 21) 64) = some (.astore 0 0 false true true 0 64) ∧
    parseMu (command 0x01 (4095 * 2 ^ 20) 16) = some (.mma 0 0 4095 0 16) ∧ parseMu (command 0x02 0 16) = some (.mmat 0 0 0 0 16) ∧
    parseMu (command 0x03 (7 * 256) 1024) = some (.mmas 7 0 0 0 1024) ∧ parseMu (command 0x30 0 0) = some .mfence ∧
    parseMu (command 0x31 (31 * 2 ^ 19) 0) = some (.msig 31) := by decide +kernel
/-- MatrixSteps: the side conditions of ASTORE, BFILL and MMAS. -/
theorem test_witness_matrix_steps :
    16 * outSize 0 ≤ 1024 ∧ (0 : Nat) + (4095 + 1) * 2 ≤ 0x20000 ∧ (∃ e, (demoMu (command 0x30 0 0) true).core 0 = e ∧ e.mu.queue.length = 1) ∧
    (demo.scratch 0 (1024 + 2 * 0) 2 < 65536 ∧ 0 + (demo.scratch 0 1024 2 % 4096 + 1) * inSize 0 ≤ 0x20000) := by
  refine ⟨by decide +kernel, by decide +kernel, ⟨_, rfl, by decide +kernel⟩, by decide +kernel⟩
/-- MatrixSteps: R433, Table 9-7: an AZERO that has begun stays at the head in its cycle and is performed once the core's clock has gone on
by one; an MFENCE in the cycle in which it begins. -/
theorem test_witness_matrix_occupancy :
    (match exec (.azero 7) (demoMu (command 0x10 (7 * 256) 0) false) with
      | .next t => decide ((t.core 0).clock < (t.core 0).mu.busyTo) && ((t.muRetire 0).core 0).mu.queue.length == 1 && (((t.idle 0).muRetire 0).core 0).mu.queue.length == 0
      | _ => false) = true ∧
    (match exec .mfence (demoMu (command 0x30 0 0) false) with
      | .next t => decide ((t.core 0).mu.busyTo ≤ (t.core 0).clock) && ((t.muRetire 0).core 0).mu.queue.length == 0
      | _ => false) = true := by decide +kernel
/-- A queue of four slots of `8 · 2^z` bytes at 0x402000, mapped, of type `ty` and home kind `k`, with a local producer port and a
consumer port of the tile of quad 0. -/
def demoQueue (z ty k : Nat) : Queue :=
  { job := 0, desc := BitVec.ofNat 128 (0x402000 + k * 2 ^ 86 + 2 * 2 ^ 88 + z * 2 ^ 98 + 3 * 2 ^ 104 + ty * 2 ^ 120)
    pages := [(0x402, 0x10)], mapped := some (0, 0)
    cons := [{ owner := .tile (.quad 0), headN := 0, headU := 0 }], prods := [{ owner := .tile (.quad 0), remote := false, window := 1 }] }
/-- Core 0 with that queue as queue 7, on every q register. -/
def demoQ (z ty k : Nat) : State := (demo.setQueue 7 (demoQueue z ty k)).modMy (fun y => { y with q := Vector.replicate 16 7 })
/-- The same with an item of type 5, a marker and a wait entry pushed. -/
def demoItem (z k : Nat) : State := (demoQ z 0 k).push 7 0 none false ⟨0, 5, 0, leBytes (8 * 2 ^ z) 0x1234⟩

/-- QueuePops: an item for `qpop`, none, a marker at the head; a queue of 256-byte items and a pair; no port. -/
theorem test_witness_pops :
    ((demoItem 3 0).atIssue.myCons 15).isSome = true ∧
    (demoItem 3 0).canIssue [] [.g 0] 0 = true ∧ (demoItem 5 0).canIssue [] (itemRegs 30 ((demoItem 5 0).itemSize 0)) 0 = true ∧
    (demoItem 5 0).itemSize 0 = 256 ∧
    (match (demoItem 3 0).atIssue.myCons 0 with
      | some (_, x, c) => (demoItem 3 0).atIssue.myCand x c == .item false 0 && (demoItem 3 0).atIssue.itypeAt x false 0 == 5
      | none => false) = true ∧
    (match (demoQ 3 0 0).atIssue.myCons 0 with
      | some (_, x, c) => (demoQ 3 0 0).atIssue.myCand x c == .none
      | none => false) = true ∧
    (match ((demoQ 3 0 0).push 7 0 none false ⟨1, 0, 9, []⟩).atIssue.myCons 0 with
      | some (_, x, c) => ((demoQ 3 0 0).push 7 0 none false ⟨1, 0, 9, []⟩).atIssue.myCand x c == .marker 9
      | none => false) = true ∧
    ((demoItem 3 0).atIssue.my.held 0 false).isNone = true ∧ ((demoItem 3 0).atIssue.my.held 0 true).isNone = true ∧
    (demo.atIssue.myCons 0).isNone = true := by decide +kernel
/-- QueuePush, PushedItemIsTaken: room on a local port, an item of the queue's size, a queue that holds nothing. -/
theorem test_witness_push :
    (match (demoQ 0 5 0).atIssue.myProd 15 with
      | some (_, x, p) => x.hasRoom (demoQ 0 5 0).atIssue.my.firing? p false 1 && x.isLocal p && x.slotsFor 0 == 1
      | none => false) = true ∧ isEngineId ((demoQ 0 5 0).atIssue.my.qid 15) = false ∧ (demoQ 0 5 0).atIssue.drainMine.2 = true ∧
    (demoQ 0 5 0).queue? 7 = some (demoQueue 0 5 0) ∧ (leBytes 8 3).length = (demoQueue 0 5 0).isz ∧
    (demoQueue 0 5 0).hostProducer = none ∧ (demoQueue 0 5 0).hostConsumer = none := by decide +kernel
/-- PushedItemIsTaken: the ring of that queue lies on one page, so that no two of its bytes share an address. -/
theorem test_witness_ring : ∀ a b, (demoQueue 0 5 0).base ≤ a → a < (demoQueue 0 5 0).base + (demoQueue 0 5 0).footprint →
    (demoQueue 0 5 0).base ≤ b → b < (demoQueue 0 5 0).base + (demoQueue 0 5 0).footprint →
    (demoQueue 0 5 0).pa a = (demoQueue 0 5 0).pa b → a = b := by
  intro a b h1 h2 h3 h4 h
  have hb : (demoQueue 0 5 0).base = 0x402000 := by decide +kernel
  have hf : (demoQueue 0 5 0).footprint = 64 := by decide +kernel
  have hp : (demoQueue 0 5 0).pages = [(0x402, 0x10)] := rfl
  rw [hb, hf] at h2 h4
  rw [hb] at h1 h3
  have ha : a / 4096 = 0x402 := by omega
  have hc : b / 4096 = 0x402 := by omega
  rw [Queue.pa, Queue.pa, ha, hc] at h
  omega
/-- QueuePush: an engine queue on a q register, with room; an actor without inputs for `qmark.a`. -/
theorem test_witness_mark :
    isEngineId 0x8000 = true ∧ (demo.eng 0x8000).room none = true ∧ (∃ a : ActorDecl, a.ins = [] ∧ ({ decl := a } : ActorSt).direct = none) := by
  refine ⟨by decide +kernel, by decide +kernel, ⟨[], [], 0, false, 0, none, [], none, 1⟩, rfl, rfl⟩
/-- QueueStatusAndManagers: a remote port whose window fits and one whose does not; an item in flight, an acknowledgement; a wait entry at a
head. -/
theorem test_witness_managers :
    let x := { demoQueue 3 0 0 with prods := [{ owner := .tile (.quad 0), remote := true, window := 1 }]
                                    inflight := [{ port := 0, urgent := false, kind := 0, type := 0, mkid := 0, bytes := leBytes 64 1 }], acks := [0] }
    1 ≤ 4 ∧ 4 ≤ x.cap ∧ ((x.prods.filter (·.remote)).map (·.window)).sum - 1 + 4 ≤ x.cap ∧ ¬(5 ≤ x.cap) ∧
    (takeInFlight 0 x.inflight).isSome = true ∧ (x.prods[0]?).any ProdPort.leaves = false ∧ 0 ∈ x.acks ∧ x.mapped.isSome = true ∧
    (let s := (demoQ 3 0 0).push 7 0 none false ⟨2, 0, 0, fenceBytes [7] [0]⟩
     match s.queue? 7 with
     | some y => (match y.cons[0]? with
       | some z => s.parkedFor y z && (match s.entryHolds ((List.range (y.slotsFor 2)).flatMap (fun k => s.itemAt y false (z.headN + BitVec.ofNat 32 k)))
            y.job y.homeIsland 7 with
         | .yes _ => true
         | _ => false)
       | none => false)
     | none => false) = true := by decide +kernel
/-- WindowWrites: a landing register enabled and empty, enabled and full, not enabled; a tile in a command; registers of the host's reach. -/
theorem test_witness_windows :
    (0x8000 : BitVec 16).getLsbD (8 + 7) = true ∧ (0x8000 : BitVec 16).getLsbD 7 = false ∧ (0x8080 : BitVec 16).getLsbD 7 = true ∧
    (State.reset.ctx 0 0).landctl.getLsbD 8 = false ∧ (State.reset.core 0).mu.busyTile 0 = false ∧
    ((demoMu (command 0x10 0 0) false).core 0).mu.busyTile 0 = true ∧
    coreWindow? (scratchBase 0 + 0x100000 + 0x1000) = some (0, 0x1000) ∧ demo.windowCheck 0 0x1000 8 false = some .window ∧
    regionOf (3 * 2 ^ 44) = 3 ∧ demo.writerBarred .outside (3 * 2 ^ 44 + 2 ^ 40) = none ∧ (3 * 2 ^ 44 + 4) % 8 ≠ 0 ∧ regionOf 0 ≠ 3 := by
  decide +kernel
/-- QueueManagerCommands: a free manager and slot, a block that names a queue, one that names none, a mapped queue without reservation. -/
theorem test_witness_queue_manager :
    let q : Queue := { demoQueue 3 0 0 with block := 256, mapped := none, wanted := true }
    let s := demo.setQueue 7 q
    (s.island 0).busy = none ∧ regionOf 256 = 0 ∧ mapFind (s.island 0).slots 255 = none ∧ s.queueOfBlock (1 * 256) = some 7 ∧
    s.queueOfBlock (2 * 256) = none ∧
    s.islands.any (fun e => e.2.slots.any (fun p => p.2 == 7) || e.2.busy.any (fun b => b.2.2 == 7)) = false ∧
    s.askedFor q = true ∧ q.mapped = none ∧ s.resv q = false ∧ s.notifyBase.get 0 = 0 ∧ s.micros < s.quietSince.get 0 + 10000 ∧
    (let u : State := { s with micros := 10000, notifyBase := vset s.notifyBase 0 (2 ^ 26 - 2 ^ 20), queues := []
                               engines := [(0x8000, { entries := [.wait (fenceBytes [0x8000] [1]) (.quad 0)] })] }
     u.stuckFor10ms 0 = true ∧ u.episodePosted 0 = false ∧ u.queuesOf 0 = [] ∧ u.parkedEngines 0 = [.quad 0] ∧ u.notifyBase.get 0 ≠ 0 ∧
       (u.byteAt (u.notifyBase.get 0 + 0x80000)).getLsbD 0 = false) := by decide +kernel
/-- PreemptionAndRelease: a quad that runs, one under pre-emption with its contexts stopped, one saved, a tile in release. -/
theorem test_witness_preemption :
    let s := demo
    let p := (demo.modQuad 0 (fun q => { q with ctlState := 1 })).modCore 0 (fun k => { k with ctxs := k.ctxs.map (fun y => { y with stopped := true }) })
    (s.quad 0).heldTarget = none ∧ (s.quad 0).ctlState = 0 ∧ s.wavefront (s.jobOf 0) = false ∧ regionOf (s.saveAt 0 0) = 0 ∧
    (p.quad 0).ctlState = 1 ∧ (p.core 0).saved = false ∧ (∀ y, (p.ctx 0 y).stopped = true) ∧ (p.core 0).mu.queue = [] ∧ (p.core 0).rep = none ∧
    (p.core (0 / 4 * 4 + 3)).saved = false ∧ (p.quad 0).preemptAt + 1000 ≤ ({ p with micros := 1000 } : State).micros ∧
    p.micros < (p.quad 0).preemptAt + 1000 ∧ (State.reset.quad 1023).tile = none := by decide +kernel
/-- PreemptionAndRelease: a tile of which nothing is left. -/
theorem test_witness_release : ∃ x : Tile, x.releasing = true ∧
    (State.reset.modQuad 255 (fun q => { q with tile := some x })).quadBusy 255 x = false :=
  ⟨{ irfinTile with releasing := true }, rfl, by decide +kernel⟩
/-- WaitsAndSwitches: every wait; another context that is ready; a stalled one. -/
theorem test_witness_waits :
    let s (w : Wait) := demo.modMy (fun y => { y with wait := w, since := some 0, waited := 8 })
    (s .resource).my.wait = .resource ∧ (demo.my.wait = .none) ∧ (s .miss).merged 0 0 = false ∧
    (s (.reg (.g 31))).my.landingEmpty (.g 31) = false ∧ (s .pop).my.stalled = true ∧ demo.my.stalled = false ∧
    (((s .pop).modCtx 0 3 (fun y => { y with run := .firing 0 })).core 0).nextReady.isSome = true ∧
    (∀ z, ((s (.reg (.g 1))).ctx 0 z).ready = false) ∧
    ({ vars := [⟨.g 5, some (.g 5 1)⟩, ⟨.g 6, none⟩] } : Ctx).vars[1]? = some ⟨.g 6, none⟩ := by decide +kernel
/-- ExceptionsAndAnswers: an exception queue with room and none; an answer that names a waiting record; an aligned actor. -/
theorem test_witness_exceptions :
    let e := { demoQueue 3 0x7E 0 with desc := (demoQueue 3 0x7E 0).desc, cons := [], prods := [{ owner := .tile (.quad 0), remote := false, window := 1 }] }
    let a := { demoQueue 1 0x7D 0 with cons := [{ owner := .device, headN := 0, headU := 0 }], prods := [] }
    let s := ((demo.setQueue 7 e).setQueue 8 a).modEx (.quad 0) (fun x => { x with exq := 7, ansq := 8, awaiting := [⟨0, .pagefault, .context 0 0⟩] })
    (demo.pushRecord (.quad 0) (demo.contextRec 0 demo.me .illegal 0) (some (.context 0 demo.me))).isNone = true ∧
    (s.pushRecord (.quad 0) (s.contextRec 0 s.me .illegal 0) (some (.context 0 s.me))).isSome = true ∧
    s.answerHead (.quad 0) = none ∧ (s.exSide? (.quad 0)).isSome = true ∧ Cause.accepts .pagefault 0 = true ∧ Cause.accepts .pagefault 2 = true ∧
    ((s.pushDevice 8 false ⟨0, 0x7D, 0, List.replicate 16 0⟩).answerHead (.quad 0)).isSome = true := by decide +kernel
/-- A page table of job 1 at 0x100000 whose five levels lead to one leaf, with its accessed bit set or not (R361, R362). -/
def demoTable (leaf : Nat) : State :=
  let s : State := { State.reset with jobs := [(1, { root := 0x100000 })] }
  let e (i n : Nat) (t : State) := t.pokeD (0x100000 + 0x1000 * i + 8 * n) (BitVec.ofNat 64 (0x100000 + 0x1000 * (i + 1) + 1))
  ((e 0 0 (e 1 0 (e 2 0 (e 3 2 s)))).pokeD 0x104000 (BitVec.ofNat 64 leaf)).modIsland 0 (fun i => { i with misses := [⟨0x400, 1, 0, 0x400008, none, [.context 0 0]⟩] })
/-- PageWalks: a leaf whose accessed bit is set, one whose is not, an absent page, a malformed table, an entry that waits for an answer. -/
theorem test_witness_walks :
    (((demoTable 0x8000).island 0).misses.find? (fun m => m.vpage == 0x400 && m.job == 1 && m.rid.isNone)).isSome = true ∧
    (match (demoTable (0x8000 + 3)).walk 1 0x400000 with
      | .leaf _ b => !b
      | _ => false) = true ∧
    (match (demoTable (0x8000 + 0x43)).walk 1 0x400000 with
      | .leaf _ b => b
      | _ => false) = true ∧
    (match (demoTable 0).walk 1 0x400000 with
      | .absent => true
      | _ => false) = true ∧
    (match (demoTable (1 + 2 ^ 52)).walk 1 0x400000 with
      | .bad => true
      | _ => false) = true ∧
    ([⟨1, 0, 0, 4096, some 5, []⟩] : List Miss).find? (fun m => m.rid = some ((0x02000005 : Dword).setWidth 16)) = some ⟨1, 0, 0, 4096, some 5, []⟩ := by
  decide +kernel

/-- Core 32 of a tile at tile privilege outside the arbor, core 33 its neighbour. -/
def demoMsg : State :=
  ((({ State.reset with cur := 32 } : State).placeCore 0).modQuad 8 (fun q => { q with tile := q.tile.map (fun t => { t with priv := 0 }) })).modMy
    (fun y => { y with g := vset (vset y.g 1 33) 2 (4 + 65536), k := vset y.k 1 (mkCap 0xDF probePc 4096 3 probePc) })
/-- MessageTaskAndBarrierInstructions: a message that may go (256 bytes too), a handler, a template, a handle, a barrier object. -/
theorem test_witness_messages :
    bitsOf (demoMsg.my.rg 2).toNat 0 9 = 4 ∧ bitsOf (demoMsg.my.rg 2).toNat 16 5 = 1 ∧ bitsOf (256 + 16 * 65536) 0 9 = 256 ∧
    demoMsg.isArbor 8 = false ∧ demoMsg.mayMessage 33 = true ∧ (demoMsg.my.rk 1).cursor.toNat % 4 = 0 ∧
    (match demoMsg.atIssue.readRange (demoMsg.my.rk 1) (demoMsg.my.rk 1).cursor.toNat 4 with
      | .ok v _ _ => decide ((v.core v.cur).outbox.length < 2) && v.drainMine.2
      | _ => false) = true ∧
    ({ run := .handler 3 16 4095 {} } : Ctx).inHandler = true ∧ demo.atIssue.my.inHandler = false ∧
    (match demo.atIssue.checked demo.atIssue.myAccess (demo.my.rk 1) (probePc + 4064) 32 32 permR 0 with
      | .ok v pa e => (match v.readAt pa 32 e with
        | .bytes _ bs => templateOk (BitVec.ofNat 256 (leNat bs))
        | _ => false)
      | _ => false) = true ∧
    0x40000 - demo.ringOf 0 * 32 < 64 * 4095 + 64 ∧ 64 * 0 + 64 ≤ 0x40000 - demo.ringOf 0 * 32 ∧ demo.dequeRoom 0 = true ∧
    (demo.tileOf 3).isSome = true ∧ demo.jobOf 3 = demo.jobOf demo.cur ∧ demo.tileOf 4095 = none ∧ demo.atIssue.my.record.isSome = true ∧
    demo.atIssue.my.vars = [] ∧ demo.atIssue.hasRep demo.cur demo.me = false := by decide +kernel
/-- MessageTaskAndBarrierInstructions: a barrier object of one arrival and a malformed one; a count reached and one not; a signal. -/
theorem test_witness_barriers :
    barOk (2 ^ 64) = true ∧ barOk 0 = false ∧ barOk (2 ^ 64 + 40 * 2 ^ 112) = true ∧
    (match (demo.poke 0 (leBytes 16 (2 ^ 64))).atIssue.barrierAt (demo.my.rk 1) probePc (permR + permW + permA) 3 with
      | .ok v pa => barOk (leNat (v.peek pa 16)) && (v.snoop pa 16).isNone
      | _ => false) = true ∧
    (match demo.atIssue.checked demo.atIssue.myAccess (demo.my.rk 1) (probePc + 4088) 8 8 permR 0 with
      | .ok v pa e => (match v.readAt pa 8 e with
        | .bytes _ bs => leNat bs == 0
        | _ => false)
      | _ => false) = true := by decide +kernel
/-- MessageAndTaskSteps: a message in the outbox, in the network, in the inbox; a handler may start; a decrement; a barrier's deadline. -/
theorem test_witness_task_steps :
    let m : Msg := ⟨5, 1, List.replicate 256 1⟩
    let s := (State.reset.modQuad 0 (fun q => { q with tile := some irfinTile })).modCore 0 (fun k => { k with
      outbox := [(1, m)], net := [m], parts := [{ msg := m, port := 11, beat := 0 }], order := [0], inbox := vset k.inbox 0 (some ⟨5, 1, 256⟩), decs := [0], pending := [0] })
    (s.core 0).inbox.get 1 = none ∧ (∀ f, f < (1 : Fin 4) → (s.core 0).inbox.get f ≠ none) ∧ m.bytes.length ≤ 256 ∧ s.mayStart 0 = true ∧
    (∀ z, ((s.core 0).ctxs.get z).inHandler = false) ∧ s.freeCtx 0 = some 0 ∧ (s.ctx 0 0).stopped = false ∧ s.dequeRoom 0 = true ∧
    leNat (s.peek (scratchBase 0 + 32) 4) = 0 ∧ ({ wait := .barrier (some 4) 0 0 } : Ctx).wait = .barrier (some 4) 0 0 ∧
    s.receives 0 = true ∧ (s.core 1).takesMessage = true ∧ (s.links.get 11).up = false ∧ 0 + 2 ^ 16 ≤ 2 ^ 16 := by decide +kernel
/-- FiringDispatchAndStealing: an actor without inputs that fires, a record to dispatch, a thief and a victim. -/
theorem test_witness_firing :
    let a : ActorDecl := ⟨[], [], 0x400000, false, 0, none, [], none, 1⟩
    let s := (State.reset.modQuad 0 (fun q => { q with tile := some { irfinTile with actors := [{ decl := a }] } })).modCore 0 (fun k =>
      { k with deque := [mkRecord 0x400000 1 2 0 0 2 false 0 0] })
    let u := (List.range 64).foldl (fun (st : State) a => st.reportTypes 0 a) (s.wantAll 0)
    s.unitRuns 0 = true ∧ u.chooseActor 0 = some 0 ∧ (match u.readiness 0 0 with
      | some (_, []) => true
      | _ => false) = true ∧ (u.actor? 0 0).isSome = true ∧
    s.mayStart 0 = true ∧ (s.core 0).handlerFirst = false ∧ s.freeCtx 0 = some 0 ∧
    ((s.dequeOf 0)[pickRecord (s.dequeOf 0) (s.core 0).urgRun (s.core 0).botRun]?).isSome = true ∧ s.maySteal 1 = true ∧
    s.unitRuns 1023 = false ∧ s.maySteal 0 = false := by decide +kernel
/-- FiringDispatchAndStealing: a record that the victim hands over. -/
theorem test_witness_theft :
    let r := mkRecord 0x400000 1 2 0 0 2 false 5 0
    let s := ((State.reset.modQuad 0 (fun q => { q with tile := some irfinTile })).modCore 0 (fun k => { k with deque := [r] })).modCore 1
      (fun k => { k with steal := { k.steal with victim := some 0 } })
    (s.core 1).steal.victim = some 0 ∧ (s.dequeOf 0).getLast? = some r ∧ s.handsOver 0 1 r = true ∧ ringAsks 4 ≤ 1000 := by decide +kernel
/-- The bytes of a vector register that hold these dwords. -/
def imageOf (l : List Nat) : VReg := BitVec.ofNat 1024 (l.foldr (fun x r => x + r * 2 ^ 64) 0)
/-- Core 0 with a request image in v1 and capabilities in k1 and k2. -/
def demoEng (l : List Nat) : State :=
  demo.modMy (fun y => { y with v := vset y.v 1 (imageOf l), k := vset y.k 2 (mkCap 0xDF probePc 4096 3 probePc) })
/-- EngineRequestsAndSteps: a copy of 128 bytes is accepted, one with a reserved bit is refused; a queue with room. -/
theorem test_witness_engine_request :
    (let s := demoEng [probePc, probePc + 128, 128, 0]
     match s.atIssue.engCheck s.atIssue.myAccess .cp (dwordsOf 4 (leBytes 128 (s.my.rv 1).toNat)) (s.my.rk 1) (s.my.rkN 2) (.quad 0) (some 0) 0 with
     | .ok w _ => decide ((w.eng 0x8000).entries.length < 32) && w.drainMine.2
     | _ => false) = true ∧
    (let s := demoEng [probePc + 2 ^ 56, probePc + 128, 128, 0]
     match s.atIssue.engCheck s.atIssue.myAccess .cp (dwordsOf 4 (leBytes 128 (s.my.rv 1).toNat)) (s.my.rk 1) (s.my.rkN 2) (.quad 0) (some 0) 0 with
     | .fault _ c _ => c == .engformat
     | _ => false) = true ∧
    State.reset.canIssue [.v 31, .k 14, .k 15] [.g 31] 0 = true := by decide +kernel
/-- EngineRequestsAndSteps: the copy at the head of its queue, begun, its source read and its destination in reach. -/
theorem test_witness_engine_step :
    let img : List Dword := [BitVec.ofNat 64 probePc, BitVec.ofNat 64 (probePc + 128), 128, 0]
    let k := mkCap 0xDF probePc 4096 3 probePc
    let s := (demo.modEng 0x8000 (fun q => { q with entries := [.request .cp img k k (.reg 0 0 5) (.quad 0) 0], busy := some {} })).modIsland (islandOfTile (.quad 0))
      (fun i => { i with tlb := [⟨0, probePc, 4096, 0, false, false, 0⟩] })
    let r := engReq img
    let a := s.engAccess 0x8000 (.quad 0)
    r.dq = false ∧ r.full = false ∧ r.flash = false ∧ ¬(r.src < r.dst ∧ r.dst < r.src + r.len) ∧ 0 < r.len ∧ r.dst % 128 + r.len ≤ 128 ∧
    s.tagOffsets a k k r.src r.dst r.len = [] ∧
    (match s.engRead a k false (r.len / 4096 + 2) r.src r.len [] with
      | .bytes w bs none => bs.length == r.len && (w.engReach a k (r.len / 128 + 2) r.dst r.len 0).1 == r.len && (w.engReach a k (r.len / 128 + 2) r.dst r.len 0).2.isNone &&
        (let y := w.setBusy 0x8000 { data := some bs, limit := r.len }
         decide (y.engAccess 0x8000 (.quad 0) = a) && (match y.checked a k r.dst r.len 1 permW 1 with
          | .ok v pb _ => (v.engBarred pb r.len).isNone && isPlain pb && (v.snoop pb r.len).isNone && decide ((v.eng 0x8000).entries = (s.eng 0x8000).entries)
          | _ => false))
      | _ => false) = true := by decide +kernel

/-- A fabric tile of one block at FTID 0, with EXIT at (0, 0) port 3, and its element 0 armed, with tokens at its FIFOs 0 and 1. -/
def demoTile : FabTile := { job := 0, widthM1 := 0, heightM1 := 0, ctxMask := 1, slots := List.replicate 6 0x8000 ++ [0x8003] }
def demoEl (toks : List Tok) (ctl : List Bool) : State :=
  ((State.reset.setFab 0 demoTile).modElement 0 (fun y => { y with
    fifos := vset (vset y.fifos 0 toks) 1 toks, ctl := ctl.map (fun b => ⟨b, 0⟩), ctxs := vset y.ctxs 0 { y.ctxs.get 0 with armed := true, ctlw := 1 } }))
/-- ElementArithmetic, ElementStreams, ElementPorts: heads that join as data, as a stop, as unequal kinds, and not; CTL with and without its
token; a destination that accepts. -/
theorem test_witness_elements :
    let s := demoEl [⟨0, 7, 0⟩] [true]
    s.mayFire 0 0 = true ∧
    (match joinKinds ((fifoPorts 0 1).map (s.element 0).head) with
      | .data => true
      | _ => false) = true ∧
    (match joinKinds ((fifoPorts 0 1).map ((demoEl [⟨1, 0, 0⟩] []).element 0).head) with
      | .pass k _ => k == kStop
      | _ => false) = true ∧
    (match joinKinds ((fifoPorts 0 1).map ((demoEl [] []).element 0).head) with
      | .stalls => true
      | _ => false) = true ∧
    (match joinKinds [some ⟨0, 1, 0⟩, some ⟨1, 0, 0⟩] with
      | .bad => true
      | _ => false) = true ∧
    s.accepts 0 ((s.element 0).ctxs.get 0) { sends := [(3, kData, 0)] } = true ∧
    ((s.element 0).offer ((s.element 0).ctxs.get 0) 0 0).isSome = true ∧ ((s.element 0).offer ((s.element 0).ctxs.get 0) 0 2).isNone = true ∧
    (demoEl [] []).mayFire 0 1 = false := by decide +kernel
/-- The same: a word goes with CTL 0 and 3, and with CTL 1 and 2 on its token. -/
theorem test_witness_ctl : (demoEl [] []).ctlGoes 0 false ∧ (demoEl [] []).ctlGoes 3 false ∧ (demoEl [] [true]).ctlGoes 1 true ∧
    (demoEl [] [false]).ctlGoes 2 true := by unfold State.ctlGoes; decide +kernel
/-- ElementArithmetic: a firing whose token goes to another element's FIFO. -/
theorem test_witness_route :
    (match (demoEl [] []).destOf 0 ((demoEl [] []).element 0 |>.ctxs.get 0) 1 with
      | .fifo g _ => g != 0
      | _ => false) = true ∧
    (demoEl [] []).accepts 0 (((demoEl [] []).element 0).ctxs.get 0) { sends := [(1, kData, 5)] } = true := by decide +kernel
/-- ElementPorts: an access through slot 0 that passes its checks, one that fails them. -/
theorem test_witness_element_memory :
    let s := ((demoEl [⟨0, 0, 0⟩] []).modFab 0 (fun t => { t with caps := vset t.caps 0 (mkCap 0xDF probePc 4096 3 probePc) })).modIsland (elIsland 0) (fun i =>
      { i with tlb := [⟨0, probePc, 4096, 0, false, false, 0⟩] })
    let s := s.modIsland ((s.elAccess 0 0).island) (fun i => { i with tlb := [⟨0, probePc, 4096, 0, false, false, 0⟩] })
    let k := s.elCap 0 0
    (match s.checked (s.elAccess 0 0) k (elAddr k 0) 8 8 permR 0 with
      | .ok u pa _ => isPlain pa && !u.inRing pa && !u.linkDown pa && !u.poisoned pa 8
      | _ => false) = true ∧
    (match s.checked (s.elAccess 0 0) k (elAddr k 4088) 8 8 permW 1 with
      | .ok u pa _ => isPlain pa && !u.inRing pa && !u.linkDown pa && (u.snoop pa 8).isNone
      | _ => false) = true ∧
    (match s.checked (s.elAccess 0 0) k (elAddr k 4096) 8 8 permR 0 with
      | .fault _ c _ => c == .bounds
      | _ => false) = true ∧
    (match s.located (s.elAccess 0 0) k (elAddr k 0) 8 8 (permR + permW + permA) 3 with
      | .ok u pa _ => decide (regionOf pa < 3) && isPlain pa && (u.route (s.elAccess 0 0) k.hasG pa).isNone && (coreWindow? pa).isNone
      | _ => false) = true ∧ s.emitStatus 0 0 = none := by decide +kernel
/-- FabricCalls: a call that may be queued, one to start, one in progress with its EXIT tokens, one that has ended. -/
theorem test_witness_calls :
    let s := demo.setFab 0 demoTile
    (0x10000 : Nat) / 2 ^ 23 = 0 ∧ BitVec.ofNat 4 (bitsOf 0x10000 16 4) ≠ 0 ∧ s.fab? 0 = some demoTile ∧ s.mayCall 0 demoTile = true ∧
    demoTile.room = true ∧ s.atIssue.drainMine.2 = true ∧ demoTile.between = true ∧ demoTile.call = none ∧
    (1 : BitVec 4) &&& ~~~(demoTile.ctxMask ||| demoTile.groveMask) = 0 ∧ (2 : BitVec 4) &&& ~~~(demoTile.ctxMask ||| demoTile.groveMask) ≠ 0 ∧
    slotValid (demoTile.slots.getD 5 0) = true ∧ (∀ c, demoTile.staged.get c = none) ∧
    s.genCheck 0 demoTile 1 (Vector.ofFn (fun _ : Fin 4 => {})) = none ∧
    (let t : FabTile := { demoTile with call := some { seq := 0, caller := .quad 0, arm := 1 }, history := [(1, 9)] }
     t.job = s.jobOf 0 ∧ t.pendingCall 0 = true ∧ t.pendingCall 1 = false ∧ t.history.find? (fun p => p.1 == 1) = some (1, 9)) ∧
    (mkCap 0xDF probePc 4096 3 probePc).cursor.toNat % 64 = 0 ∧
    (match s.atIssue.readRange (s.my.rk 1) probePc 4096 with
      | .ok w _ e => !e && (w.fab? 0).isSome
      | _ => false) = true := by decide +kernel
/-- FabricReconfiguration: an image read whole and one stopped by no capability; a grove's object refused; a fold to take back. -/
theorem test_witness_reconfiguration :
    let s := demo.setFab 0 demoTile
    (match s.readImage (s.fabAccess 0 (.quad 0)) (some {}) 0 0 demoTile (fun _ => true) (fun _ => [0]) with
      | .got _ _ (some c) => c == .perm
      | _ => false) = true ∧
    (match s.groveCheck 0 demoTile [] with
      | .error _ => true
      | _ => false) = true ∧
    (∃ t : FabTile, t.between = true ∧ t.queue = [.commit 0 (.reg 0 0 5) 3 (.quad 0)] ∧ (t.staged.get 3).isSome = true) ∧
    (∃ t : FabTile, t.prunes = [⟨0, .reg 0 0 5, 0, 0, 0, {}, .quad 0⟩] ∧ t.folds = [] ∧ t.committing = none ∧ t.splicing = false) ∧
    (({} : Cap).check 0 64 permR) = some .perm := by
  refine ⟨by decide +kernel, by decide +kernel,
    ⟨{ demoTile with queue := [.commit 0 (.reg 0 0 5) 3 (.quad 0)], staged := vset demoTile.staged 3 (some ⟨8, [], 0, some {}, 1, [0], [], []⟩) }, by decide +kernel⟩,
    ⟨{ demoTile with prunes := [⟨0, .reg 0 0 5, 0, 0, 0, {}, .quad 0⟩] }, by decide +kernel⟩, by decide +kernel⟩
/-- ElementSteps: a pair of a grove with its operands; a marker at the sources of a word; a switch to the next context. -/
theorem test_witness_element_steps :
    let s := demoEl [⟨2, 9, 0⟩] []
    let g := (demoEl [⟨0, 5, 0⟩] []).modElement 0 (fun y => { y with ctxs := vset y.ctxs 0 { y.ctxs.get 0 with node0 := 2 ^ 33 } })
    kMarker = 2 ∧ (s.element 0).markerAt 0 = some 9 ∧ (s.element 0).markerAt 2 = none ∧
    ((g.element 0).ctxs.get 0).isGrove = true ∧ g.mayFire 0 0 = true ∧ ((s.element 0).ctxs.get 0).isGrove = false ∧
    (nodeOf (2 ^ 33)).b ≠ 7 ∧
    (match joinKinds ((((nodeOf (2 ^ 33)).ports ++ (nodeOf 0).ports).eraseDups).map (g.element 0).head) with
      | .data => true
      | _ => false) = true ∧ s.canFire 0 3 = false ∧ ((s.element 0).ctxs.get (3 + 1)).armed = true ∧ s.canFire 0 (3 + 1) = true := by decide +kernel
/-- StateRegistersAndTraps: registers of each privilege, a trap's entry with its port, a handle of a context in a trap wait. -/
theorem test_witness_state_registers :
    demo.atIssue.privOf 0 = 2 ∧ (demo.atIssue.stateReg 0 0 2).isSome = true ∧ (demo.atIssue.stateReg 0 0 1023) = none ∧
    demo.atIssue.sregRead 2 = 0 ∧ sregWrite 0 = none ∧ sregWrite 4 = some 0 ∧ sregWrite 0x11F = some 1 ∧ demo.atIssue.vectorPending = false ∧
    demo.atIssue.hasRep 0 0 = false ∧
    (let s := (demoQ 3 0x7F 0).modQuad 0 (fun q => { q with trapTbl := vset q.trapTbl 15 0x10007 })
     ((s.quad 0).trapTbl.get 15).getLsbD 16 = true ∧ s.canIssue [.g 1, .g 2, .g 3, .g 4, .g 5, .g 6] [] 1 = true ∧
     (match s.atIssue.trapPort 0x10007 with
      | some (_, q, p) => q.hasRoom none p false 1
      | none => false) = true ∧ s.atIssue.trapPort 0x10008 = none) ∧
    (let s := demo.modCtx 1 2 (fun y => { y with wait := .trap, trapped := true })
     s.trapped (s.ctxid 1 2) = some (1, 2) ∧ s.servesJob 0 (s.jobOf 1) = true ∧ s.trapped 0 = none ∧ s.liveEntry 0 s.my.pc = none) := by
  decide +kernel
/-- FirmwareInstructions: a core of the partition, operands at the ends of their ranges; well-formed bits within the mint bounds and not. -/
theorem test_witness_firmware :
    (8191 : Nat) / 2 ^ 13 = 0 ∧ demo.atIssue.samePart 0 (8191 % 4096 / 1024) = true ∧ (65535 : Nat) / 2 ^ 16 = 0 ∧
    (demo.atIssue.die 0).frozen = false ∧ (demo.atIssue.die 0).freezeAt = none ∧
    ¬(bitsOf 5 3 2 = 3 ∨ 6 ≤ bitsOf 5 0 3 ∨ bitsOf 5 5 11 ≠ 0 ∨ 5 / 2 ^ 32 ≠ 0 ∨ (bitsOf 5 3 2 = 2 ∧ bitsOf 5 16 16 ≠ 0)) ∧
    (demo.atIssue.drainScope 5).storesLeft 5 = false ∧ (mkCap 0 0 0 0 0).wellFormed = true ∧ ({ bits := 63 * 2 ^ 104, tag := false } : Cap).wellFormed = false := by
  decide +kernel
/-- Ring 0 with 16 entries, enabled, and a command begun in it for job 1 on partition 0, which has a page table at 0x100000. -/
def demoHdr : HostHdr := ⟨0, 7, 1, false⟩
def demoCmd (opc : Nat) (ops : List Dword) : State :=
  let s : State := { demoTable 0x8043 with dies := Vector.replicate 4 { started := true, dbg := true, stalls := 31 } }
  s.modRing 0 (fun r => { r with cfg := 0x14, begun := [headWord demoHdr opc :: ops] })
/-- Whether a command stands begun in that ring, with room for its completion and no reserved bit. -/
def isBegun (s : State) (opc : Nat) (ops : List Dword) : Bool :=
  match s.entryOf demoHdr opc ops with
  | some e => (s.ring 0).cqRoom && (e.getD 0 0 &&& 0xFEF0) == 0
  | none => false
/-- HostCommandForm, JobAndTileCommands, QueueCommands, CopyAndHdm, DeviceCommands: each command begun; a reserved bit; no room. -/
theorem test_witness_begun :
    isBegun (demoCmd 0 [4096]) 0 [4096] = true ∧ isBegun (demoCmd 3 []) 3 [] = true ∧ isBegun (demoCmd 6 [1, 2]) 6 [1, 2] = true ∧
    isBegun (demoCmd 9 [1, 2, 3, 0]) 9 [1, 2, 3, 0] = true ∧ isBegun (demoCmd 15 [3]) 15 [3] = true ∧
    isBegun (demoCmd 5 [tileNo (.quad 1023)]) 5 [tileNo (.quad 1023)] = true ∧ (demoCmd 0 []).hasJob demoHdr = true ∧
    (demoCmd 0 []).hasJob { demoHdr with job := 2 } = false ∧ (demoCmd 0 []).entryOf demoHdr 1 [] = none ∧
    (((demoCmd 0 []).modRing 0 (fun r => { r with cqHead := 1 })).ring 0).cqRoom = false ∧
    (((demoCmd 0 [0]).modRing 0 (fun r => { r with begun := [[headWord demoHdr 0 ||| 16, 0]] })).entryOf demoHdr 0 [0]).isSome = true := by decide +kernel
/-- HostCommandForm: a ring that fetches its next entry. -/
theorem test_witness_doorbell :
    ((demoCmd 0 []).ring 0).enabled = true ∧ (demoCmd 0 []).hostRole = true ∧
    (((demoCmd 0 []).modRing 0 (fun r => { r with begun := [] })).ring 0).begun = [] ∧ (0 + 1) % ((demoCmd 0 []).ring 0).entries = 1 ∧
    isPlain bar0 = false ∧ ¬(bar0 ≤ 3 * 2 ^ 44 ∧ 3 * 2 ^ 44 < bar0 + 2 ^ 24) := by decide +kernel
/-- JobAndTileCommands: the operands of JOBNEW; a tile that loads (its code page is mapped), and what refuses one. -/
def demoObject : TileObject :=
  { codeBase := 0x400000, codeLen := 8, code := List.replicate 8 0, actors := [], sets := [], jobcaps := [], fullLines := [], ring := 4096
    stallchk := false, quiesce := 1024, exq := 7, ansq := 8, traps := [], ckptTbl := 0 }
def demoLoad : State :=
  ((demoCmd 0 []).setQueue 7 { demoQueue 3 0x7E 0 with job := 1, cons := [], prods := [], desc := BitVec.ofNat 128 (0x402000 + 8 * 2 ^ 88 + 3 * 2 ^ 98 + 255 * 2 ^ 104 + 0x7E * 2 ^ 120) }).setQueue 8
    { demoQueue 1 0x7D 0 with job := 1, cons := [], prods := [], desc := BitVec.ofNat 128 (0x403000 + 8 * 2 ^ 88 + 1 * 2 ^ 98 + 255 * 2 ^ 104 + 0x7D * 2 ^ 120) }
theorem test_witness_load :
    objectOk demoObject = true ∧ demoLoad.isRetired (islandOfCore (4 * 255)) = false ∧ demoLoad.isArbor 255 = false ∧
    (demoLoad.quad 255).tile = none ∧ demoLoad.inPart 0 1 = true ∧ demoLoad.isArbor 0 = true ∧
    (match demoLoad.loadQuad 1 255 demoObject with
      | .ok _ => true
      | _ => false) = true ∧ mapFind demoLoad.jobs 2 = none ∧ demoLoad.tilesOf 1 = [] ∧ demoLoad.tileJob (.quad 255) = none := by decide +kernel
/-- JobAndTileCommands: a retired island, a fabric tile without an image; QueueCommands: a descriptor that is taken, one refused, a port. -/
theorem test_witness_queue_commands :
    (demoLoad.modIsland (islandOfCore 1020) (fun i => { i with retired := true })).isRetired (islandOfCore 1020) = true ∧
    (match demoLoad.loadFabric 1 0 ⟨0, 0, [], 7, 8⟩ with
      | .refused c => c == .cfgformat
      | _ => false) = true ∧
    (let q : Queue := { job := 1, desc := BitVec.ofNat 128 (0x400000 + 2 * 2 ^ 86 + 2 * 2 ^ 88 + 3 * 2 ^ 98 + 3 * 2 ^ 104) }
     descFields q.desc = true ∧ ¬(q.base % 128 ≠ 0 ∨ q.slotsN < q.cap ∨ 2 ^ 56 < q.base + q.footprint) ∧ demoLoad.inPart q.homeDie 1 = true ∧
       demoLoad.freeQueueId = some 1 ∧
       (match demoLoad.findPages ⟨.manager 1, q.homeIsland, 1, 2, false, none⟩ q.homeSpan (q.footprint / 4096 + 2) q.base (q.base + q.footprint) [] with
        | .ok l => l.length == 1
        | _ => false) = true ∧
       (match q.bindHost 4 with
        | .ok _ => true
        | _ => false) = true ∧
       (match q.bindHost (2 ^ 33) with
        | .error c => c == .illegal
        | _ => false) = true) ∧ (3 : Nat) % 4 = 3 := by decide +kernel
/-- CopyAndHdm: a copy inside HBM that nothing bars, one barred; lines of the HDM range. -/
theorem test_witness_copy :
    (demoCmd 0 []).copyBarred 1 0 128 = none ∧ (demoCmd 0 []).copyBarred 1 (3 * 2 ^ 44) 8 ≠ none ∧ (demoCmd 0 []).copyCheck 0 128 = none ∧
    (match (demoCmd 0 []).copyRead true 0 128 with
      | .ok l => l.length == 128
      | _ => false) = true ∧ (demoCmd 0 []).snoop 0 128 = none ∧ 0 + 128 ≤ 8 * (48 * 2 ^ 30) ∧ hdmAddr (0 + 128 - 1) = hdmAddr 0 + (128 - 1) ∧
    hdmAddr (48 * 2 ^ 30 - 64 + 64 - 1) = hdmAddr (48 * 2 ^ 30 - 64) + (64 - 1) ∧
    (match (demoCmd 0 []).trackAll (hdmAddr 0) 128 with
      | .inr _ => true
      | _ => false) = true := by decide +kernel
/-- DeviceCommands: a stall that runs and an accepted image; every die permits DEBUG, and one does not; operands at their limits. -/
theorem test_witness_device_commands :
    (demoCmd 0 []).cmdPart demoHdr = some 0 ∧ (demoCmd 0 []).imageOk 0 4 = true ∧ State.reset.imageOk 0 4 = false ∧
    (((demoCmd 0 []).startStall 0 2).stall 0 2).running = true ∧ ((demoCmd 0 []).stall 0 2).running = false ∧ ((demoCmd 0 []).die 3).dbg = true ∧
    (State.reset.die 0).dbg = false ∧ ((demoCmd 0 []).die (0xFFFF / 2 ^ 14)).part.1 = 0 ∧ (demoCmd 0 []).cmdPart { demoHdr with job := 9 } = none := by decide +kernel
/-- A flit of TYPE `ty` with 64 bytes of payload, LAST set, sequence number 0, source 3 and tag 7, and its CRC. -/
def demoFlit (ty len addr : Nat) : Flit :=
  let b := leBytes 8 (ty + 3 * 2 ^ 24 + 7 * 2 ^ 32 + len * 2 ^ 48 + 2 ^ 56) ++ leBytes 8 addr ++ List.replicate 232 0
  ⟨b ++ leBytes 8 (crc64 b)⟩
/-- A module with port 0 up and a first gigabyte open to peer 3. -/
def demoLink : State :=
  (State.reset.modLink 0 (fun l => { l with up := true })) |> fun s => { s with peers := vset s.peers 3 ⟨3, 0, 2 ^ 30⟩ }
/-- Links: a flit whose CRC holds and one whose does not; the types; a request within the aperture and one outside. -/
theorem test_witness_links :
    (demoFlit 1 64 0).good = true ∧ (⟨List.replicate 255 0⟩ : Flit).good = false ∧ (demoFlit 1 64 0).seq = (demoLink.link 0).rxSeq ∧
    (demoFlit 3 64 0).type = 3 ∧ (demoFlit 3 64 0).last = true ∧ (demoFlit 5 64 (1 + 2 ^ 16)).type = 5 ∧
    (demoLink.link 0).up = true ∧ (demoLink.link 11).up = false ∧ demoLink.inAperture 3 0 64 = true ∧ demoLink.inAperture 4 0 64 = false ∧
    isPlain (peerAddr 0) = true ∧ demoLink.poisoned (peerAddr 0) 64 = false ∧ demoLink.snoop (peerAddr 0) 64 = none ∧
    (demoLink.flitHeld 0 (demoFlit 7 0 0)).isNone = true := by decide +kernel
/-- Links: a lost port, its queue and another port to the peer; a queue for reduction blocks. -/
theorem test_witness_recovery :
    let x := { demoQueue 5 0x40 0 with prods := [{ owner := .host, remote := true, window := 1, link := some 1 }] }
    let s := demoLink.setQueue 7 x
    (s.link 1).up = false ∧ (s.linkFor 3 7).isSome = true ∧ s.roomDevice 7 false = true := by decide +kernel
/-- StallCalls: a stall that runs with one call taken and a queue for its calls; a reply queue that is gone. -/
theorem test_witness_stalls :
    let s := demo.modStall 0 1 (fun t => { t with running := true, calls := [(.host, 0, [0, 0, 0, 0, 0, 0, 0, 0])] })
    (s.stall 0 1).running = true ∧ (s.stall 0 1).calls = [(.host, 0, [0, 0, 0, 0, 0, 0, 0, 0])] ∧ (s.sendReply [0, 0, 0, 0, 0, 0, 0, 0] [0, 0, 0, 0]).isSome = true ∧
    (s.stall 0 2).running = false ∧ (s.stall 0 2).calls = [] ∧ s.stallHead 0 1 = none := by decide +kernel
/-- StallCalls: an item at the head of a stall's queue. -/
theorem test_witness_stall_head :
    let q := { demoQueue 3 0x60 0 with cons := [{ owner := .stall 0 1, headN := 0, headU := 0 }], prods := [{ owner := .tile (.quad 0), remote := false, window := 1 }] }
    let s := (demo.setQueue (stallQueue 0 1) q).pushDevice (stallQueue 0 1) false ⟨0, 0x60, 0, List.replicate 64 0⟩
    (s.stallHead 0 1).isSome = true ∧ (({} : Stall).recorded .host 0) = none := by decide +kernel
/-- BootStages: a die that runs, one that does not; stages that are missing. -/
theorem test_witness_boot :
    ((demoCmd 0 []).die 3).started = true ∧ (State.reset.die 3).started = false ∧ ([] : List Stage).find? (fun g => g.kind == 1) = none ∧
    (4 : Nat) ≠ 6 ∧ (255 : Nat) / 256 = 0 ∧ (256 : Nat) / 256 ≠ 0 ∧ objectOk demoObject = true ∧ State.reset.isRoleQuad 0 = false := by decide +kernel
/-- SecurityAndAttestation: each command in progress, arguments on both sides of their limits; the last index and none left. -/
theorem test_witness_security :
    let x (op arg : Nat) : Sec := { busy := true, cmd := BitVec.ofNat 64 (op * 2 ^ 60 + arg * 2 ^ 56) }
    (x 1 3).doing 1 = true ∧ (x 2 7).doing 2 = true ∧ (x 3 0).doing 3 = true ∧ (x 4 8).doing 4 = true ∧ (x 5 0).doing 5 = true ∧
    (x 1 3).arg = 3 ∧ (x 4 8).arg = 8 ∧ (x 1 3).revoked 3 = false ∧ (x 6 0).op = 6 ∧ ({} : Sec).busy = false ∧
    ({ hssIndex := 2 ^ 30 - 1 } : Sec).hssIndex < 2 ^ 30 ∧ 2 ^ 30 ≤ ({ hssIndex := 2 ^ 30 } : Sec).hssIndex ∧
    State.reset.host.spdmAlgs = false ∧ (State.reset.measurement 32).isSome = true ∧ State.reset.measurement 34 = none := by decide +kernel
/-- HealthAndErrors: an idle island, one in use; the supply and bins at their limits; a snooped line; an element of a tile. -/
theorem test_witness_health :
    State.reset.islandIdle 0 = true ∧ demo.islandIdle 0 = false ∧ (State.reset.die 0).supply < 680 ∧ (36 < (State.reset.island 0).marginBin) ∧
    (36 : Nat) ≤ 36 ∧ State.reset.islandIdle 255 = true ∧ (4000 : Nat) ≤ State.reset.limit ∧ isPlain 0 = true ∧ regionOf 0 ≤ 2 ∧
    isPlain (3 * 2 ^ 44) = false ∧ ((demoEl [] []).fabOf 0).isSome = true ∧ (demoEl [] []).fabOf 8 = none ∧ (State.reset.die 0).frozen = false ∧
    0 ∈ State.reset.partDies 0 := by decide +kernel
/-- StepRunsDecoded: core 0's turn, and it may issue; the word that it fetches, of enough privilege and not. -/
theorem test_witness_step :
    let s := demoAt 0x25000000
    s.powered = true ∧ s.gateDue = none ∧ s.sched = [.issue 0] ∧ ({ s with sched := [], cur := 0 } : State).issuable 0 = true ∧
    (match (({ s with sched := [], cur := 0 } : State).keepWord none).fetchAt 0 s.me s.my.pc.toNat with
      | .word t w => w == 0x25000000 && (wordCause (t.privOf t.cur) (0x3F * 2 ^ 23 + 16)).isNone
      | _ => false) = true ∧
    wordCause 0 (0x3F * 2 ^ 23 + 6) = some .priv ∧ wordCause 2 0xFFFFFFFF = some .illegal ∧
    (({ s with sched := [], curEl := 0 } : State)).dieClocked (elIsland 0 / 32) = true ∧
    (let v := demoEl [] []
     v.anyStatus 0 = none ∧ ((v.element 0).ctxs.get 0).isGrove = false ∧ ((v.element 0).ctxs.get 0).len ≠ 0 ∧
     decodeElement (((v.element 0).ctxs.get 0).words.get (Fin.ofNat 16 0)).toNat = .ok (.feNop 7 7 7 0 0)) := by decide +kernel
/-- RoundTrip: well-formed instructions of a core and of an element, with operands at the ends of their ranges; an event has no word. -/
theorem test_witness_round_trip :
    (Instr.addi 7 31 31 8191).wf = true ∧ encodeElement (.addi 7 31 31 8191) = none ∧ (encode (.addi 7 31 31 8191)).isSome = true ∧
    (Instr.feAdd 4 0 0 2 131071).wf = true ∧ (encodeElement (.feAdd 4 0 0 2 131071)).isSome = true ∧ encode .mfence = none := by decide +kernel
/-- StepsKeepMemoryForm: memory that lists a byte in its form, and an instruction that a step runs there. -/
theorem test_witness_memory_form :
    let s := State.reset.withFetchWord 32 0b00100000100101001101111111111101
    s.mem.wf = true ∧ s.mem ≠ [] ∧ (match step s with
      | .next t => t.mem.wf
      | _ => false) = true := by decide +kernel
/-- IssueRules: the supply off, a checked result on its way, a register with a result pending. -/
theorem test_witness_runs :
    ({ State.reset with powered := false } : State).sched = [] ∧
    (let s := demo.modMy (fun y => { y with fixed := [⟨.g 5 1, 9, true, 3⟩], vars := [⟨.g 6, none⟩] })
     s.atIssue.my.short [.g 5] [] 1 (s.my.since.getD s.issueCycle) = true ∧
     s.atIssue.my.short [.g 4] [.g 3] 1 (s.my.since.getD s.issueCycle) = false ∧ s.atIssue.repWaits [.g 6] = false ∧
     s.atIssue.my.blocker [.g 6] [] = some (.g 6)) := by decide +kernel
/-- QueuePops, QueuePush, QueueStatusAndManagers: no lower context takes the item first; the context's stores and pushes are done; a queue that it can
name and one that it cannot; a slot held by nobody. -/
theorem test_witness_queue_order :
    (match (demoItem 3 0).atIssue.myCons 0 with
      | some (id, x, _) => !(demoItem 3 0).atIssue.popYields 0 0 id x false 0
      | none => false) = true ∧
    ((demoQ 0 5 0).atIssue.releaseMine (some (7, 0, false))).2 = true ∧ (demoQ 0 5 0).atIssue.canName 7 = true ∧
    (demoQ 0 5 0).atIssue.canName 9 = false ∧
    (match (demoQ 3 0 0).atIssue.pushGate 0 false 2 0 true with
      | .free => true
      | _ => false) = true ∧ (demoQueue 3 0 0).sending 0 = false ∧ (demoQueue 3 0 0).heldSlots = [] ∧
    (demoQ 3 0 0).atIssue.my.held 0 true = none := by decide +kernel
/-- WaitsAndSwitches: a pop wait whose item stands there and one without; a barrier that has opened and one that has not; a signal. -/
theorem test_witness_wait_conditions :
    let pop : State → State := fun s => s.modMy (fun y => { y with wait := .pop, word := some (BitVec.ofNat 32 0b00011010000101000000000000100001) })
    (pop (demoItem 3 0)).popReady 0 0 = true ∧ (pop (demoQ 3 0 0)).popReady 0 0 = false ∧
    (demo.poke 64 (leBytes 16 (2 ^ 32))).barrierOpen 64 0 = true ∧ demo.barrierOpen 64 0 = false ∧
    demo.signalReached 64 0 = true ∧ demo.signalReached 64 1 = false := by decide +kernel
/-- ExceptionsAndAnswers: an actor without inputs that has a marker, and one whose exception queue has taken it; a context without a held record. -/
theorem test_witness_markers :
    let a : ActorSt := { decl := ⟨[], [], 0x400000, false, 0, none, [], none, 1⟩, direct := some 5 }
    let s := demo.modQuad 0 (fun q => { q with tile := some { irfinTile with actors := [a] } })
    s.unitRuns 0 = true ∧ s.actor? 0 0 = some a ∧ s.aligned 0 a = some 5 ∧ a.hold = .none ∧ a.inFlight = 0 ∧
    a.decl.outs.all ((s.modActor 0 0 (fun y => { y with hold := .draining 5 })).takesMarker 0) = true ∧ s.my.unposted = [] ∧
    s.aligned 0 { a with hold := .held 5 } = some 5 ∧ s.aligned 0 { a with hold := .moved 5 } = some 5 := by decide +kernel
/-- PreemptionAndRelease: a fabric tile in release whose call can never end, and one of which nothing is left. -/
theorem test_witness_fabric_release :
    let t : FabTile := { demoTile with releasing := true }
    let c : FabTile := { t with call := some { seq := 0, caller := .quad 0, arm := 1 } }
    (demo.setFab 0 c).callDead 0 c = true ∧ (demo.setFab 0 t).callDead 0 t = false ∧ t.between = true ∧ t.queue = [] ∧ t.prunes = [] ∧
    t.exitQ = [] ∧ (demo.setFab 0 t).entriesOf (.fabric 0) = false := by decide +kernel
/-- ElementArithmetic, ElementPorts, ElementSteps: a firing that is free to go; an access behind no ordering token; a word's markers; a tile
whose block was struck. -/
theorem test_witness_firing_free :
    let s := (demoEl [⟨2, 9, 0⟩] []).modElement 0 (fun y => { y with ctxs := vset y.ctxs 0 { y.ctxs.get 0 with words := Vector.replicate 16 0x20000 } })
    s.clear 0 0 { takes := [0, 1], sends := [(3, kData, 0)] } = true ∧
    (s.element 0).behindOrdt 0 ⟨0x20, 3, 0, 1, 0, 0, 0⟩ = false ∧ (((s.element 0).ctxs.get 0).markerPorts).1 = [0, 1] ∧
    (s.element 0).markerAt 0 = some 9 ∧ s.mayFire 0 0 = true ∧ s.stallsNow 0 0 = true ∧
    (∃ t : FabTile, t.between = true ∧ t.regraft = [0] ∧ t.image.Pairwise (fun a b => a.1 ≠ b.1) ∧ mapFind t.image 0 = some {}) := by
  refine ⟨by decide +kernel, by decide +kernel, by decide +kernel, by decide +kernel, by decide +kernel, by decide +kernel,
    ⟨{ demoTile with regraft := [0], image := [(0, {})] }, by decide +kernel⟩⟩
/-- Links: a port that fails by replays and one by silence; requests that nothing bars, out of the aperture, of a landing register not
enabled and of one that is full; an item of a peer's port. -/
theorem test_witness_link_requests :
    let s := { demoLink with peers := vset demoLink.peers 3 ⟨3, 0, 3 * 2 ^ 40⟩ }
    let a := 2 * 2 ^ 40 + windowAddr 32 0x1C00 % 2 ^ 40
    let pa := peerAddr a
    let on (l : BitVec 16) : State := s.modCtx 32 0 (fun y => { y with landctl := l })
    (demoLink.modLink 0 (fun l => { l with replays := 16 })).linkFails 0 = true ∧ ({ demoLink with micros := 25 }).linkFails 0 = true ∧
    demoLink.linkFails 0 = false ∧ s.peerBarred 3 0 64 = none ∧ s.peerBarred 4 0 64 = some .perm ∧
    isPlain pa = false ∧ s.peerBarred 3 a 128 = none ∧ s.copyCheck pa 128 = some .window ∧
    (on 0x0100).copyCheck pa 128 = none ∧ (on 0x0100).copyHeld pa 128 = false ∧ (on 0x0101).copyHeld pa 128 = true ∧
    (let x := { demoQueue 3 5 0 with prods := [{ owner := .peer 3, remote := true, window := 1, link := some 0 }] }
     x.far = none ∧ x.mapped.isSome = true ∧ x.prodOf (.peer 3) = some 0) := by decide +kernel
/-- Links: a queue for reduction blocks that the porter quad of port 0 has bound. -/
theorem test_witness_reduction :
    (demoLink.setQueue 7 { demoQueue 5 0x40 0 with cons := [{ owner := .tile (.quad (porterQuad 0)), headN := 0, headU := 0 }] }).reductionQueues 0
      = [7] := by
  have hq : demoLink.queues = [] := rfl
  have ht : (demoQueue 5 0x40 0).type = 0x40 := by decide +kernel
  have hs : (demoQueue 5 0x40 0).isz = 256 := by decide +kernel
  simp only [Queue.type, Queue.isz] at ht hs
  simp [State.reductionQueues, State.setQueue, hq, mapPut, Queue.type, Queue.isz, Queue.consOf, ht, hs]

/-- ElementArithmetic, StepRunsDecoded: `mul` fires in cycle 0 with latency 3 (R272): its token can be consumed at the neighbour from cycle 4, the
element fires no more in cycle 0, and its tile goes on to cycle 1; there it fires again, and the tile stays. -/
theorem test_witness_fabric_cycles :
    (match exec (.feMul 1 0 1 0 0 0) (demoEl [⟨0, 7, 0⟩] []) with
      | .next s =>
        let t := s.nextCycle 0
        ((s.element 1).fifos.get 3 == [⟨0, 49, 4⟩]) && ((s.seen 1).head 3).isNone && !s.mayFire 0 0 && (s.nextDue 0 demoTile == some 1)
          && !s.acts 0 && !s.acts 1 && (t.nowAt 0 == 1) && t.mayFire 0 0 && t.acts 0 && ((t.nextCycle 0).nowAt 0 == 1)
          && ((t.modFab 0 (fun x => { x with cycle := 4 })).seen 1).head 3 == some ⟨0, 49, 4⟩
      | _ => false) = true := by decide +kernel

/-! Hash functions, the LZ codec and the atomics of a host port, with values from their own standards. -/

/-- RFC 8878: a frame of the standard's format that holds "abc" seven times and "abd" (24 bytes), with its checksum, and the same with one byte
of the checksum changed. -/
theorem test_zstd_frame :
    let bs : List Byte := [0x28, 0xb5, 0x2f, 0xfd, 0x24, 0x18, 0x55, 0x00, 0x00, 0x20, 0x61, 0x62, 0x63, 0x64, 0x01, 0x00, 0xd2, 0x6e, 0x08, 0x8f,
      0x2e, 0xd1, 0x03]
    (decodeWith 1 4096 bs).good = true ∧ (decodeWith 1 4096 bs).out = (List.replicate 7 [0x61, 0x62, 0x63]).flatten ++ [0x61, 0x62, 0x64] ∧
    (decodeWith 1 4096 (bs.set 22 4)).good = false ∧ (decodeWith 1 4096 (bs.take 22)).good = false := by decide +kernel
/-- FIPS 180-4, its examples for the message "abc". -/
theorem test_sha :
    beNat (sha384 [0x61, 0x62, 0x63]) =
      0xcb00753f45a35e8bb5a03d699ac65007272c32ab0eded1631a8b605a43ff5bed8086072ba1e7cc2358baeca134c825a7 ∧
    beNat (sha256 [0x61, 0x62, 0x63]) = 0xba7816bf8f01cfea414140de5dae2223b00361a396177a9cb410ff61f20015ad := by decide +kernel
/-- R413: the sizes of the signature and of its parts. -/
theorem test_hss_sizes : hssBytes = 3292 ∧ otsBytes = 1252 ∧ lmsBytes = 1620 ∧ hssIndices = 2 ^ 30 := by decide +kernel
/-- P-384: its base point lies on the curve; the abscissa of twice the base point. -/
theorem test_p384 : onCurve g384 = true ∧ (mulPoint 2 2 (some g384)).map (·.1) =
    some 0x8d999057ba3d2d969260045c55b97f089025959a6f434d651d207d19fb96e9e4fe0e86ebe0e64f85b96a9c75295df61 := by decide +kernel

/-! Further witnesses: the clauses of the statements above that have conditions of their own. -/

/-- MatrixSteps: a coordinate of MMAS beyond the slab at the first nonzero, and one that fits; a sum that leaves int64; an ASTORE to code8 through a
table of class NONE. -/
theorem test_witness_matrix_stops :
    (let m : Mu := { sel := { bfmt := 2, boff := 0x1FFFF } }
     let s := demo.setMu 0 { m with queue := [⟨0, command 0x03 (7 * 256) 1024, 0, false⟩] }
     ¬((s.core 0).mu.sel.boff + (s.scratch 0 1024 2 % 4096 + 1) * inSize 2 ≤ 0x20000)) ∧
    ((2 ^ 63 : Nat) : Int) ≤ (BitVec.ofNat 64 (2 ^ 63 - 1)).toInt + [1, 0, 0, 0].sum ∧
    parseMu (command 0x12 (5 * 65536) 64) = some (.astore 0 5 false false false 0 64) ∧ (((demoMu (command 0x12 (5 * 65536) 64) false).core 0).mu.table 0).cls ≠ .none ∧
    ((({} : Mu).setEntry 0 0 0x80000).table ({} : Mu).sel.stbl).cls = .none := by decide +kernel
/-- VectorMergeAndSort: ascending lists of signed single lanes and of pairs. -/
theorem test_witness_merge :
    ([(255, 255), (1, 1)] : List (Nat × Nat)).Pairwise (fun a b => keyLe true 8 a.1 b.1 = true) ∧ (∀ e ∈ ([(255, 255), (1, 1)] : List (Nat × Nat)), e.1 = e.2 % 2 ^ 8) ∧
    ([(1, 1 + 7 * 2 ^ 8), (255, 255)] : List (Nat × Nat)).Pairwise (fun a b => keyLe false 8 a.1 b.1 = true) ∧
    (∀ e ∈ ([(1, 1 + 7 * 2 ^ 8), (255, 255)] : List (Nat × Nat)), e.1 = e.2 % 2 ^ 8) := by decide +kernel
/-- QueuePops, QueuePush, QueueStatusAndManagers: a hold on an item and on a slot of a mapped and of an unmapped queue; a queue whose lane has no room. -/
theorem test_witness_unmapped :
    let hold (w : Bool) (s : State) : State := s.modMy (fun y => { y with holds := [⟨0, 7, w, false, 0, 0⟩] })
    let away (s : State) : State := s.modQueue 7 (fun q => { q with mapped := none })
    ((hold false (demoItem 3 0)).atIssue.my.held 0 false).isSome = true ∧ ((hold true (demoQ 3 0 0)).atIssue.my.held 0 true).isSome = true ∧
    (match (away (hold false (demoItem 3 0))).atIssue.myCons 0 with
      | some (_, x, _) => x.mapped.isNone
      | none => false) = true ∧
    (match (away (hold true (demoQ 3 0 0))).atIssue.myProd 0 with
      | some (_, x, _) => x.mapped.isNone
      | none => false) = true ∧
    (let x := { demoQueue 3 0 0 with inflight := [{ port := 0, urgent := false, kind := 0, type := 0, mkid := 0, bytes := leBytes 64 1 }] }
     x.occupancy + x.slotsFor 0 ≤ x.cap ∧ (let y := { x with tailN := 4 }
     y.cap < y.occupancy + y.slotsFor 0)) := by decide +kernel
/-- PreemptionAndRelease: a quad in STATE 2, in STATE 3, with a value held; a context that a pre-emption stops at once and one that it does not. -/
theorem test_witness_preemption_states :
    let st (n : Fin 4) : State := demo.modQuad 0 (fun q => { q with ctlState := n })
    ((st 2).quad 0).ctlState = 2 ∧ ((st 2).quad 0).heldTarget = none ∧ ((st 3).quad 0).ctlState = 3 ∧ regionOf ((st 3).saveAt 0 0) = 0 ∧
    (((st 1).modMy (fun y => { y with wait := .trap, trapped := true })).ctx 0 0).stopsAtOnce = true ∧ ((st 1).ctx 0 0).stopsAtOnce = false ∧
    ((st 1).ctx 0 0).stopped = false := by decide +kernel
/-- ExceptionsAndAnswers: a context that faults on a word with a destination, nothing of it held back; a context in a firing, with its actor; a held
record that can be posted. -/
theorem test_witness_answers :
    let a : ActorSt := { decl := ⟨[], [], 0x400000, false, 0, none, [], none, 1⟩, inFlight := 1 }
    let e := { demoQueue 3 0x7E 0 with desc := (demoQueue 3 0x7E 0).desc, cons := [], prods := [{ owner := .tile (.quad 0), remote := false, window := 1 }] }
    let ad : BitVec 32 := BitVec.ofNat 32 0b00100000100101001101111111111101
    let s := (((demo.setQueue 7 e).modEx (.quad 0) (fun x => { x with exq := 7 })).modMy (fun y => { y with wait := .fault [], word := some ad }))
    (s.destsAt 0 s.me == [.g 5]) = true ∧ (s.ctx 0 s.me).unposted = [] ∧ (s.ctx 0 s.me).stopped = false ∧
    (match s.exSide? (.quad 0) with
      | some x => x.awaiting.all (fun w => !w.holder.isCtx 0 s.me) && x.reports.isEmpty
      | none => false) = true ∧
    (s.pushRecord (.quad 0) (s.contextRec 0 s.me .illegal 0) (heldBy (s.contextRec 0 s.me .illegal 0) 0 s.me)).isSome = true ∧ s.fabrics = [] ∧
    (let f := (demo.modQuad 0 (fun q => { q with tile := some { irfinTile with actors := [a] } })).modMy (fun y => { y with run := .firing 0 })
     f.my.run = .firing 0 ∧ f.my.holds = [] ∧ f.my.stores = [] ∧ f.actor? (firingKey 0).quad (firingKey 0).actor = some a ∧ f.queues = []) := by
  decide +kernel
/-- MessageAndTaskSteps: a part that a failing link has cut and that has waited 2^16 cycles, one that waits on and one that no link has cut; a die that
traffic reaches. -/
theorem test_witness_parts_cut :
    let m : Msg := ⟨5, 1, List.replicate 256 1⟩
    let s (c : Bool) (n : Nat) : State := State.reset.modCore 0 (fun k => { k with parts := [⟨m, 11, 0, c⟩], clock := n })
    ((s true 65536).core 0).parts.find? (fun y => y.cut && decide (y.beat + 2 ^ 16 ≤ ((s true 65536).core 0).clock)) = some ⟨m, 11, 0, true⟩ ∧
    ((s true 65535).core 0).clock < 0 + 2 ^ 16 ∧ ((s false 65536).core 0).parts.all (fun p => !p.cut) = true ∧ State.reset.reaches 0 3 = true := by
  decide +kernel
/-- FiringDispatchAndStealing: a thief refused as often as its ring gives, below the last ring. -/
theorem test_witness_ring_asked :
    let s := State.reset.modCore 0 (fun k => { k with steal := { k.steal with reply := some none, ring := 3, asked := List.replicate 32 1 } })
    (s.core 0).steal.reply = some none ∧ ringAsks (s.core 0).steal.ring ≤ (s.core 0).steal.asked.length ∧ (s.core 0).steal.ring < 4 := by decide +kernel
/-- What an engine's whole entry performs: the destination in reach, the data written over more than one line, the engine unchanged meanwhile. -/
def enginePerforms (s w : State) (tile : TileRef) (dst : Cap) (data : List Byte) (va : Nat) : Bool :=
  let a := s.engAccess 0x8000 tile
  let y := w.setBusy 0x8000 { data := some data, limit := data.length }
  decide (w.eng 0x8000 = s.eng 0x8000) && (w.engReach a dst (data.length / 128 + 2) va data.length 0).1 == data.length
    && (w.engReach a dst (data.length / 128 + 2) va data.length 0).2.isNone && decide (y.engAccess 0x8000 tile = a)
    && (match y.engWrite a 0x8000 dst (data.length / 128 + 2) va data 0 with
      | (v, n, .none) => n == data.length && decide (v.eng 0x8000 = y.eng 0x8000)
      | _ => false)
/-- An engine of core island 0 whose queue has one request at its head, begun. -/
def demoEngine (op : EngOp) (img : List Dword) (b : EngBusy) : State :=
  let k := mkCap 0xDF probePc 4096 3 probePc
  (demo.modEng 0x8000 (fun q => { q with entries := [.request op img k k (.reg 0 0 5) (.quad 0) 0], busy := some b })).modIsland (islandOfTile (.quad 0))
    (fun i => { i with tlb := [⟨0, probePc, 4096, 0, false, false, 0⟩] })
/-- EngineRequestsAndSteps: a copy over three lines, a layout, a decompression whose stream is well formed and one that is not. -/
theorem test_witness_engine_whole :
    let k := mkCap 0xDF probePc 4096 3 probePc
    (let img : List Dword := [BitVec.ofNat 64 probePc, BitVec.ofNat 64 (probePc + 640), 300, 0]
     let s := demoEngine .cp img {}
     let r := engReq img
     (match s.engRead (s.engAccess 0x8000 (.quad 0)) k false (r.len / 4096 + 2) r.src r.len [] with
      | .bytes w bs none => bs.length == r.len && enginePerforms s w (.quad 0) k bs r.dst
      | _ => false) = true) ∧
    (let s := (demoEngine .dcmp [BitVec.ofNat 64 probePc, BitVec.ofNat 64 (probePc + 640), 4, 0] {}).poke 0 [0x30, 1, 2, 3]
     (match s.engRead (s.engAccess 0x8000 (.quad 0)) k false 2 probePc 4 [] with
      | .bytes w bs none => (decodeWith 0 4096 bs).good && (decodeWith 0 4096 bs).out == [1, 2, 3]
          && enginePerforms s w (.quad 0) k (decodeWith 0 4096 bs).out (probePc + 640)
      | _ => false) = true ∧ (decodeWith 0 4096 []).good = false ∧ (decodeWith 0 4096 []).out = []) := by decide +kernel
/-- EngineRequestsAndSteps: a row of a scatter within the capability and one outside; a gathered row. -/
theorem test_witness_engine_rows :
    let k := mkCap 0xDF probePc 4096 3 probePc
    let img : List Dword := [BitVec.ofNat 64 probePc, BitVec.ofNat 64 (probePc + 1024), 2 + 64 * 2 ^ 40, BitVec.ofNat 64 (probePc + 2048)]
    let r := engReq img
    let s := demoEngine .cps img { indices := List.replicate r.len 0 }
    let x := (s.engAccess 0x8000 (.quad 0)).forRow 0x8000 0
    let va := rowAddr r.dst 0 r.rowlen
    0 < r.len ∧ k.check va r.rowlen permW = none ∧ (k.check (rowAddr r.dst 0xFFFFFF r.rowlen) r.rowlen permW).isSome = true ∧
    k.check (rowAddr r.src 0 r.rowlen) r.rowlen permR = none ∧ r.windowed = false ∧
    (match s.engRead x k false (r.rowlen / 4096 + 2) (r.src + 0 * r.rowlen) r.rowlen [] with
      | .bytes w bs none => decide (w.eng 0x8000 = s.eng 0x8000) && (match w.engWrite x 0x8000 k (r.rowlen / 128 + 2) va bs 0 with
        | (v, n, .none) => n == r.rowlen && decide (v.eng 0x8000 = s.eng 0x8000)
        | _ => false)
      | _ => false) = true ∧
    (match s.engRead x k true (r.rowlen / 4096 + 2) (rowAddr r.src 0 r.rowlen) r.rowlen [] with
      | .bytes w bs none => (match w.engWrite x 0x8000 k (r.rowlen / 128 + 2) r.dst bs 0 with
        | (_, _, .none) => true
        | _ => false)
      | _ => false) = true := by decide +kernel
/-- ElementStreams, ElementPorts: an error with another side's data token; sources without a marker and with one; one error token at a sink and two; a
fourth token of `xfer`; a parked access; a status word that may leave. -/
theorem test_witness_element_errors :
    let s := demoEl [⟨3, 7, 0⟩] []
    let d := s.modElement 0 (fun y => { y with fifos := vset y.fifos 1 [⟨0, 5, 0⟩] })
    kError = 3 ∧
    ((fifoPorts 0 1).filterMap (s.element 0).head).filter (fun t => t.kind.1 == kError) = [⟨3, 7, 0⟩, ⟨3, 7, 0⟩] ∧
    ((fifoPorts 0 1).filterMap (d.element 0).head).filter (fun t => t.kind.1 == kError) = [⟨3, 7, 0⟩] ∧
    (match (d.element 0).offer ((d.element 0).ctxs.get 0) 0 0, (d.element 0).offer ((d.element 0).ctxs.get 0) 0 1 with
      | some (k, _, _), some (j, _, _) => k == kError && j == kData
      | _, _ => false) = true ∧
    (fifoPorts 0 1).any (fun p => match (d.element 0).head p with
      | some t => t.kind.1 == kMarker
      | none => true) = false ∧
    (match d.shoot 0 0 0 { takes := fifoPorts 0 1 } with
      | .fired _ => true
      | _ => false) = true ∧ (d.fabOf 0).isSome = true ∧
    3 ≤ ({ xfer := [1, 2, 3] } : WordSt).xfer.length ∧
    ((d.acceptAccess 0 0).element 0).ctxs.toList.any (·.parked) = true ∧ d.tileHeld 0 = false ∧ d.dieClocked (elIsland 0 / 32) = true := by decide +kernel
/-- FabricReconfiguration: a commit behind a prune; a discard of a context with nothing staged; a region that is frozen; a fold whose image cannot be
read; registers of an image. -/
theorem test_witness_reconfiguration_clauses :
    let p : PruneReq := ⟨0, .reg 0 0 5, 0, 0, 1, {}, .quad 0⟩
    (∃ t : FabTile, t.between = true ∧ t.queue = [.commit 0 (.reg 0 0 5) 3 (.quad 0)] ∧ t.prunes ≠ []) ∧
    (∃ t : FabTile, t.between = true ∧ t.queue = [.discard 0 (.reg 0 0 5) 3 (.quad 0)] ∧ t.staged.get 3 = none) ∧
    p.fold ≠ 0 ∧ p.cap.check p.cap.cursor.toNat 64 permR = some .perm ∧
    (let s := (demoEl [⟨0, 7, 0⟩] []).modFab 0 (fun t => { t with folding := true })
     (s.fabOf 0).isSome = true ∧ s.mayFire 0 0 = false) := by
  refine ⟨⟨{ demoTile with queue := [.commit 0 (.reg 0 0 5) 3 (.quad 0)], prunes := [⟨0, .reg 0 0 5, 0, 0, 1, {}, .quad 0⟩] }, by decide +kernel⟩,
    ⟨{ demoTile with queue := [.discard 0 (.reg 0 0 5) 3 (.quad 0)] }, by decide +kernel⟩, by decide +kernel, by decide +kernel, by decide +kernel⟩
/-- ElementSteps: equal markers at every source of one armed context's word, and of no other's; a mark that goes no further. -/
theorem test_witness_marker_taken :
    let s := (demoEl [⟨2, 9, 0⟩] []).modElement 0 (fun y => { y with ctxs := vset y.ctxs 0 { y.ctxs.get 0 with words := Vector.replicate 16 0x20000 } })
    let y := s.seen 0
    ((y.ctxs.get 0).armed = true ∧ (y.ctxs.get 0).markerPorts.1 = [0, 1] ∧ y.markerAt 0 = some 9 ∧ y.markerAt 1 = some 9) ∧
    (∀ j : Fin 4, j ≠ 0 → (y.ctxs.get j).armed = false) ∧ s.mayFire 0 0 = true ∧
    s.clear 0 0 { takes := [0, 1], sends := (y.ctxs.get 0).markerPorts.2.map (fun j => (j, kMarker, 9)) } = true := by decide +kernel
/-- JobAndTileCommands: a TILELOAD whose C3 names the place it is given, and one whose does not. -/
theorem test_witness_load_place :
    (∃ e, (demoCmd 5 [0, 0, 255]).entryOf demoHdr 5 [0, 0, 255] = some e ∧ e.getD 3 0 = tileNo (targetRef (.core 255 demoObject))) ∧
    (∃ e, (demoCmd 5 [0, 0, 254]).entryOf demoHdr 5 [0, 0, 254] = some e ∧ e.getD 3 0 ≠ tileNo (targetRef (.core 255 demoObject))) :=
  ⟨⟨_, rfl, by decide +kernel⟩, ⟨_, rfl, by decide +kernel⟩⟩
/-- CopyAndHdm: an aligned dword of the HDM range, at its start and at its end; a VALID landing register that COPY waits for. -/
theorem test_witness_hdm_atomic :
    (demoCmd 0 []).hostRole = true ∧ (0 : Nat) % 8 = 0 ∧ hdmAddr (0 + 7) = hdmAddr 0 + 7 ∧ (8 * (48 * 2 ^ 30) - 8) % 8 = 0 ∧
    hdmAddr (8 * (48 * 2 ^ 30) - 8 + 7) = hdmAddr (8 * (48 * 2 ^ 30) - 8) + 7 ∧ (4 : Nat) % 8 ≠ 0 ∧ State.reset.hostRole = false ∧
    ((demoCmd 0 []).modCtx 32 0 (fun y => { y with landctl := 0x0101 })).copyHeld (windowAddr 32 0x1C00) 128 = true := by decide +kernel
/-- HostCommandForm: addresses that no register has, of BAR0, of the host's memory and of a device register. -/
theorem test_witness_register_addresses :
    regionOf (2 ^ 48) = 0x10 ∧ ¬(bar0 ≤ 2 ^ 48 ∧ 2 ^ 48 < bar0 + 2 ^ 24) ∧ isPlain (2 ^ 48) = true ∧ regionOf (3 * 2 ^ 44) ≠ 0x10 ∧
    isPlain (3 * 2 ^ 44) = false ∧ (4 : Dword).toNat % 16 = 4 ∧ (12 : Dword).toNat % 16 = 12 ∧ (3 : Dword).toNat % 16 < 4 ∧ 12 < (13 : Dword).toNat % 16 := by
  decide +kernel
/-- DeviceCommands: a partition with its lowest die; a scan read of a die that permits it, frozen and not; a die of another partition. -/
theorem test_witness_debug :
    let s := demoCmd 15 []
    let t := s.modDie 3 (fun d => { d with part := 1 })
    (s.die 0).part = 0 ∧ (∀ m, m < 0 → (s.die m).part ≠ 0) ∧ (s.die (3 * 2 ^ 14 / 2 ^ 14 % 4)).dbg = true ∧ (s.die 0).frozen = false ∧
    ((s.modDie 0 (fun d => { d with frozen := true })).die 0).frozen = true ∧ (t.die 3).part ≠ 0 ∧ (2 ^ 16 : Nat) / 2 ^ 16 ≠ 0 := by
  refine ⟨by decide +kernel, fun m h => absurd h (Nat.not_lt_zero m), by decide +kernel, by decide +kernel, by decide +kernel, by decide +kernel,
    by decide +kernel⟩
/-- Links: a module that takes flits and one whose die's Irfin was refused; a flit for this module and one for another; a far queue's producer with its
port up, an item of 32 bytes and a block; flits at the ends of their fields. -/
theorem test_witness_flits :
    State.reset.exposed = true ∧ (State.reset.modDie 2 (fun d => { d with refused := true })).exposed = false ∧
    (demoFlit 1 64 0).dst = 0 ∧ State.reset.peerIndex.1 = 0 ∧ (makeFlit 3 0 3 5 7 true false 0 []).dst ≠ State.reset.peerIndex.1 ∧
    (let x := { demoQueue 2 5 0 with far := some (3, 7), prods := [{ owner := .tile (.quad 0), remote := true, window := 1, link := some 0 }] }
     x.far = some (3, 7) ∧ x.prods[0]? = some { owner := .tile (.quad 0), remote := true, window := 1, link := some 0 } ∧ (demoLink.link 0).up = true ∧
     (leBytes 32 1).length ≤ 224 ∧ (leBytes 256 1).length = 256) ∧
    (makeFlit 255 0xFFFF 15 15 0xFFFF true true 255 (List.replicate 232 1)).good = true ∧ (List.replicate 232 (1 : Byte)).length ≤ 232 ∧
    (demoLink.flitHeld 0 (demoFlit 5 64 (1 + 2 ^ 16))).isNone = true ∧ bitsOf (demoFlit 5 64 (1 + 2 ^ 16)).addr 16 5 = 1 ∧
    (demoFlit 5 64 (1 + 2 ^ 16)).payload.length = 64 ∧ (demoFlit 0 64 0).type = 0 ∧ 7 < (demoFlit 8 64 0).type ∧
    plainRange (peerAddr 0) 64 = true ∧ plainRange (peerAddr (2 * 2 ^ 40 + windowAddr 32 0x1C00 % 2 ^ 40)) 64 = false := by decide +kernel
/-- Links: a far queue's producer whose port has failed while another port to the peer is up, with an item sent and one not. -/
theorem test_witness_link_recovery :
    let x := { demoQueue 3 5 0 with
      far := some (3, 7), prods := [{ owner := .tile (.quad 0), remote := true, window := 2, used := 2, link := some 1, failed := true }]
      inflight := [{ port := 0, urgent := false, kind := 0, type := 0, mkid := 0, bytes := leBytes 64 1 },
                   { port := 0, urgent := false, kind := 0, type := 0, mkid := 0, bytes := leBytes 64 2, unsent := true }] }
    let s := demoLink.setQueue 7 x
    s.queue? 7 = some x ∧ (x.prods[0]?).any (·.failed) = true ∧ x.mapped.isSome = true ∧
    ((x.prods[0]?).bind (x.farEnd 7)).bind (fun e => s.linkFor e.1 e.2) = some 0 ∧
    ((demoLink.modLink 0 (fun l => { l with replays := 16 })).link 0).up = true := by decide +kernel
/-- StallCalls: an answer that is due and whose reply queue has gone, and one that waits for room; a call that another one waits for. -/
theorem test_witness_stall_answers :
    let call : List Dword := [5, 0, 0, 0, 0, 0, 0, 0]
    let due : State := demo.modStall 0 1 (fun t => { t with running := true, answers := [(.host, 5, call, [5, 0, 0, 0])] })
    (due.stall 0 1).running = true ∧ (due.stall 0 1).answers = [(.host, 5, call, [5, 0, 0, 0])] ∧ (due.sendReply call [5, 0, 0, 0]).isSome = true ∧
    (let q := { demoQueue 2 0x61 0 with cons := [{ owner := .host, headN := 0, headU := 0 }], prods := [{ owner := .stall 0 1, remote := false, window := 0 }] }
     let c7 : List Dword := [5, 7 * 2 ^ 16, 0, 0, 0, 0, 0, 0]
     replyQueue c7 = 7 ∧ ((due.setQueue 7 { q with tailN := 4 }).sendReply c7 [5, 0, 0, 0]).isNone = true ∧
       ((due.setQueue 7 q).sendReply c7 [5, 0, 0, 0]).isSome = true) ∧
    (let two : State := demo.modStall 0 1 (fun t => { t with running := true, calls := [(.host, 5, call), (.host, 5, call)] })
     (two.stall 0 1).calls = [(.host, 5, call), (.host, 5, call)] ∧ (two.stall 0 1).answers = []) := by decide +kernel
/-- BootStages: the supply gone; a stage of another kind; a die that does not run. -/
theorem test_witness_power : ({ State.reset with powered := false } : State).powered = false ∧ State.reset.powered = true ∧
    ([⟨3, [], []⟩] : List Stage).find? (fun g => g.kind == 2) = none ∧ ((demoCmd 0 []).modDie 1 (fun d => { d with started := false })).powered = true := by
  decide +kernel
/-- SecurityAndAttestation: algorithms that are agreed and not; a controller that is free with an index left, the last one, and none. -/
theorem test_witness_attestation :
    ({ State.reset with host := { State.reset.host with spdmAlgs := true } } : State).host.spdmAlgs = true ∧
    ((0x80 : BitVec 32).getLsbD 7 && (2 : BitVec 32).getLsbD 1) = true ∧ ((0x80 : BitVec 32).getLsbD 7 && (1 : BitVec 32).getLsbD 1) = false ∧
    (State.reset.die 0).sec.busy = false ∧ (State.reset.die 0).sec.hssIndex < 2 ^ 30 ∧
    (1 : BitVec 8) ≠ 0 ∧ (33 : BitVec 8) ≠ 255 ∧ (State.reset.measurement 1).isSome = true ∧ (State.reset.measurement 33).isSome = true := by decide +kernel
/-- HealthAndErrors: an idle window of 2 ms and less of one; an island whose last sweep passed, one whose failed, one not swept for an hour; a line
that a host cache has modified. -/
theorem test_witness_health_windows :
    let at_ (n : Nat) : State := { State.reset with micros := n }
    let swept (b : Bool) (n : Nat) : State := (at_ n).modIsland 0 (fun i => { i with sweepOk := some b })
    (at_ 2000).islandIdle 0 = true ∧ ((at_ 2000).island 0).busyAt + 2000 ≤ (at_ 2000).micros ∧ (at_ 1999).micros < ((at_ 1999).island 0).busyAt + 2000 ∧
    ((swept true 0).island 0).sweepOk = some true ∧ (swept true 3599999999).micros < ((swept true 0).island 0).sweptAt + 3600000000 ∧
    ((swept false 0).island 0).sweepOk ≠ some true ∧ ((swept true 0).island 0).sweptAt + 3600000000 ≤ (swept true 3600000000).micros ∧
    (State.reset.island 0).raisedAt + 1000 ≤ (at_ 1000).micros ∧ ((at_ 0).modIsland 0 (fun i => { i with powerBin := 53 })).island 0 ≠ (at_ 0).island 0 ∧
    (36 < (State.reset.island 0).bin) ∧ (leBytes 64 1).length = 64 := by decide +kernel

end Sys2Proof.Tests
end

section
/-! The numbering of dies, islands, cores and stack groups (R16 to R18, R20, R25 to R27): what each reading of a module position gives at
the position of an island of a die, at the islands of the cores and the fabric islands, and how the levels nest. -/
namespace Sys2Proof.Machine

/-! A module position is read back through its column X and its row Y (R18). -/

theorem modulePos_column (d x y : Nat) (hx : x < 8) : modulePos d x y % 16 = 8 * (d % 2) + x := by
  have hX : 8 * (d % 2) + x < 16 := by omega
  rw [modulePos, Nat.add_mul_mod_self_left, Nat.mod_eq_of_lt hX]

theorem modulePos_row (d x y : Nat) (hx : x < 8) : modulePos d x y / 16 = 8 * (d / 2) + y := by
  have hX : 8 * (d % 2) + x < 16 := by omega
  rw [modulePos, Nat.add_mul_div_left _ _ (by decide), Nat.div_eq_of_lt hX, Nat.zero_add]

theorem modulePos_lt (d x y : Nat) (hd : d < 4) (hx : x < 8) (hy : y < 8) : modulePos d x y < 256 := by
  have hrow := modulePos_row d x y hx
  omega

theorem dieOfIsland_modulePos (d x y : Nat) (hx : x < 8) (hy : y < 8) : dieOfIsland (modulePos d x y) = d := by
  rw [dieOfIsland, modulePos_column d x y hx, modulePos_row d x y hx]
  omega

theorem xOfIsland_modulePos (d x y : Nat) (hx : x < 8) : xOfIsland (modulePos d x y) = x := by
  rw [xOfIsland, modulePos_column d x y hx, Nat.mul_add_mod, Nat.mod_eq_of_lt hx]

theorem yOfIsland_modulePos (d x y : Nat) (hx : x < 8) (hy : y < 8) : yOfIsland (modulePos d x y) = y := by
  rw [yOfIsland, modulePos_row d x y hx, Nat.mul_add_mod, Nat.mod_eq_of_lt hy]

theorem indexOfIsland_modulePos (d x y : Nat) (hx : x < 8) (hy : y < 8) :
    indexOfIsland (modulePos d x y) = 4 * y + x / 2 := by
  rw [indexOfIsland, xOfIsland_modulePos d x y hx, yOfIsland_modulePos d x y hx hy]

theorem stackOfIsland_modulePos (d x y : Nat) (hx : x < 8) (hy : y < 8) :
    stackOfIsland (modulePos d x y) = 2 * d + y / 4 := by
  rw [stackOfIsland, dieOfIsland_modulePos d x y hx hy, yOfIsland_modulePos d x y hx hy]

theorem isCoreIsland_modulePos (d x y : Nat) (hx : x < 8) (hy : y < 8) :
    isCoreIsland (modulePos d x y) = ((x + y) % 2 == 0) := by
  rw [isCoreIsland, xOfIsland_modulePos d x y hx, yOfIsland_modulePos d x y hx hy]

/-- The checkerboard of R17 runs unbroken across the dies: 8 is even (R18). -/
theorem modulePos_parity (d x y : Nat) (hx : x < 8) :
    (modulePos d x y % 16 + modulePos d x y / 16) % 2 = (x + y) % 2 := by
  rw [modulePos_column d x y hx, modulePos_row d x y hx]
  omega

/-- Half of a die's 64 islands are core islands and half are fabric islands (R17), counted over the positions of the module. -/
theorem islands_per_die : ∀ d < 4,
    ((List.range 256).filter (fun p => dieOfIsland p == d && isCoreIsland p)).length = 32 ∧
    ((List.range 256).filter (fun p => dieOfIsland p == d && !isCoreIsland p)).length = 32 := by
  decide +kernel

/-! The island of an index: its column and row lie in the die, make the index again, and have the parity of its kind (R17). -/

theorem rowOf_lt (i : Nat) (hi : i < 32) : rowOf i < 8 := Nat.div_lt_of_lt_mul hi

theorem colOfCoreIsland_lt (i : Nat) : colOfCoreIsland i < 8 := by
  rw [colOfCoreIsland]; omega

theorem colOfFabIsland_lt (i : Nat) : colOfFabIsland i < 8 := by
  rw [colOfFabIsland]; omega

theorem coreIsland_index (i : Nat) : 4 * rowOf i + colOfCoreIsland i / 2 = i := by
  rw [rowOf, colOfCoreIsland]; omega

theorem fabIsland_index (i : Nat) : 4 * rowOf i + colOfFabIsland i / 2 = i := by
  rw [rowOf, colOfFabIsland]; omega

theorem coreIsland_even (i : Nat) : (colOfCoreIsland i + rowOf i) % 2 = 0 := by
  rw [rowOf, colOfCoreIsland]; omega

theorem fabIsland_odd (i : Nat) : (colOfFabIsland i + rowOf i) % 2 = 1 := by
  rw [rowOf, colOfFabIsland]; omega

/-! The island of a core (R20). -/

theorem coreIslandRow_lt (c : Nat) : rowOf (c / 32 % 32) < 8 := rowOf_lt _ (Nat.mod_lt _ (by decide))

theorem isCoreIsland_islandOfCore (c : Nat) : isCoreIsland (islandOfCore c) = true := by
  rw [islandOfCore, isCoreIsland_modulePos _ _ _ (colOfCoreIsland_lt _) (coreIslandRow_lt c), coreIsland_even]
  rfl

theorem dieOfIsland_islandOfCore (c : Nat) : dieOfIsland (islandOfCore c) = c / 1024 :=
  dieOfIsland_modulePos _ _ _ (colOfCoreIsland_lt _) (coreIslandRow_lt c)

theorem indexOfIsland_islandOfCore (c : Nat) : indexOfIsland (islandOfCore c) = c / 32 % 32 := by
  rw [islandOfCore, indexOfIsland_modulePos _ _ _ (colOfCoreIsland_lt _) (coreIslandRow_lt c), coreIsland_index]

theorem firstCoreOfIsland_islandOfCore (c : Nat) : firstCoreOfIsland (islandOfCore c) = c / 32 * 32 := by
  rw [firstCoreOfIsland, dieOfIsland_islandOfCore, indexOfIsland_islandOfCore]
  omega

/-! A fabric island of a die. -/

theorem isCoreIsland_islandOfFab (d f : Nat) (hf : f < 32) : isCoreIsland (islandOfFab d f) = false := by
  rw [islandOfFab, isCoreIsland_modulePos _ _ _ (colOfFabIsland_lt f) (rowOf_lt f hf), fabIsland_odd]
  rfl

theorem dieOfIsland_islandOfFab (d f : Nat) (hf : f < 32) : dieOfIsland (islandOfFab d f) = d :=
  dieOfIsland_modulePos _ _ _ (colOfFabIsland_lt f) (rowOf_lt f hf)

theorem indexOfIsland_islandOfFab (d f : Nat) (hf : f < 32) : indexOfIsland (islandOfFab d f) = f := by
  rw [islandOfFab, indexOfIsland_modulePos _ _ _ (colOfFabIsland_lt f) (rowOf_lt f hf), fabIsland_index]

/-! The levels nest (R26, R27): a quad lies in one island, an island in one stack group, a stack group in one die. -/

theorem islandOfCore_eq_of_quad_eq {a b : Nat} (h : a / 4 = b / 4) : islandOfCore a = islandOfCore b := by
  have hdie : a / 1024 = b / 1024 := by omega
  have hisland : a / 32 = b / 32 := by omega
  rw [islandOfCore, islandOfCore, hdie, hisland]

/-- Two stack groups make a die (R25). -/
theorem stackOfIsland_half (p : Nat) : stackOfIsland p / 2 = dieOfIsland p := by
  have hy : yOfIsland p < 8 := Nat.mod_lt _ (by decide)
  rw [stackOfIsland]
  omega

theorem dieOfIsland_eq_of_stack_eq {p r : Nat} (h : stackOfIsland p = stackOfIsland r) : dieOfIsland p = dieOfIsland r := by
  rw [← stackOfIsland_half p, ← stackOfIsland_half r, h]

theorem islandsWithin_succ {l p r : Nat} (h : islandsWithin l p r = true) : islandsWithin (l + 1) p r = true := by
  match l with
  | 0 | 1 => exact h
  | 2 => exact beq_iff_eq.mpr (congrArg stackOfIsland (eq_of_beq h))
  | 3 => exact beq_iff_eq.mpr (dieOfIsland_eq_of_stack_eq (eq_of_beq h))
  | _ + 4 => rfl

theorem coresWithin_succ {l a b : Nat} (h : coresWithin l a b = true) : coresWithin (l + 1) a b = true := by
  match l with
  | 0 => exact beq_iff_eq.mpr (congrArg (· / 4) (eq_of_beq h))
  | 1 => exact beq_iff_eq.mpr (islandOfCore_eq_of_quad_eq (eq_of_beq h))
  | _ + 2 => exact islandsWithin_succ h

/-- Settles O55: a module position is read back through its column and row, the islands of a die are counted, and the islands of the
cores and the fabric islands are positions of their index. -/
theorem numbering : Obligations.Numbering := by
  unfold Obligations.Numbering
  refine ⟨fun d x y hd hx hy => ?_, islands_per_die, fun c _ => ?_, fun d f _ hf => ?_, fun _ _ _ _ _ => coresWithin_succ⟩
  · refine ⟨rfl, modulePos_lt d x y hd hx hy, dieOfIsland_modulePos d x y hx hy, xOfIsland_modulePos d x y hx,
      yOfIsland_modulePos d x y hx hy, indexOfIsland_modulePos d x y hx hy, stackOfIsland_modulePos d x y hx hy, ?_,
      modulePos_parity d x y hx⟩
    rw [isCoreIsland_modulePos d x y hx hy, beq_iff_eq]
  · exact ⟨rfl, isCoreIsland_islandOfCore c, dieOfIsland_islandOfCore c, indexOfIsland_islandOfCore c, firstCoreOfIsland_islandOfCore c⟩
  · exact ⟨isCoreIsland_islandOfFab d f hf, dieOfIsland_islandOfFab d f hf, indexOfIsland_islandOfFab d f hf⟩

end Sys2Proof.Machine
end

section
/-! The matrix unit (R208, R214, R216): what its accumulator reads as after an element, a row, a tile is written, how a command at the
head begins, and what the commands that change nothing but the unit leave. -/
namespace Sys2Proof.Machine

/-! Two updates of one core. -/

/-- Of two writes at one key, the later one stays. -/
theorem mapPut_mapPut_same {α : Type} (a : Nat) (x y : α) (l : List (Nat × α)) : mapPut a y (mapPut a x l) = mapPut a y l := by
  induction l with
  | nil => simp [mapPut]
  | cons e r ih =>
    obtain ⟨k, v⟩ := e
    by_cases hlt : a < k
    · simp [mapPut, hlt]
    · by_cases heq : a = k
      · simp [mapPut, heq]
      · simp [mapPut, hlt, heq, ih]

theorem State.modCore_modCore (s : State) (c : Nat) (f g : Core → Core) :
    (s.modCore c f).modCore c g = s.modCore c (fun k => g (f k)) := by
  have hcore : (s.modCore c f).core c = f (s.core c) := by simp
  rw [State.modCore, hcore]
  simp only [State.modCore, State.setCore, mapPut_mapPut_same]

/-! The accumulator's elements. -/

/-- Another queue and another end of occupation leave the elements. -/
@[simp] theorem Mu.el_occupied (m : Mu) (q : List MuEntry) (b t k : Nat) :
    ({ m with queue := q, busyTo := b } : Mu).el t k = m.el t k := rfl

@[simp] theorem Mu.el_setOvf (m : Mu) (t : Nat) (b : Bool) (u k : Nat) : (m.setOvf t b).el u k = m.el u k := rfl

theorem Mu.el_setEl (m : Mu) (t k : Nat) (x : Dword) (u l : Nat) (hk : k < 256) (hl : l < 256) :
    (m.setEl t k x).el u l = if u = t ∧ l = k then x else m.el u l := by
  have hkey : 256 * u + l = 256 * t + k ↔ u = t ∧ l = k := by omega
  simp only [Mu.el, Mu.setEl]
  split
  · next hx => rw [mapGet_mapDel, hx]; simp only [hkey]
  · rw [mapGet_mapPut]; simp only [hkey]

theorem Mu.setEl_eq_acc (m : Mu) (t k : Nat) (x : Dword) : m.setEl t k x = { m with acc := (m.setEl t k x).acc } := rfl

/-- The first `n` elements of row `i` of tile `t` written, from left to right. -/
def Mu.setRow (m : Mu) (t i : Nat) (g : Nat → Dword) (n : Nat) : Mu :=
  (List.range n).foldl (fun m j => m.setEl t (16 * i + j) (g j)) m

/-- The first `n` rows of tile `t` written, from the top down. -/
def Mu.setRows (m : Mu) (t : Nat) (v : Nat → Nat → Dword) (n : Nat) : Mu :=
  (List.range n).foldl (fun m i => m.setRow t i (v i) 16) m

theorem Mu.setRow_succ (m : Mu) (t i : Nat) (g : Nat → Dword) (n : Nat) :
    m.setRow t i g (n + 1) = (m.setRow t i g n).setEl t (16 * i + n) (g n) := by
  simp [Mu.setRow, List.range_succ]

theorem Mu.setRows_succ (m : Mu) (t : Nat) (v : Nat → Nat → Dword) (n : Nat) :
    m.setRows t v (n + 1) = (m.setRows t v n).setRow t n (v n) 16 := by
  simp [Mu.setRows, List.range_succ]

theorem Mu.setRow_eq_acc (m : Mu) (t i : Nat) (g : Nat → Dword) (n : Nat) :
    m.setRow t i g n = { m with acc := (m.setRow t i g n).acc } := by
  induction n with
  | zero => rfl
  | succ n ih => rw [Mu.setRow_succ, Mu.setEl_eq_acc, ih]

theorem Mu.setRows_eq_acc (m : Mu) (t : Nat) (v : Nat → Nat → Dword) (n : Nat) :
    m.setRows t v n = { m with acc := (m.setRows t v n).acc } := by
  induction n with
  | zero => rfl
  | succ n ih => rw [Mu.setRows_succ, Mu.setRow_eq_acc, ih]

@[simp] theorem Mu.setRows_tbl (m : Mu) (t : Nat) (v : Nat → Nat → Dword) (n : Nat) : (m.setRows t v n).tbl = m.tbl := by
  rw [Mu.setRows_eq_acc]

@[simp] theorem Mu.setRows_ovf (m : Mu) (t : Nat) (v : Nat → Nat → Dword) (n : Nat) : (m.setRows t v n).ovf = m.ovf := by
  rw [Mu.setRows_eq_acc]

theorem Mu.el_setRow (m : Mu) (t i : Nat) (g : Nat → Dword) (n u l : Nat) (hi : i < 16) (hn : n ≤ 16) (hl : l < 256) :
    (m.setRow t i g n).el u l = if u = t ∧ l / 16 = i ∧ l % 16 < n then g (l % 16) else m.el u l := by
  induction n with
  | zero => simp [Mu.setRow]
  | succ n ih =>
    rw [Mu.setRow_succ, Mu.el_setEl _ _ _ _ _ _ (by omega) hl, ih (by omega)]
    by_cases hlast : l = 16 * i + n
    · have hrow : l / 16 = i := by omega
      have hcol : l % 16 = n := by omega
      simp [hlast.symm, hrow, hcol]
    · have hcol : l / 16 = i ∧ l % 16 < n + 1 ↔ l / 16 = i ∧ l % 16 < n := by omega
      simp only [hlast, and_false, if_false, hcol]

theorem Mu.el_setRows (m : Mu) (t : Nat) (v : Nat → Nat → Dword) (n u l : Nat) (hn : n ≤ 16) (hl : l < 256) :
    (m.setRows t v n).el u l = if u = t ∧ l / 16 < n then v (l / 16) (l % 16) else m.el u l := by
  induction n with
  | zero => simp [Mu.setRows]
  | succ n ih =>
    rw [Mu.setRows_succ, Mu.el_setRow _ _ _ _ _ _ _ (by omega) (Nat.le_refl 16) hl, ih (by omega)]
    have hcol : l % 16 < 16 := Nat.mod_lt _ (by decide)
    by_cases hlast : l / 16 = n
    · simp [hlast, hcol]
    · have hrow : l / 16 < n + 1 ↔ l / 16 < n := by omega
      simp [hlast, hrow]

theorem Mu.el_zero (m : Mu) (t u k : Nat) (hk : k < 256) : (m.zero t).el u k = if u = t then 0 else m.el u k := by
  have hkey : (256 * u + k) / 256 = u := by omega
  rw [Mu.el, Mu.zero, mapGet_filter 0 (fun a => a / 256 != t), hkey]
  by_cases hu : u = t <;> simp [hu, Mu.el]

/-! OVF. -/

theorem Mu.setOvf_false_getLsbD (m : Mu) (t u : Nat) (hu : u < 8) :
    (m.setOvf t false).ovf.getLsbD u = (m.ovf.getLsbD u && u != t) := by
  have hbit : (BitVec.ofNat 8 (2 ^ t)).getLsbD u = (u == t) := by
    rw [BitVec.getLsbD_ofNat, Nat.testBit_two_pow, decide_eq_true hu, Bool.true_and, Bool.beq_eq_decide_eq, decide_eq_decide]
    exact eq_comm
  rw [Mu.setOvf, if_neg Bool.false_ne_true, BitVec.getLsbD_and, BitVec.getLsbD_not, hbit, decide_eq_true hu, Bool.true_and, bne]

/-! Beginning. -/

section
variable {s : State} {e : MuEntry} {r : List MuEntry} {cmd : MuCmd}

/-- The head command that has not begun runs, stays at the head as begun, and occupies the unit for its cycles. -/
theorem State.muBegin_head (hq : (s.core s.cur.1).mu.queue = e :: r) (hb : e.begun = false) (hp : parseMu e.words = some cmd) :
    s.muBegin cmd = (s.muRun s.cur.1 e cmd).modCore s.cur.1 (fun k => { k with mu := { k.mu with
      queue := { e with begun := true } :: r, busyTo := (s.core s.cur.1).clock + cmd.cycles } }) := by
  simp [State.muBegin, hq, hb, hp]

/-- A head command that changes nothing but the unit of its core leaves that unit, occupied, and nothing else. -/
theorem State.muBegin_of_muRun_eq_setMu (hq : (s.core s.cur.1).mu.queue = e :: r) (hb : e.begun = false)
    (hp : parseMu e.words = some cmd) {u : Mu} (hrun : s.muRun s.cur.1 e cmd = s.setMu s.cur.1 u) :
    s.muBegin cmd = s.modCore s.cur.1 (fun k => { k with mu := { u with
      queue := { e with begun := true } :: r, busyTo := (s.core s.cur.1).clock + cmd.cycles } }) := by
  rw [State.muBegin_head hq hb hp, hrun, State.setMu, State.modCore_modCore]

end

/-! BSEL and TBLSEL (R216). -/

theorem MuSel.after_bsel (x : MuSel) (f : Fin 8) (o : Nat) : x.after (.bsel f.1 o) = { x with bfmt := f, boff := o } := by
  rw [MuSel.after, Fin.ofNat_val_eq_self]

theorem MuSel.after_tblsel (x : MuSel) (a b c : Fin 4) :
    x.after (.tblsel a.1 b.1 c.1) = { x with atbl := a, btbl := b, stbl := c } := by
  simp only [MuSel.after, Fin.ofNat_val_eq_self]

/-- Settles O19: a selection changes `sel` of the unit and nothing else. -/
theorem selectionCommands : Obligations.SelectionCommands := by
  unfold Obligations.SelectionCommands
  intro s e r hq hb
  refine ⟨fun f o hp => ?_, fun a b c hp => ?_⟩
  · have hbegin := State.muBegin_of_muRun_eq_setMu hq hb hp rfl
    rw [MuSel.after_bsel] at hbegin
    exact congrArg Host.Outcome.next hbegin
  · have hbegin := State.muBegin_of_muRun_eq_setMu hq hb hp rfl
    rw [MuSel.after_tblsel] at hbegin
    exact congrArg Host.Outcome.next hbegin

/-! AZERO and ALOAD (R214). -/

/-- The element (i, j) that ALOAD makes: the value at its place in the scratchpad, as SFMT converts it (Table 9-3). -/
def State.aloadEl (s : State) (c f off str i j : Nat) : Dword :=
  let x := s.scratch c (off + i * str + j * outSize f) (outSize f)
  if f = 0 then BitVec.ofNat 64 x else if f = 1 then BitVec.ofInt 64 (signedOf 32 x)
  else BitVec.ofNat 64 (binary64.of 0 (binary32.value x)).bits

/-- ALOAD clears OVF and writes the sixteen rows of its tile. -/
theorem State.muAload_eq_setRows (s : State) (c : Nat) (m : Mu) (t f off str : Nat) :
    s.muAload c m t f off str = (m.setOvf t false).setRows t (s.aloadEl c f off str) 16 := by
  match f with
  | 0 => rfl
  | 1 => rfl
  | _ + 2 => rfl

/-- Unit `u` is unit `m` with the elements of tile `t` set to `v` and its OVF cleared: the other tiles and the tables are those of `m`. -/
structure Mu.TileSet (m u : Mu) (t : Nat) (v : Nat → Nat → Dword) : Prop where
  el_tile : ∀ i j, i < 16 → j < 16 → u.el t (16 * i + j) = v i j
  el_other : ∀ y k, y ≠ t → k < 256 → u.el y k = m.el y k
  ovf : ∀ y, y < 8 → u.ovf.getLsbD y = (m.ovf.getLsbD y && y != t)
  tbl : u.tbl = m.tbl

theorem Mu.zero_tileSet (m : Mu) (t : Nat) : m.TileSet (m.zero t) t (fun _ _ => 0) where
  el_tile i j hi hj := by rw [Mu.el_zero _ _ _ _ (by omega), if_pos rfl]
  el_other y k hy hk := by rw [Mu.el_zero _ _ _ _ hk, if_neg hy]
  ovf _ hy := Mu.setOvf_false_getLsbD _ _ _ hy
  tbl := rfl

theorem State.muAload_tileSet (s : State) (c : Nat) (m : Mu) (t f off str : Nat) :
    m.TileSet (s.muAload c m t f off str) t (s.aloadEl c f off str) := by
  rw [State.muAload_eq_setRows]
  refine ⟨fun i j hi hj => ?_, fun y k hy hk => ?_, fun y hy => ?_, Mu.setRows_tbl ..⟩
  · have hrow : (16 * i + j) / 16 = i := by omega
    have hcol : (16 * i + j) % 16 = j := by omega
    rw [Mu.el_setRows _ _ _ _ _ _ (Nat.le_refl 16) (by omega), hrow, hcol, if_pos ⟨rfl, hi⟩]
  · rw [Mu.el_setRows _ _ _ _ _ _ (Nat.le_refl 16) hk, if_neg (fun h => hy h.1), Mu.el_setOvf]
  · rw [Mu.setRows_ovf, Mu.setOvf_false_getLsbD _ _ _ hy]

/-- Settles O20: AZERO and ALOAD each set one tile of the unit of their core and change nothing else of the state but that unit. -/
theorem tileZeroAndLoad : Obligations.TileZeroAndLoad := by
  unfold Obligations.TileZeroAndLoad
  intro s e r tile hq hb m after
  have begins : ∀ (i : Instr) (cmd : MuCmd) (u : Mu) (v : Nat → Nat → Dword), exec i s = .next (s.muBegin cmd) →
      parseMu e.words = some cmd → s.muRun s.cur.1 e cmd = s.setMu s.cur.1 u → m.TileSet u tile.1 v →
      ∃ t, exec i s = .next t ∧ after t cmd.cycles v := by
    intro i cmd u v hi hp hrun ⟨htile, hother, hovf, htbl⟩
    rw [hi, State.muBegin_of_muRun_eq_setMu hq hb hp hrun]
    refine ⟨_, rfl, ?_⟩
    simp only [after, State.core_modCore, if_true, Mu.el_occupied, true_and]
    exact ⟨htile, hother, hovf, htbl, rfl⟩
  exact ⟨fun hp => begins _ _ _ _ rfl hp rfl (Mu.zero_tileSet ..),
    fun f off str hp => begins _ _ _ _ rfl hp rfl (State.muAload_tileSet ..)⟩

end Sys2Proof.Machine
end
